-- ==== Sys2Proof/Word.lean ====
section
/-! DEFINITION. The word types of the spec (R23, R114, R154, R257), bit fields (R4) and the finite tables State is made of. -/

namespace Sys2Proof

/-- A byte. -/
abbrev Byte := BitVec 8
/-- A general register, R23. -/
abbrev Word := BitVec 64
/-- A vector register of 64 bytes, R257. -/
abbrev VReg := BitVec 512
/-- A shape record of 32 bytes, R114. -/
abbrev Shape := BitVec 256

/-- bits [lo + len - 1 : lo] of x as a number (R4, R174). -/
def fld {n : Nat} (x : BitVec n) (lo len : Nat) : Nat := (x.extractLsb' lo len).toNat

/-- x with bits [lo + len - 1 : lo] replaced by the low bits of v. -/
def setFld {n : Nat} (x : BitVec n) (lo len : Nat) (v : BitVec n) : BitVec n :=
  let mask : BitVec n := (BitVec.ofNat n (2 ^ len - 1)) <<< lo
  (x &&& ~~~mask) ||| ((v <<< lo) &&& mask)

/-- A finite table: pairs of a key and a value, keys strictly rising. -/
abbrev Tab (α : Type) := List (Nat × α)

/-- The value at key k, if the table has one. -/
def Tab.find {α : Type} : Tab α → Nat → Option α
  | [], _ => none
  | (j, v) :: r, k => if j = k then some v else Tab.find r k

/-- The value at key k, or d. -/
def Tab.findD {α : Type} (t : Tab α) (k : Nat) (d : α) : α := (Tab.find t k).getD d

/-- The table with v at key k. -/
def Tab.put {α : Type} : Tab α → Nat → α → Tab α
  | [], k, v => [(k, v)]
  | (j, w) :: r, k, v =>
    if k < j then (k, v) :: (j, w) :: r else if k = j then (k, v) :: r else (j, w) :: Tab.put r k v

/-- The table without key k. -/
def Tab.del {α : Type} : Tab α → Nat → Tab α
  | [], _ => []
  | (j, w) :: r, k => if j = k then Tab.del r k else (j, w) :: Tab.del r k

/-- A rising list of numbers with x in it. -/
def insertNat : List Nat → Nat → List Nat
  | [], x => [x]
  | y :: r, x => if x < y then x :: y :: r else if x = y then y :: r else y :: insertNat r x

/-- A rising list of numbers without x. -/
def removeNat (l : List Nat) (x : Nat) : List Nat := l.filter (· != x)

/-- The bytes of a number, least significant first (R4). -/
def bytesOfNat : Nat → Nat → List Byte
  | 0, _ => []
  | n + 1, v => BitVec.ofNat 8 v :: bytesOfNat n (v / 256)

/-- The number whose little-endian bytes these are (R4). -/
def natOfBytes : List Byte → Nat
  | [] => 0
  | b :: r => b.toNat + 256 * natOfBytes r

/-- The floor of log2 of a positive number; 0 for 0. -/
def log2N (n : Nat) : Nat := Nat.log2 n

/-- n divided by d, rounded up. -/
def ceilDiv (n d : Nat) : Nat := (n + d - 1) / d

end Sys2Proof
end

