-- ==== Sys2Proof/Syntax.lean ====
section
/-! DEFINITION. Instructions as data: the fields of the five slot A formats (R160, R161), of slot V (R166), and one
constructor per row of spec/opcode_table.json: the halves of a bundle and the events of the part (95_what_each_step_holds). -/

namespace Sys2Proof

/-- Format AR of slot A (R161); bits [31:0] are zero in the encoding. -/
structure AR where
  pn : Bool
  pg : BitVec 3
  rd : BitVec 4
  ra : BitVec 4
  ea : Bool
  rb : BitVec 4
  eb : Bool
  fn : BitVec 6
deriving DecidableEq, Repr

/-- Format AI of slot A (R161). -/
structure AI where
  pn : Bool
  pg : BitVec 3
  rd : BitVec 4
  ra : BitVec 4
  ea : Bool
  imm : BitVec 32
  fn : BitVec 11
deriving DecidableEq, Repr

/-- Format AM of slot A (R161, R162); bit [24] is zero in the encoding. -/
structure AM where
  pn : Bool
  pg : BitVec 3
  rd : BitVec 4
  ra : BitVec 4
  ea : Bool
  rb : BitVec 4
  eb : Bool
  sc : BitVec 4
  sz : BitVec 3
  hint : BitVec 2
  ord : BitVec 3
  x : Bool
  off : BitVec 24
deriving DecidableEq, Repr

/-- Format AB of slot A (R161, R163, R164); bits [33:32] are zero in the encoding. -/
structure AB where
  pn : Bool
  pg : BitVec 3
  rd : BitVec 4
  ra : BitVec 4
  ea : Bool
  rb : BitVec 4
  eb : Bool
  cc : BitVec 4
  off : BitVec 32
deriving DecidableEq, Repr

/-- Format AX of slot A (R161). -/
structure AX where
  pn : Bool
  pg : BitVec 3
  rd : BitVec 4
  imm : BitVec 48
deriving DecidableEq, Repr

/-- The fields of slot V (R166). -/
structure VF where
  pn : Bool
  pg : BitVec 3
  vd : BitVec 5
  dcl : BitVec 2
  dsc : BitVec 3
  va : BitVec 5
  na : Bool
  xa : Bool
  ea : Bool
  ga : BitVec 2
  vb : BitVec 5
  nb : Bool
  xb : Bool
  eb : Bool
  gb : BitVec 2
  tag : BitVec 6
  ty : BitVec 4
  rm : BitVec 3
  u : Bool
  gs : BitVec 4
  eg : Bool
  fn : BitVec 3
deriving DecidableEq, Repr

/-- Every row of the opcode table: the halves of slot A (R171), the halves of slot V (R172), and the events (rules named by
their meanings). Event arguments name the agent that moves (a core, a slot, a message, a launch, a die, a porter) and carry
what comes from outside the module. -/
inductive Instr where
  -- slot A
  | nop
  | add (f : AR)
  | sub (f : AR)
  | mul (f : AR)
  | mulh (f : AR)
  | mulhu (f : AR)
  | div (f : AR)
  | divu (f : AR)
  | rem (f : AR)
  | remu (f : AR)
  | and (f : AR)
  | or (f : AR)
  | xor (f : AR)
  | andn (f : AR)
  | shl (f : AR)
  | shr (f : AR)
  | sar (f : AR)
  | rot (f : AR)
  | min (f : AR)
  | max (f : AR)
  | minu (f : AR)
  | maxu (f : AR)
  | clz (f : AR)
  | ctz (f : AR)
  | popc (f : AR)
  | sext (f : AI)
  | zext (f : AI)
  | bfx (f : AI)
  | bfi (f : AI)
  | addi (f : AI)
  | muli (f : AI)
  | andi (f : AI)
  | ori (f : AI)
  | xori (f : AI)
  | shli (f : AI)
  | shri (f : AI)
  | sari (f : AI)
  | li (f : AX)
  | lih (f : AX)
  | lx (f : AX)
  | cmp (f : AR)
  | cmpi (f : AI)
  | pand (f : AR)
  | por (f : AR)
  | pxor (f : AR)
  | pandn (f : AR)
  | ptog (f : AR)
  | gtop (f : AR)
  | csel (f : AR)
  | addp (f : AR)
  | pidx (f : AR)
  | pfmt (f : AI)
  | pchk (f : AR)
  | br (f : AB)
  | bcmp (f : AB)
  | call (f : AB)
  | ret (f : AR)
  | jr (f : AR)
  | jalr (f : AR)
  | loop (f : AB)
  | rdsys (f : AI)
  | trap (f : AI)
  | brk (f : AI)
  | wtsw (f : AR)
  | ld (f : AM)
  | ldn (f : AM)
  | st (f : AM)
  | ldv (f : AM)
  | stv (f : AM)
  | ldp (f : AM)
  | stp (f : AM)
  | lsh (f : AM)
  | ssh (f : AM)
  | shset (f : AI)
  | shget (f : AI)
  | ldf (f : AM)
  | ldfk (f : AM)
  | ste (f : AM)
  | stf (f : AM)
  | fest (f : AM)
  | feset (f : AM)
  | amoadd (f : AM)
  | amoand (f : AM)
  | amoor (f : AM)
  | amoxor (f : AM)
  | amomin (f : AM)
  | amomax (f : AM)
  | amominu (f : AM)
  | amomaxu (f : AM)
  | amoswap (f : AM)
  | amocas (f : AM)
  | fence (f : AM)
  | chunk (f : AI)
  | pref (f : AM)
  | tagwait (f : AR)
  | tagany (f : AR)
  | tagff (f : AR)
  | tagclr (f : AR)
  | post (f : AR)
  | take (f : AR)
  | peek (f : AR)
  | peekM (f : AR)
  | fork (f : AR)
  | join (f : AR)
  | callat (f : AR)
  | reply (f : AR)
  | send (f : AR)
  | chblk (f : AR)
  | chunblk (f : AR)
  | mig (f : AR)
  | migc (f : AR)
  | exit (f : AR)
  | yield (f : AR)
  | launch (f : AR)
  | barinit (f : AI)
  | bararr (f : AR)
  | barwait (f : AR)
  | barlink (f : AR)
  | barrd (f : AR)
  | gang (f : AI)
  | hsift (f : AR)
  | route (f : AR)
  | rhome (f : AR)
  | rcommit (f : AR)
  | rabort (f : AR)
  | rstat (f : AR)
  | afetch (f : AR)
  | afetchRel (f : AR)
  | spec (f : AR)
  | callh (f : AR)
  | reth (f : AR)
  | hrel (f : AR)
  | hinfo (f : AR)
  | hkeep (f : AR)
  -- slot V
  | nopV
  | vadd (f : VF)
  | vsub (f : VF)
  | vmul (f : VF)
  | vfma (f : VF)
  | vmin (f : VF)
  | vmax (f : VF)
  | vand (f : VF)
  | vor (f : VF)
  | vxor (f : VF)
  | vshl (f : VF)
  | vshr (f : VF)
  | vsar (f : VF)
  | vcmp (f : VF)
  | vsel (f : VF)
  | vsplat (f : VF)
  | vmov (f : VF)
  | vext (f : VF)
  | vins (f : VF)
  | viota (f : VF)
  | vperm (f : VF)
  | vrcp (f : VF)
  | vrsqrt (f : VF)
  | vexp2 (f : VF)
  | vlog2 (f : VF)
  | vtanh (f : VF)
  | vsigm (f : VF)
  | vsqrt (f : VF)
  | vcvt (f : VF)
  | vscale (f : VF)
  | vgath (f : VF)
  | vscat (f : VF)
  | vfill (f : VF)
  | vredadd (f : VF)
  | vredmax (f : VF)
  | vredmin (f : VF)
  | vscan (f : VF)
  | vnz (f : VF)
  | vcompact (f : VF)
  | vargmax (f : VF)
  | vsoftmax (f : VF)
  | mma (f : VF)
  | mmar (f : VF)
  | manchor (f : VF)
  | macc (f : VF)
  | mclr (f : VF)
  | mld (f : VF)
  | mrot (f : VF)
  | mrotDrop (f : VF)
  | mseg (f : VF)
  | cp (f : VF)
  | cpg (f : VF)
  | cps (f : VF)
  | cpfill (f : VF)
  | cpr (f : VF)
  | cprPull (f : VF)
  | cpdur (f : VF)
  -- events
  | rotationReentry (c : Nat) (k : Nat)
  | schedulerBind (c : Nat)
  | stealProbe (c : Nat)
  | stealRequest (m : Nat)
  | stealReply (m : Nat)
  | stealRetry (c : Nat)
  | rootPlacement
  | rootWalk (l : Nat) (r : Nat)
  | rootWalkRetry (l : Nat) (r : Nat)
  | completionWordWrite (l : Nat)
  | instructionBoundaryPark (c : Nat) (k : Nat)
  | memoryReply (m : Nat)
  | homeSliceAccess (m : Nat)
  | ownerCoreAccess (m : Nat)
  | remoteCacheFill (m : Nat)
  | remoteCacheInvalidate (m : Nat)
  | writeAcknowledge (m : Nat)
  | durablePersist (m : Nat)
  | commitRequest (m : Nat)
  | commitGrant (a : Nat)
  | commitNotice (m : Nat)
  | soloTokenRequest (m : Nat)
  | soloTokenGrant
  | fullEmptyAccess (m : Nat)
  | postArrival (m : Nat)
  | messageResend (m : Nat)
  | callatArrival (m : Nat)
  | channelMessageArrival (m : Nat)
  | channelControlArrival (m : Nat)
  | migrationArrival (m : Nat)
  | migrationResend (m : Nat)
  | migrationRefusedReturn (m : Nat)
  | barrierArrival (m : Nat)
  | barrierCompletionNotice (m : Nat)
  | barrierForwardResend (m : Nat)
  | waitWatchdogExpiry (c : Nat) (k : Nat)
  | vectorCommandStart (c : Nat)
  | vectorCommandComplete (c : Nat)
  | matrixCommandStart (c : Nat)
  | matrixFeedCycle (c : Nat)
  | lastBlockCheck (c : Nat)
  | matrixCommandComplete (c : Nat)
  | latchCommandStart (c : Nat)
  | latchFillComplete (c : Nat)
  | mrotTransferComplete (c : Nat)
  | mmarArrival (m : Nat)
  | mmarCompletionNotice (m : Nat)
  | copyCommandStart (c : Nat) (q : Nat)
  | copyCommandComplete (c : Nat) (q : Nat)
  | shelfFill (cl : Nat)
  | shelfFillComplete (cl : Nat)
  | foldStart (cl : Nat)
  | foldComplete (cl : Nat)
  | handleUpdate (m : Nat)
  | depotImagePersist (m : Nat)
  | routeArrival (m : Nat)
  | sendListFlushTimeout (d : Nat) (n : Nat)
  | batchHeader (m : Nat)
  | batchAnswer (m : Nat)
  | routedContextReturn (m : Nat)
  | rhomeRow (m : Nat)
  | rcommitArrival (m : Nat)
  | rabortArrival (m : Nat)
  | transactionEndNotice (m : Nat)
  | faultRecordDelivery (c : Nat)
  | recordRedelivery (c : Nat)
  | resume (p : Nat)
  | endThread (p : Nat)
  | halt (p : Nat)
  | stepThread (p : Nat)
  | recordQueuePop (p : Nat)
  | partitionWrite (p : Nat) (v : Word)
  | moduleIdWrite (p : Nat) (v : Word)
  | imageQuotaWrite (p : Nat) (v : Word)
  | dvdataWrite (p : Nat) (csr : Nat) (v : Word)
  | porterAccess (p : Nat) (pa : Nat) (n : Nat) (wr : Bool) (v : Word)
  | launchSubmission (m : Nat)
  | submissionWrite (t : Nat) (ws : List Word)
  | submissionResend (m : Nat)
  | dependencePoll (l : Nat) (j : Nat)
  | preemptionStop (l : Nat) (c : Nat)
  | preemptionSave (l : Nat) (c : Nat)
  | holdResend (m : Nat)
  | launchResume (l : Nat)
  | pageWalk (m : Nat)
  | pageRequestResend (m : Nat)
  | pageRequestAnswer (d : Nat) (x : Nat) (ans : Nat)
  | frameAttributeWrite (d : Nat) (f : Nat) (v : Word)
  | frameScrubComplete (d : Nat) (f : Nat)
  | shootdownRequest (t : Nat) (n : Nat)
  | shootdownComplete (t : Nat)
  | ringStopCycle (p : Nat)
  | starveRaise (p : Nat) (tap : Bool)
  | meterWindowEnd (p : Nat)
  | flitReassembly (c : Nat)
  | creditReturn (q : Nat)
  | bulkRequestTimeout (m : Nat)
  | messageAnswerTimeout (m : Nat)
  | purseRefill (c : Nat)
  | hostWindowWrite (off : Nat) (n : Nat) (v : Nat)
  | hostWindowRead (off : Nat) (n : Nat)
  | hostStreamWrite (t : Nat) (st : Nat) (sq : Nat) (off : Nat) (n : Nat) (v : Nat)
  | streamBrokenTimeout (t : Nat) (st : Nat)
  | streamStatusReset (t : Nat) (st : Nat)
  | functionLevelReset (t : Nat)
  | peerLinkUp (l : Nat) (far : Nat)
  | officeMaskStagingWrite (j : Nat) (n : Nat) (v : Word)
  | powerOnReset
  | moduleReset
  | clearFailsReset
  | bootStage0 (r : Nat)
  | bootStage1 (r : Nat) (lc : Nat)
  | bootStage2 (r : Nat)
  | bootStage3 (r : Nat)
  | officeReadyTimeout
  | tenantFunctionTimeout
  | coolantTemperatureFault
  | dramRefresh (vt : Nat)
  | dramTemperatureChange (d : Nat) (band : Nat)
  | dramPatrolScrub (vt : Nat)
  | sramPatrolScrub (c : Nat)
  | scrubWriteBack (x : Nat)
  | linkCalibration (l : Nat) (cyc : Nat)
  | depotWearLevelling
  | powerLoss (kept : List Nat)
  | memoryReplyTimeout (c : Nat) (k : Nat)
  | hubCrossing (m : Nat)
  | peerLinkDown (l : Nat)
  | powerGating (cl : Nat)
  | softError (pa : Nat) (bad : Bool)
deriving DecidableEq, Repr

end Sys2Proof
end

