-- ==== Sys2Proof/WellFormed.lean ====
section
/-! DEFINITION. The checks of decode (R158, R161, R162, R163, R165, R167, R168, R173 and the chapters of the instructions):
which field values a half may hold. A half that fails one raises the reserved-code fault. -/

namespace Sys2Proof

/-- Unused AR fields are zero (R161, R165): the arguments say whether RD, RA, RB, EA, EB are used. -/
def AR.only (f : AR) (rd ra rb ea eb : Bool) : Bool :=
  (rd || f.rd == 0) && (ra || f.ra == 0) && (rb || f.rb == 0) && (ea || !f.ea) && (eb || !f.eb)

/-- Unused AI fields are zero: the arguments say whether RD, RA, EA are used. -/
def AI.only (f : AI) (rd ra ea : Bool) : Bool :=
  (rd || f.rd == 0) && (ra || f.ra == 0) && (ea || !f.ea)

/-- Unused AM fields are zero: base and index are used by every AM instruction. -/
def AM.only (f : AM) (rd : Bool) : Bool := rd || f.rd == 0

/-- R162: EB with RB = 0 marks a field that is not read. -/
def AM.idxOk (f : AM) : Bool := f.rb != 0 || !f.eb

/-- Unused AB fields are zero: the arguments say whether RD, RA, RB, EA, EB are used. -/
def AB.only (f : AB) (rd ra rb ea eb : Bool) : Bool :=
  (rd || f.rd == 0) && (ra || f.ra == 0) && (rb || f.rb == 0) && (ea || !f.ea) && (eb || !f.eb)

/-- A register field that names a predicate holds 0 to 7 (R187). -/
def predOk (r : BitVec 4) : Bool := decide (r.toNat < 8)

/-- An even register number (R211, R346). -/
def evenReg (r : BitVec 4) : Bool := r.toNat % 2 == 0

/-- A group of four registers begins at 0, 4, 8 or 12 (R234). -/
def quadOk (r : BitVec 4) : Bool := r.toNat % 4 == 0

/-- R184: the field immediate of bfx and bfi: POS in [5:0], LEN in [12:6], zeros above. -/
def fieldOk (imm : BitVec 32) : Bool :=
  decide (imm.toNat < 8192) && decide (1 ≤ fld imm 6 7) && decide (fld imm 0 6 + fld imm 6 7 ≤ 64)

/-- R61: the legal pairs of a format and a block code; format 15 is refused (R49). -/
def fmtBlkOk (fmt blk : Nat) : Bool :=
  match fmt with
  | 9 => blk == 4 || blk == 5
  | 10 => blk == 4 || blk == 5
  | 11 => blk == 4 || blk == 5
  | 12 => blk == 5
  | 13 => blk == 5
  | 14 => blk == 4 || blk == 5
  | 15 => false
  | _ => blk == 0

/-- R222: the fields of chunk's immediate. -/
def chunkOk (imm : BitVec 32) : Bool :=
  let budget := fld imm 5 11
  let scope := fld imm 0 4
  decide (imm.toNat < 65536) && (budget == 0 || (decide (16 ≤ budget) && decide (budget ≤ 1024))) &&
    (if fld imm 4 1 = 1 then decide (scope < 8) else scope == 0)

/-- R246: bits [31:22] of barinit's immediate are zero, the barrier is 0 to 47 and CNT at least 1. -/
def barOk (imm : BitVec 32) : Bool :=
  decide (imm.toNat < 2 ^ 22) && decide (fld imm 0 6 < 48) && decide (1 ≤ fld imm 6 16)

/-- Register form: every operand is a v register (R167); an unused operand code is 0. -/
def VF.isReg (f : VF) : Bool := decide (f.vd.toNat < 16) && decide (f.va.toNat < 16) && decide (f.vb.toNat < 16)

/-- Every operand is a v register and TAG is zero (R167, R168). -/
def VF.regForm (f : VF) : Bool := f.isReg && f.tag == 0

/-- R168: register form has TAG zero. (That VD of a shape form is an h operand is checked at issue, R261.) -/
def VF.dOk (f : VF) : Bool := !f.isReg || f.tag == 0

/-- VD is an h operand. -/
def VF.hD (f : VF) : Bool := decide (16 ≤ f.vd.toNat)
/-- VA is an h operand. -/
def VF.hA (f : VF) : Bool := decide (16 ≤ f.va.toNat)
/-- VB is an h operand. -/
def VF.hB (f : VF) : Bool := decide (16 ≤ f.vb.toNat)

/-- The operand VA is read; m says whether as a number, so that NA and XA may be set. GA only in register form (R168). -/
def VF.useVA (f : VF) (m : Bool) : Bool := (m || (!f.na && !f.xa)) && (f.ga == 0 || f.isReg)
/-- The operand VB is read; m says whether as a number. -/
def VF.useVB (f : VF) (m : Bool) : Bool := (m || (!f.nb && !f.xb)) && (f.gb == 0 || f.isReg)
/-- The operand VA is not read, and all its fields are zero (R167). -/
def VF.noVA (f : VF) : Bool := f.va == 0 && !f.na && !f.xa && !f.ea && f.ga == 0
/-- The operand VB is not read, and all its fields are zero (R167). -/
def VF.noVB (f : VF) : Bool := f.vb == 0 && !f.nb && !f.xb && !f.eb && f.gb == 0
/-- GS is not read (R167). -/
def VF.noGS (f : VF) : Bool := f.gs == 0 && !f.eg

/-- R258: two sources, the second VB or, with FN bit 0, the scalar of GS; num says whether NA, XA, NB, XB may be set. -/
def VF.twoSrc (f : VF) (num : Bool) : Bool :=
  f.useVA num && decide (f.fn.toNat ≤ 1) && f.dOk &&
    (if f.fn = 1 then f.vb == 0 && !f.eb && f.gb == 0 && (num || (!f.nb && !f.xb))
     else f.useVB num && f.noGS)

/-- TY is an integer element type (R48). -/
def VF.isInt (f : VF) : Bool := decide (1 ≤ f.ty.toNat) && decide (f.ty.toNat ≤ 3)
/-- TY is BF16, FP16 or FP32 (R48). -/
def VF.isFloat (f : VF) : Bool := decide (6 ≤ f.ty.toNat) && decide (f.ty.toNat ≤ 8)
/-- The types of the vector lanes (R49). -/
def VF.laneTy (f : VF) : Bool := f.isInt || f.isFloat
/-- The integer types. -/
def VF.intTy (f : VF) : Bool := f.isInt
/-- The element types 0x1 to 0x8. -/
def VF.elemTy (f : VF) : Bool := decide (1 ≤ f.ty.toNat) && decide (f.ty.toNat ≤ 8)
/-- U only with an integer TY (R49, R168). -/
def VF.uOk (f : VF) : Bool := !f.u || f.isInt
/-- TY is not used. -/
def VF.noType (f : VF) : Bool := f.ty == 0

/-- The fields of a numeric result (R259, R260): RM not reserved, .unit not on an integer, U only on an integer. -/
def VF.arith (f : VF) : Bool := decide (f.rm.toNat ≤ 5) && (f.dcl != 3 || !f.isInt) && f.uOk
/-- No numeric result is formed: DCL, DSC and RM are zero (R260). -/
def VF.plain (f : VF) : Bool := f.dcl == 0 && f.dsc == 0 && f.rm == 0 && f.uOk

/-- Element width in bytes of the lane types, log2 (R257). -/
def VF.logw (f : VF) : Nat :=
  match f.ty.toNat with
  | 1 => 0
  | 2 => 1
  | 3 => 2
  | 4 => 0
  | 5 => 0
  | 6 => 1
  | 7 => 1
  | 8 => 2
  | _ => 0

/-- R268: the lane number of vext and vins is below n. -/
def VF.laneSel (f : VF) : Bool :=
  decide (f.fn.toNat ≤ 1) && !f.nb && !f.xb && !f.eb && f.gb == 0 &&
    decide (f.vb.toNat + 32 * f.fn.toNat < 64 >>> f.logw)

/-- R268: in vext and vins, VB holds a lane number: the register form is that of VD and VA alone. -/
def VF.laneForm (f : VF) : Bool := decide (f.vd.toNat < 16) && decide (f.va.toNat < 16) && f.tag == 0

/-- R273 for vcvt: both types, the forms, the clamp and U. -/
def VF.cvtOk (f : VF) : Bool :=
  let src := f.gs.toNat
  let dst := f.ty.toNat
  let intS := decide (1 ≤ src) && decide (src ≤ 3)
  decide (1 ≤ src) && decide (src ≤ 14) && decide (1 ≤ dst) && decide (dst ≤ 14) &&
    (!f.isReg || (decide (src ≤ 8) && decide (dst ≤ 8))) &&
    (decide (f.dcl.toNat ≤ 1) || decide (dst ≤ 8)) && (f.dcl != 3 || !f.isInt) &&
    decide (f.rm.toNat ≤ 5) && (!f.u || intS || f.isInt)

/-- R274 for vscale: a floating TY forms a number; a block TY, in shape form only, takes no modifier. -/
def VF.scaleOk (f : VF) : Bool :=
  decide (f.rm.toNat ≤ 5) &&
    (f.isFloat || (decide (9 ≤ f.ty.toNat) && decide (f.ty.toNat ≤ 13) && !f.isReg && !f.na && !f.xa && f.ga == 0 &&
      f.dsc == 0 && f.dcl == 0))

/-- The engine commands read no E bits, gang offsets, source modifiers, DCL, DSC or RM (R285, R304). -/
def VF.engine (f : VF) : Bool :=
  !f.ea && !f.eb && f.ga == 0 && f.gb == 0 && !f.na && !f.xa && !f.nb && !f.xb && f.dcl == 0 && f.dsc == 0 && f.rm == 0

/-- R287: B is an h operand, or with FN bit 1 an operand latch, 0 or 1. -/
def VF.bOrLatch (f : VF) : Bool := if f.fn.getLsbD 1 then decide (f.vb.toNat ≤ 1) else f.hB

/-- An instruction that R173 does not refuse at decode: every field the instruction does not use is zero, and every code
is one the instruction accepts. Events have no encoding and no check. -/
def Instr.wf : Instr → Bool
  | .nop => true
  | .add f => f.only true true true true true && f.fn == 0
  | .sub f => f.only true true true true true && f.fn == 0
  | .mul f => f.only true true true true true && f.fn == 0
  | .mulh f => f.only true true true true true && f.fn == 0
  | .mulhu f => f.only true true true true true && f.fn == 0
  | .div f => f.only true true true true true && f.fn == 0
  | .divu f => f.only true true true true true && f.fn == 0
  | .rem f => f.only true true true true true && f.fn == 0
  | .remu f => f.only true true true true true && f.fn == 0
  | .and f => f.only true true true true true && f.fn == 0
  | .or f => f.only true true true true true && f.fn == 0
  | .xor f => f.only true true true true true && f.fn == 0
  | .andn f => f.only true true true true true && f.fn == 0
  | .shl f => f.only true true true true true && f.fn == 0
  | .shr f => f.only true true true true true && f.fn == 0
  | .sar f => f.only true true true true true && f.fn == 0
  | .rot f => f.only true true true true true && f.fn == 0
  | .min f => f.only true true true true true && f.fn == 0
  | .max f => f.only true true true true true && f.fn == 0
  | .minu f => f.only true true true true true && f.fn == 0
  | .maxu f => f.only true true true true true && f.fn == 0
  | .clz f => f.only true true false true false && f.fn == 0
  | .ctz f => f.only true true false true false && f.fn == 0
  | .popc f => f.only true true false true false && f.fn == 0
  | .sext f => f.only true true true && f.fn == 0 && decide (1 ≤ f.imm.toNat) && decide (f.imm.toNat ≤ 64)
  | .zext f => f.only true true true && f.fn == 0 && decide (1 ≤ f.imm.toNat) && decide (f.imm.toNat ≤ 64)
  | .bfx f => f.only true true true && decide (f.fn.toNat ≤ 1) && fieldOk f.imm
  | .bfi f => f.only true true true && f.fn == 0 && fieldOk f.imm
  | .addi f => f.only true true true && f.fn == 0
  | .muli f => f.only true true true && f.fn == 0
  | .andi f => f.only true true true && f.fn == 0
  | .ori f => f.only true true true && f.fn == 0
  | .xori f => f.only true true true && f.fn == 0
  | .shli f => f.only true true true && f.fn == 0 && decide (f.imm.toNat ≤ 63)
  | .shri f => f.only true true true && f.fn == 0 && decide (f.imm.toNat ≤ 63)
  | .sari f => f.only true true true && f.fn == 0 && decide (f.imm.toNat ≤ 63)
  | .li _ => true
  | .lih f => decide (f.imm.toNat < 65536)
  | .lx _ => true
  | .cmp f => f.only true true true true true && predOk f.rd && decide (f.fn.toNat ≤ 9)
  | .cmpi f => f.only true true true && predOk f.rd && decide (f.fn.toNat ≤ 9)
  | .pand f => f.only true true true false false && f.fn == 0 && predOk f.rd && predOk f.ra && predOk f.rb
  | .por f => f.only true true true false false && f.fn == 0 && predOk f.rd && predOk f.ra && predOk f.rb
  | .pxor f => f.only true true true false false && f.fn == 0 && predOk f.rd && predOk f.ra && predOk f.rb
  | .pandn f => f.only true true true false false && f.fn == 0 && predOk f.rd && predOk f.ra && predOk f.rb
  | .ptog f => f.only true true false false false && f.fn == 0 && predOk f.rd && predOk f.ra
  | .gtop f => f.only true true false true false && f.fn == 0 && predOk f.rd
  | .csel f => f.only true true true true true && decide (f.fn.toNat < 16)
  | .addp f => f.only true true true true true && f.fn == 0
  | .pidx f => f.only true true true true true && f.fn == 0
  | .pfmt f => f.only true true true && f.fn == 0 && decide (f.imm.toNat < 128) && fmtBlkOk (fld f.imm 0 4) (fld f.imm 4 3)
  | .pchk f => f.only false true true true true && f.fn == 0
  | .br f => f.only false false false false false && f.cc == 0
  | .bcmp f => f.only false true true true true && decide (f.cc.toNat ≤ 9)
  | .call f => f.only false false false false false && f.cc == 0
  | .ret f => f.only false false false false false && f.fn == 0
  | .jr f => f.only false true false true false && f.fn == 0
  | .jalr f => f.only true true false true false && f.fn == 0
  | .loop f => f.only true false false false false && f.cc == 0 && f.rd != 0
  | .rdsys f => f.only true false false && f.fn == 0 && decide (f.imm.toNat ≤ 8)
  | .trap f => f.only false true true && f.fn == 0 && (f.ra != 0 || !f.ea)
  | .brk f => f.only false true true && f.fn == 0 && (f.ra != 0 || !f.ea)
  | .wtsw f => f.only false true false true false && f.fn == 0
  | .ld f => f.only true && (decide (f.sz.toNat ≤ 3)) && decide (f.ord.toNat ≤ 1) && f.idxOk && decide (f.sc.toNat ≤ 11)
  | .ldn f => f.only true && (decide (f.sz.toNat ≤ 3)) && decide (f.ord.toNat ≤ 1) && f.idxOk && decide (f.sc.toNat ≤ 11)
  | .st f => f.only true && (decide (f.sz.toNat ≤ 3)) && (f.ord == 0 || f.ord == 2) && f.idxOk && decide (f.sc.toNat ≤ 11)
  | .ldv f => f.only true && (f.sz == 5) && decide (f.ord.toNat ≤ 1) && f.idxOk && decide (f.sc.toNat ≤ 11)
  | .stv f => f.only true && (f.sz == 5) && (f.ord == 0 || f.ord == 2) && f.idxOk && decide (f.sc.toNat ≤ 11)
  | .ldp f => f.only true && (f.sz == 4 && evenReg f.rd) && decide (f.ord.toNat ≤ 1) && f.idxOk && decide (f.sc.toNat ≤ 11)
  | .stp f => f.only true && (f.sz == 4 && evenReg f.rd) && (f.ord == 0 || f.ord == 2) && f.idxOk && decide (f.sc.toNat ≤ 11)
  | .lsh f => f.only true && (f.sz == 0) && decide (f.ord.toNat ≤ 1) && f.idxOk && decide (f.sc.toNat ≤ 11)
  | .ssh f => f.only true && (f.sz == 0) && (f.ord == 0 || f.ord == 2) && f.idxOk && decide (f.sc.toNat ≤ 11)
  | .shset f => f.only true true true && decide (f.imm.toNat ≤ 11) && decide (f.fn.toNat ≤ 1) && (f.fn == 0 || decide (f.imm.toNat ≤ 7))
  | .shget f => f.only true true false && f.fn == 0 && decide (f.imm.toNat ≤ 11)
  | .ldf f => f.only true && f.sz == 3 && f.ord == 0 && f.hint == 0 && f.sc == 0 && f.idxOk
  | .ldfk f => f.only true && f.sz == 3 && f.ord == 0 && f.hint == 0 && f.sc == 0 && f.idxOk
  | .ste f => f.only true && f.sz == 3 && f.ord == 0 && f.hint == 0 && f.sc == 0 && f.idxOk
  | .stf f => f.only true && f.sz == 3 && f.ord == 0 && f.hint == 0 && f.sc == 0 && f.idxOk
  | .fest f => f.only true && f.sz == 3 && f.ord == 0 && f.hint == 0 && f.sc == 0 && f.idxOk
  | .feset f => f.only true && (f.sz == 3 || f.sz == 5) && f.ord == 0 && f.hint == 0 && f.sc == 0 && f.idxOk
  | .amoadd f => f.only true && (f.sz == 2 || f.sz == 3) && decide (f.ord.toNat ≤ 3) && f.hint == 0 && !f.x && decide (f.sc.toNat ≤ 11)
  | .amoand f => f.only true && (f.sz == 2 || f.sz == 3) && decide (f.ord.toNat ≤ 3) && f.hint == 0 && !f.x && decide (f.sc.toNat ≤ 11)
  | .amoor f => f.only true && (f.sz == 2 || f.sz == 3) && decide (f.ord.toNat ≤ 3) && f.hint == 0 && !f.x && decide (f.sc.toNat ≤ 11)
  | .amoxor f => f.only true && (f.sz == 2 || f.sz == 3) && decide (f.ord.toNat ≤ 3) && f.hint == 0 && !f.x && decide (f.sc.toNat ≤ 11)
  | .amomin f => f.only true && (f.sz == 2 || f.sz == 3) && decide (f.ord.toNat ≤ 3) && f.hint == 0 && !f.x && decide (f.sc.toNat ≤ 11)
  | .amomax f => f.only true && (f.sz == 2 || f.sz == 3) && decide (f.ord.toNat ≤ 3) && f.hint == 0 && !f.x && decide (f.sc.toNat ≤ 11)
  | .amominu f => f.only true && (f.sz == 2 || f.sz == 3) && decide (f.ord.toNat ≤ 3) && f.hint == 0 && !f.x && decide (f.sc.toNat ≤ 11)
  | .amomaxu f => f.only true && (f.sz == 2 || f.sz == 3) && decide (f.ord.toNat ≤ 3) && f.hint == 0 && !f.x && decide (f.sc.toNat ≤ 11)
  | .amoswap f => f.only true && (f.sz == 2 || f.sz == 3) && decide (f.ord.toNat ≤ 3) && f.hint == 0 && !f.x && decide (f.sc.toNat ≤ 11)
  | .amocas f => f.only true && (f.sz == 2 || f.sz == 3) && decide (f.ord.toNat ≤ 3) && f.hint == 0 && !f.x && decide (f.sc.toNat ≤ 11)
  | .fence f => f.only false && f.ra == 0 && !f.ea && f.rb == 0 && !f.eb && f.sz == 0 && f.hint == 0 && f.ord == 0 && !f.x && f.off == 0 && decide (f.sc.toNat ≤ 11)
  | .chunk f => f.only false false false && f.fn == 0 && chunkOk f.imm
  | .pref f => f.only false && f.sz == 0 && f.ord == 0 && f.sc == 0 && (f.hint == 0 || f.hint == 3) && f.idxOk
  | .tagwait f => f.only false true false true false && f.fn == 0
  | .tagany f => f.only true true false true false && f.fn == 0
  | .tagff f => f.only true true false true false && f.fn == 0
  | .tagclr f => f.only false true false true false && f.fn == 0
  | .post f => f.only false true true true true && f.fn == 0
  | .take f => f.only true false false false false && decide (f.fn.toNat < 32)
  | .peek f => f.only true false false false false && decide (f.fn.toNat < 32)
  | .peekM f => f.only true false false false false && f.fn == 32
  | .fork f => f.only true false true false true && decide (f.fn.toNat ≤ 1) && quadOk f.rb
  | .join f => f.only true true false true false && f.fn == 0
  | .callat f => f.only true true true true true && decide (f.fn.toNat ≤ 1) && quadOk f.rb
  | .reply f => f.only false true false true false && f.fn == 0
  | .send f => f.only false true true true true && f.fn == 0 && quadOk f.rb
  | .chblk f => f.only false true false true false && f.fn == 0
  | .chunblk f => f.only false true false true false && f.fn == 0
  | .mig f => f.only false true false true false && f.fn == 0
  | .migc f => f.only false true true true true && f.fn == 0
  | .exit f => f.only false false false false false && f.fn == 0
  | .yield f => f.only false false false false false && f.fn == 0
  | .launch f => f.only false true false true false && f.fn == 0
  | .barinit f => f.only false false false && f.fn == 0 && barOk f.imm
  | .bararr f => f.only true true false true false && f.fn == 0
  | .barwait f => f.only false true true true true && f.fn == 0
  | .barlink f => f.only false true true true true && f.fn == 0
  | .barrd f => f.only true true false true false && decide (f.fn.toNat ≤ 1)
  | .gang f => f.only false false false && f.fn == 0 && decide (f.imm.toNat ≤ 1)
  | .hsift f => f.only true true true true true && f.fn == 0
  | .route f => f.only true true true true true && f.fn == 0 && evenReg f.rd
  | .rhome f => f.only false true true true true && f.fn == 0
  | .rcommit f => f.only true true true true true && f.fn == 0
  | .rabort f => f.only true true false true false && f.fn == 0
  | .rstat f => f.only true true false true false && f.fn == 0
  | .afetch f => f.only true true false true false && f.fn == 0
  | .afetchRel f => f.only false true false true false && f.fn == 1
  | .spec f => f.only true true true true true && f.fn == 0 && f.rd != 0
  | .callh f => f.only false true false true false && f.fn == 0
  | .reth f => f.only false false false false false && f.fn == 0
  | .hrel f => f.only false true false true false && f.fn == 0
  | .hinfo f => f.only true true false true false && decide (f.fn.toNat ≤ 3)
  | .hkeep f => f.only false true false true false && f.fn == 0
  | .nopV => true
  | .vadd f => f.twoSrc true && f.arith && f.laneTy
  | .vsub f => f.twoSrc true && f.arith && f.laneTy
  | .vmul f => f.twoSrc true && f.arith && f.laneTy
  | .vfma f => f.twoSrc true && f.arith && f.laneTy
  | .vmin f => f.twoSrc true && f.arith && f.laneTy
  | .vmax f => f.twoSrc true && f.arith && f.laneTy
  | .vand f => f.twoSrc false && f.plain && f.laneTy
  | .vor f => f.twoSrc false && f.plain && f.laneTy
  | .vxor f => f.twoSrc false && f.plain && f.laneTy
  | .vshl f => f.twoSrc false && f.rm == 0 && f.dsc == 0 && decide (f.dcl.toNat ≤ 1) && f.intTy
  | .vshr f => f.twoSrc false && f.plain && f.intTy
  | .vsar f => f.twoSrc false && f.plain && f.intTy
  | .vcmp f => f.useVA true && f.useVB true && f.noGS && f.dOk && f.plain && f.laneTy && (decide (f.fn.toNat < 6) || f.isFloat)
  | .vsel f => f.twoSrc false && f.plain && f.laneTy
  | .vsplat f => f.noVA && f.noVB && f.fn == 0 && f.dOk && f.plain && f.laneTy
  | .vmov f => f.useVA true && f.noVB && f.noGS && f.fn == 0 && f.dOk && f.arith && f.laneTy
  | .vext f => f.vd == 0 && !f.na && !f.xa && f.laneForm && f.laneSel && !f.eg && f.plain && f.laneTy
  | .vins f => f.noVA && f.laneForm && f.laneSel && f.plain && f.laneTy
  | .viota f => f.noVA && f.noVB && f.fn == 0 && f.dOk && f.arith && f.laneTy
  | .vperm f => f.useVA false && f.useVB false && f.regForm && decide (f.vb.toNat < 16) && f.noGS && f.fn == 0 && f.plain && f.laneTy && !f.u
  | .vrcp f => f.useVA true && f.noVB && f.noGS && f.fn == 0 && f.dOk && f.arith && f.isFloat && !f.u
  | .vrsqrt f => f.useVA true && f.noVB && f.noGS && f.fn == 0 && f.dOk && f.arith && f.isFloat && !f.u
  | .vexp2 f => f.useVA true && f.noVB && f.noGS && f.fn == 0 && f.dOk && f.arith && f.isFloat && !f.u
  | .vlog2 f => f.useVA true && f.noVB && f.noGS && f.fn == 0 && f.dOk && f.arith && f.isFloat && !f.u
  | .vtanh f => f.useVA true && f.noVB && f.noGS && f.fn == 0 && f.dOk && f.arith && f.isFloat && !f.u
  | .vsigm f => f.useVA true && f.noVB && f.noGS && f.fn == 0 && f.dOk && f.arith && f.isFloat && !f.u
  | .vsqrt f => f.useVA true && f.noVB && f.noGS && f.fn == 0 && f.dOk && f.arith && f.isFloat && !f.u
  | .vcvt f => f.useVA true && f.noVB && !f.eg && f.fn == 0 && f.dOk && f.cvtOk
  | .vscale f => f.useVA true && f.noVB && f.fn == 0 && f.dOk && !f.u && f.scaleOk
  | .vgath f => !f.isReg && f.useVA false && f.useVB false && f.noGS && f.fn == 0 && f.plain && !f.u && f.elemTy
  | .vscat f => !f.isReg && f.useVA false && f.useVB false && f.noGS && f.fn == 0 && f.plain && !f.u && f.elemTy
  | .vfill f => f.hD && f.noVA && f.noVB && decide (f.fn.toNat ≤ 2) && f.plain && f.elemTy && (!f.u || f.isInt)
  | .vredadd f => f.useVA true && f.noVB && f.noGS && f.fn == 0 && f.dOk && f.arith && f.laneTy
  | .vredmax f => f.useVA true && f.noVB && f.noGS && f.fn == 0 && f.dOk && f.arith && f.laneTy
  | .vredmin f => f.useVA true && f.noVB && f.noGS && f.fn == 0 && f.dOk && f.arith && f.laneTy
  | .vscan f => f.useVA true && f.noVB && f.noGS && decide (f.fn.toNat ≤ 1) && f.dOk && f.arith && f.laneTy
  | .vnz f => !f.isReg && f.useVA false && f.noVB && f.noGS && f.fn == 0 && f.plain && !f.u && f.elemTy
  | .vcompact f => !f.isReg && f.useVA false && f.useVB false && f.noGS && f.fn == 0 && f.plain && !f.u && f.elemTy
  | .vargmax f => f.useVA true && f.noVB && f.noGS && f.fn == 0 && f.dOk && f.plain && f.laneTy
  | .vsoftmax f => f.useVA true && f.noVB && f.noGS && decide (f.fn.toNat ≤ 1) && f.dOk && f.arith && f.isFloat && !f.u
  | .mma f => f.engine && f.hD && f.hA && f.bOrLatch && f.noGS && f.noType
  | .mmar f => f.engine && f.hD && f.hA && f.bOrLatch && f.noType
  | .manchor f => f.engine && f.vd == 0 && f.hA && f.hB && decide (f.fn.toNat ≤ 1) && f.noType
  | .macc f => f.hD && f.hA && !f.ea && f.ga == 0 && !f.eb && f.gb == 0 && f.noGS && decide (f.fn.toNat ≤ 3) && f.elemTy && decide (f.rm.toNat ≤ 5) && f.uOk && (f.dcl != 3 || !f.isInt) && ((f.fn.getLsbD 0) || (f.vb == 0 && !f.nb && !f.xb))
  | .mclr f => f.engine && f.hD && f.va == 0 && f.vb == 0 && f.noGS && f.fn == 0 && f.noType && !f.u
  | .mld f => f.engine && decide (f.vd.toNat ≤ 1) && f.hA && f.vb == 0 && f.noGS && f.fn == 0 && f.noType && !f.u
  | .mrot f => f.engine && f.vd == 0 && decide (f.va.toNat ≤ 1) && f.vb == 0 && f.noGS && f.fn == 0 && f.noType && !f.u
  | .mrotDrop f => f.engine && f.vd == 0 && decide (f.va.toNat ≤ 1) && f.vb == 0 && f.noGS && f.fn == 1 && f.noType && !f.u
  | .mseg f => f.engine && f.hD && f.hA && f.hB && !(f.fn.getLsbD 1) && f.noType
  | .cp f => f.engine && f.hD && f.hA && f.vb == 0 && f.noGS && f.fn == 0 && f.noType && !f.u
  | .cpg f => f.engine && f.hD && f.hA && (f.gs != 0 || !f.eg) && f.fn == 0 && f.noType && !f.u
  | .cps f => f.engine && f.hD && f.hA && (f.gs != 0 || !f.eg) && f.fn == 0 && f.noType && !f.u
  | .cpfill f => f.engine && f.hD && f.va == 0 && f.vb == 0 && f.fn == 0 && f.noType && !f.u
  | .cpr f => f.engine && f.hD && f.hA && f.vb == 0 && f.fn == 0 && f.noType && !f.u
  | .cprPull f => f.engine && f.hD && f.hA && f.vb == 0 && f.fn == 1 && f.noType && !f.u
  | .cpdur f => f.engine && f.hD && f.hA && f.vb == 0 && f.noGS && f.fn == 0 && f.noType && !f.u
  | .rotationReentry _ _ => true
  | .schedulerBind _ => true
  | .stealProbe _ => true
  | .stealRequest _ => true
  | .stealReply _ => true
  | .stealRetry _ => true
  | .rootPlacement => true
  | .rootWalk _ _ => true
  | .rootWalkRetry _ _ => true
  | .completionWordWrite _ => true
  | .instructionBoundaryPark _ _ => true
  | .memoryReply _ => true
  | .homeSliceAccess _ => true
  | .ownerCoreAccess _ => true
  | .remoteCacheFill _ => true
  | .remoteCacheInvalidate _ => true
  | .writeAcknowledge _ => true
  | .durablePersist _ => true
  | .commitRequest _ => true
  | .commitGrant _ => true
  | .commitNotice _ => true
  | .soloTokenRequest _ => true
  | .soloTokenGrant => true
  | .fullEmptyAccess _ => true
  | .postArrival _ => true
  | .messageResend _ => true
  | .callatArrival _ => true
  | .channelMessageArrival _ => true
  | .channelControlArrival _ => true
  | .migrationArrival _ => true
  | .migrationResend _ => true
  | .migrationRefusedReturn _ => true
  | .barrierArrival _ => true
  | .barrierCompletionNotice _ => true
  | .barrierForwardResend _ => true
  | .waitWatchdogExpiry _ _ => true
  | .vectorCommandStart _ => true
  | .vectorCommandComplete _ => true
  | .matrixCommandStart _ => true
  | .matrixFeedCycle _ => true
  | .lastBlockCheck _ => true
  | .matrixCommandComplete _ => true
  | .latchCommandStart _ => true
  | .latchFillComplete _ => true
  | .mrotTransferComplete _ => true
  | .mmarArrival _ => true
  | .mmarCompletionNotice _ => true
  | .copyCommandStart _ _ => true
  | .copyCommandComplete _ _ => true
  | .shelfFill _ => true
  | .shelfFillComplete _ => true
  | .foldStart _ => true
  | .foldComplete _ => true
  | .handleUpdate _ => true
  | .depotImagePersist _ => true
  | .routeArrival _ => true
  | .sendListFlushTimeout _ _ => true
  | .batchHeader _ => true
  | .batchAnswer _ => true
  | .routedContextReturn _ => true
  | .rhomeRow _ => true
  | .rcommitArrival _ => true
  | .rabortArrival _ => true
  | .transactionEndNotice _ => true
  | .faultRecordDelivery _ => true
  | .recordRedelivery _ => true
  | .resume _ => true
  | .endThread _ => true
  | .halt _ => true
  | .stepThread _ => true
  | .recordQueuePop _ => true
  | .partitionWrite _ _ => true
  | .moduleIdWrite _ _ => true
  | .imageQuotaWrite _ _ => true
  | .dvdataWrite _ _ _ => true
  | .porterAccess _ _ _ _ _ => true
  | .launchSubmission _ => true
  | .submissionWrite _ _ => true
  | .submissionResend _ => true
  | .dependencePoll _ _ => true
  | .preemptionStop _ _ => true
  | .preemptionSave _ _ => true
  | .holdResend _ => true
  | .launchResume _ => true
  | .pageWalk _ => true
  | .pageRequestResend _ => true
  | .pageRequestAnswer _ _ _ => true
  | .frameAttributeWrite _ _ _ => true
  | .frameScrubComplete _ _ => true
  | .shootdownRequest _ _ => true
  | .shootdownComplete _ => true
  | .ringStopCycle _ => true
  | .starveRaise _ _ => true
  | .meterWindowEnd _ => true
  | .flitReassembly _ => true
  | .creditReturn _ => true
  | .bulkRequestTimeout _ => true
  | .messageAnswerTimeout _ => true
  | .purseRefill _ => true
  | .hostWindowWrite _ _ _ => true
  | .hostWindowRead _ _ => true
  | .hostStreamWrite _ _ _ _ _ _ => true
  | .streamBrokenTimeout _ _ => true
  | .streamStatusReset _ _ => true
  | .functionLevelReset _ => true
  | .peerLinkUp _ _ => true
  | .officeMaskStagingWrite _ _ _ => true
  | .powerOnReset => true
  | .moduleReset => true
  | .clearFailsReset => true
  | .bootStage0 _ => true
  | .bootStage1 _ _ => true
  | .bootStage2 _ => true
  | .bootStage3 _ => true
  | .officeReadyTimeout => true
  | .tenantFunctionTimeout => true
  | .coolantTemperatureFault => true
  | .dramRefresh _ => true
  | .dramTemperatureChange _ _ => true
  | .dramPatrolScrub _ => true
  | .sramPatrolScrub _ => true
  | .scrubWriteBack _ => true
  | .linkCalibration _ _ => true
  | .depotWearLevelling => true
  | .powerLoss _ => true
  | .memoryReplyTimeout _ _ => true
  | .hubCrossing _ => true
  | .peerLinkDown _ => true
  | .powerGating _ => true
  | .softError _ _ => true

/-- The instruction is well-formed. -/
abbrev Instr.WellFormed (i : Instr) : Prop := i.wf = true

end Sys2Proof
end

