-- ==== Sys2Proof/Decode.lean ====
section
/-! DEFINITION. Decode: the halves of a bundle from their bits (R154, R158, R160, R161, R166, R171, R172), total, rejecting by
name what R173 refuses; and the encoder. -/

namespace Sys2Proof

/-- Why a half is refused at decode: each is the reserved-code fault, code 0x01 (R173). -/
inductive Reject where
  /-- a reserved opcode (R171, R172) -/
  | reservedOpcode
  /-- a nop half with a bit set in [55:0] (R158) -/
  | nopBits
  /-- a must-be-zero field of the format (R161) -/
  | mustBeZero
  /-- an unused field, or a reserved code of a field of the instruction (R173) -/
  | illFormed
deriving DecidableEq, Repr

/-- What an instruction is: a half of slot A, a half of slot V, or an event. -/
inductive Side where
  | slotA
  | slotV
  | event
deriving DecidableEq, Repr

/-- The AR fields of a half (R161). -/
def AR.of (w : Word) : AR where
  pn := w.getLsbD 55
  pg := w.extractLsb' 52 3
  rd := w.extractLsb' 48 4
  ra := w.extractLsb' 44 4
  ea := w.getLsbD 43
  rb := w.extractLsb' 39 4
  eb := w.getLsbD 38
  fn := w.extractLsb' 32 6

/-- The AI fields of a half (R161). -/
def AI.of (w : Word) : AI where
  pn := w.getLsbD 55
  pg := w.extractLsb' 52 3
  rd := w.extractLsb' 48 4
  ra := w.extractLsb' 44 4
  ea := w.getLsbD 43
  imm := w.extractLsb' 11 32
  fn := w.extractLsb' 0 11

/-- The AM fields of a half (R161, R162). -/
def AM.of (w : Word) : AM where
  pn := w.getLsbD 55
  pg := w.extractLsb' 52 3
  rd := w.extractLsb' 48 4
  ra := w.extractLsb' 44 4
  ea := w.getLsbD 43
  rb := w.extractLsb' 39 4
  eb := w.getLsbD 38
  sc := w.extractLsb' 34 4
  sz := w.extractLsb' 31 3
  hint := w.extractLsb' 29 2
  ord := w.extractLsb' 26 3
  x := w.getLsbD 25
  off := w.extractLsb' 0 24

/-- The AB fields of a half (R161). -/
def AB.of (w : Word) : AB where
  pn := w.getLsbD 55
  pg := w.extractLsb' 52 3
  rd := w.extractLsb' 48 4
  ra := w.extractLsb' 44 4
  ea := w.getLsbD 43
  rb := w.extractLsb' 39 4
  eb := w.getLsbD 38
  cc := w.extractLsb' 34 4
  off := w.extractLsb' 0 32

/-- The AX fields of a half (R161). -/
def AX.of (w : Word) : AX where
  pn := w.getLsbD 55
  pg := w.extractLsb' 52 3
  rd := w.extractLsb' 48 4
  imm := w.extractLsb' 0 48

/-- The fields of slot V (R166). -/
def VF.of (w : Word) : VF where
  pn := w.getLsbD 55
  pg := w.extractLsb' 52 3
  vd := w.extractLsb' 47 5
  dcl := w.extractLsb' 45 2
  dsc := w.extractLsb' 42 3
  va := w.extractLsb' 37 5
  na := w.getLsbD 36
  xa := w.getLsbD 35
  ea := w.getLsbD 34
  ga := w.extractLsb' 32 2
  vb := w.extractLsb' 27 5
  nb := w.getLsbD 26
  xb := w.getLsbD 25
  eb := w.getLsbD 24
  gb := w.extractLsb' 22 2
  tag := w.extractLsb' 16 6
  ty := w.extractLsb' 12 4
  rm := w.extractLsb' 9 3
  u := w.getLsbD 8
  gs := w.extractLsb' 4 4
  eg := w.getLsbD 3
  fn := w.extractLsb' 0 3

/-- The bits of an AR half with opcode op (R160, R161). -/
def AR.bits (f : AR) (op : Nat) : Word :=
  BitVec.ofNat 8 op ++ BitVec.ofBool f.pn ++ f.pg ++ f.rd ++ f.ra ++ BitVec.ofBool f.ea ++ f.rb ++ BitVec.ofBool f.eb ++
    f.fn ++ (0 : BitVec 32)

/-- The bits of an AI half with opcode op. -/
def AI.bits (f : AI) (op : Nat) : Word :=
  BitVec.ofNat 8 op ++ BitVec.ofBool f.pn ++ f.pg ++ f.rd ++ f.ra ++ BitVec.ofBool f.ea ++ f.imm ++ f.fn

/-- The bits of an AM half with opcode op. -/
def AM.bits (f : AM) (op : Nat) : Word :=
  BitVec.ofNat 8 op ++ BitVec.ofBool f.pn ++ f.pg ++ f.rd ++ f.ra ++ BitVec.ofBool f.ea ++ f.rb ++ BitVec.ofBool f.eb ++
    f.sc ++ f.sz ++ f.hint ++ f.ord ++ BitVec.ofBool f.x ++ (0 : BitVec 1) ++ f.off

/-- The bits of an AB half with opcode op. -/
def AB.bits (f : AB) (op : Nat) : Word :=
  BitVec.ofNat 8 op ++ BitVec.ofBool f.pn ++ f.pg ++ f.rd ++ f.ra ++ BitVec.ofBool f.ea ++ f.rb ++ BitVec.ofBool f.eb ++
    f.cc ++ (0 : BitVec 2) ++ f.off

/-- The bits of an AX half with opcode op. -/
def AX.bits (f : AX) (op : Nat) : Word :=
  BitVec.ofNat 8 op ++ BitVec.ofBool f.pn ++ f.pg ++ f.rd ++ f.imm

/-- The bits of a slot V half with opcode op (R166). -/
def VF.bits (f : VF) (op : Nat) : Word :=
  BitVec.ofNat 8 op ++ BitVec.ofBool f.pn ++ f.pg ++ f.vd ++ f.dcl ++ f.dsc ++ f.va ++ BitVec.ofBool f.na ++
    BitVec.ofBool f.xa ++ BitVec.ofBool f.ea ++ f.ga ++ f.vb ++ BitVec.ofBool f.nb ++ BitVec.ofBool f.xb ++
    BitVec.ofBool f.eb ++ f.gb ++ f.tag ++ f.ty ++ f.rm ++ BitVec.ofBool f.u ++ f.gs ++ BitVec.ofBool f.eg ++ f.fn

/-- The slot A row of an opcode (R171) over the half's bits w; none for a reserved opcode. -/
def rowA (op : Nat) (w : Word) : Option Instr :=
  match op with
  | 0x00 => some .nop
  | 0x01 => some (.add (AR.of w))
  | 0x02 => some (.sub (AR.of w))
  | 0x03 => some (.mul (AR.of w))
  | 0x04 => some (.mulh (AR.of w))
  | 0x05 => some (.mulhu (AR.of w))
  | 0x06 => some (.div (AR.of w))
  | 0x07 => some (.divu (AR.of w))
  | 0x08 => some (.rem (AR.of w))
  | 0x09 => some (.remu (AR.of w))
  | 0x0A => some (.and (AR.of w))
  | 0x0B => some (.or (AR.of w))
  | 0x0C => some (.xor (AR.of w))
  | 0x0D => some (.andn (AR.of w))
  | 0x0E => some (.shl (AR.of w))
  | 0x0F => some (.shr (AR.of w))
  | 0x10 => some (.sar (AR.of w))
  | 0x11 => some (.rot (AR.of w))
  | 0x12 => some (.min (AR.of w))
  | 0x13 => some (.max (AR.of w))
  | 0x14 => some (.minu (AR.of w))
  | 0x15 => some (.maxu (AR.of w))
  | 0x16 => some (.clz (AR.of w))
  | 0x17 => some (.ctz (AR.of w))
  | 0x18 => some (.popc (AR.of w))
  | 0x19 => some (.sext (AI.of w))
  | 0x1A => some (.zext (AI.of w))
  | 0x1B => some (.bfx (AI.of w))
  | 0x1C => some (.bfi (AI.of w))
  | 0x20 => some (.addi (AI.of w))
  | 0x21 => some (.muli (AI.of w))
  | 0x22 => some (.andi (AI.of w))
  | 0x23 => some (.ori (AI.of w))
  | 0x24 => some (.xori (AI.of w))
  | 0x25 => some (.shli (AI.of w))
  | 0x26 => some (.shri (AI.of w))
  | 0x27 => some (.sari (AI.of w))
  | 0x28 => some (.li (AX.of w))
  | 0x29 => some (.lih (AX.of w))
  | 0x2A => some (.lx (AX.of w))
  | 0x30 => some (.cmp (AR.of w))
  | 0x31 => some (.cmpi (AI.of w))
  | 0x32 => some (.pand (AR.of w))
  | 0x33 => some (.por (AR.of w))
  | 0x34 => some (.pxor (AR.of w))
  | 0x35 => some (.pandn (AR.of w))
  | 0x36 => some (.ptog (AR.of w))
  | 0x37 => some (.gtop (AR.of w))
  | 0x38 => some (.csel (AR.of w))
  | 0x3A => some (.addp (AR.of w))
  | 0x3B => some (.pidx (AR.of w))
  | 0x3C => some (.pfmt (AI.of w))
  | 0x3D => some (.pchk (AR.of w))
  | 0x40 => some (.br (AB.of w))
  | 0x41 => some (.bcmp (AB.of w))
  | 0x43 => some (.call (AB.of w))
  | 0x44 => some (.ret (AR.of w))
  | 0x45 => some (.jr (AR.of w))
  | 0x46 => some (.jalr (AR.of w))
  | 0x47 => some (.loop (AB.of w))
  | 0x48 => some (.rdsys (AI.of w))
  | 0x49 => some (.trap (AI.of w))
  | 0x4A => some (.brk (AI.of w))
  | 0x4B => some (.wtsw (AR.of w))
  | 0x50 => some (.ld (AM.of w))
  | 0x51 => some (.ldn (AM.of w))
  | 0x52 => some (.st (AM.of w))
  | 0x53 => some (.ldv (AM.of w))
  | 0x54 => some (.stv (AM.of w))
  | 0x55 => some (.ldp (AM.of w))
  | 0x56 => some (.stp (AM.of w))
  | 0x57 => some (.lsh (AM.of w))
  | 0x58 => some (.ssh (AM.of w))
  | 0x59 => some (.shset (AI.of w))
  | 0x5A => some (.shget (AI.of w))
  | 0x5C => some (.ldf (AM.of w))
  | 0x5D => some (.ldfk (AM.of w))
  | 0x5E => some (.ste (AM.of w))
  | 0x5F => some (.stf (AM.of w))
  | 0x60 => some (.fest (AM.of w))
  | 0x61 => some (.feset (AM.of w))
  | 0x64 => some (.amoadd (AM.of w))
  | 0x65 => some (.amoand (AM.of w))
  | 0x66 => some (.amoor (AM.of w))
  | 0x67 => some (.amoxor (AM.of w))
  | 0x68 => some (.amomin (AM.of w))
  | 0x69 => some (.amomax (AM.of w))
  | 0x6A => some (.amominu (AM.of w))
  | 0x6B => some (.amomaxu (AM.of w))
  | 0x6C => some (.amoswap (AM.of w))
  | 0x6D => some (.amocas (AM.of w))
  | 0x70 => some (.fence (AM.of w))
  | 0x71 => some (.chunk (AI.of w))
  | 0x72 => some (.pref (AM.of w))
  | 0x78 => some (.tagwait (AR.of w))
  | 0x79 => some (.tagany (AR.of w))
  | 0x7A => some (.tagff (AR.of w))
  | 0x7B => some (.tagclr (AR.of w))
  | 0x7C => some (.post (AR.of w))
  | 0x7D => some (.take (AR.of w))
  | 0x7E => some (if fld w 37 1 = 1 then .peekM (AR.of w) else .peek (AR.of w))
  | 0x80 => some (.fork (AR.of w))
  | 0x81 => some (.join (AR.of w))
  | 0x82 => some (.callat (AR.of w))
  | 0x83 => some (.reply (AR.of w))
  | 0x84 => some (.send (AR.of w))
  | 0x85 => some (.chblk (AR.of w))
  | 0x86 => some (.chunblk (AR.of w))
  | 0x88 => some (.mig (AR.of w))
  | 0x89 => some (.migc (AR.of w))
  | 0x8A => some (.exit (AR.of w))
  | 0x8B => some (.yield (AR.of w))
  | 0x8C => some (.launch (AR.of w))
  | 0x90 => some (.barinit (AI.of w))
  | 0x91 => some (.bararr (AR.of w))
  | 0x92 => some (.barwait (AR.of w))
  | 0x93 => some (.barlink (AR.of w))
  | 0x94 => some (.barrd (AR.of w))
  | 0x98 => some (.gang (AI.of w))
  | 0xA0 => some (.hsift (AR.of w))
  | 0xA1 => some (.route (AR.of w))
  | 0xA2 => some (.rhome (AR.of w))
  | 0xA3 => some (.rcommit (AR.of w))
  | 0xA4 => some (.rabort (AR.of w))
  | 0xA5 => some (.rstat (AR.of w))
  | 0xA6 => some (if fld w 32 1 = 1 then .afetchRel (AR.of w) else .afetch (AR.of w))
  | 0xB0 => some (.spec (AR.of w))
  | 0xB1 => some (.callh (AR.of w))
  | 0xB2 => some (.reth (AR.of w))
  | 0xB3 => some (.hrel (AR.of w))
  | 0xB4 => some (.hinfo (AR.of w))
  | 0xB5 => some (.hkeep (AR.of w))
  | _ => none

/-- The slot V row of an opcode (R172) over the half's bits w; none for a reserved opcode. -/
def rowV (op : Nat) (w : Word) : Option Instr :=
  match op with
  | 0x00 => some .nopV
  | 0x01 => some (.vadd (VF.of w))
  | 0x02 => some (.vsub (VF.of w))
  | 0x03 => some (.vmul (VF.of w))
  | 0x04 => some (.vfma (VF.of w))
  | 0x05 => some (.vmin (VF.of w))
  | 0x06 => some (.vmax (VF.of w))
  | 0x08 => some (.vand (VF.of w))
  | 0x09 => some (.vor (VF.of w))
  | 0x0A => some (.vxor (VF.of w))
  | 0x0B => some (.vshl (VF.of w))
  | 0x0C => some (.vshr (VF.of w))
  | 0x0D => some (.vsar (VF.of w))
  | 0x0E => some (.vcmp (VF.of w))
  | 0x0F => some (.vsel (VF.of w))
  | 0x10 => some (.vsplat (VF.of w))
  | 0x11 => some (.vmov (VF.of w))
  | 0x12 => some (.vext (VF.of w))
  | 0x13 => some (.vins (VF.of w))
  | 0x14 => some (.viota (VF.of w))
  | 0x15 => some (.vperm (VF.of w))
  | 0x20 => some (.vrcp (VF.of w))
  | 0x21 => some (.vrsqrt (VF.of w))
  | 0x22 => some (.vexp2 (VF.of w))
  | 0x23 => some (.vlog2 (VF.of w))
  | 0x24 => some (.vtanh (VF.of w))
  | 0x25 => some (.vsigm (VF.of w))
  | 0x26 => some (.vsqrt (VF.of w))
  | 0x30 => some (.vcvt (VF.of w))
  | 0x31 => some (.vscale (VF.of w))
  | 0x32 => some (.vgath (VF.of w))
  | 0x33 => some (.vscat (VF.of w))
  | 0x34 => some (.vfill (VF.of w))
  | 0x40 => some (.vredadd (VF.of w))
  | 0x41 => some (.vredmax (VF.of w))
  | 0x42 => some (.vredmin (VF.of w))
  | 0x43 => some (.vscan (VF.of w))
  | 0x44 => some (.vnz (VF.of w))
  | 0x45 => some (.vcompact (VF.of w))
  | 0x46 => some (.vargmax (VF.of w))
  | 0x47 => some (.vsoftmax (VF.of w))
  | 0x60 => some (.mma (VF.of w))
  | 0x61 => some (.mmar (VF.of w))
  | 0x62 => some (.manchor (VF.of w))
  | 0x63 => some (.macc (VF.of w))
  | 0x64 => some (.mclr (VF.of w))
  | 0x65 => some (.mld (VF.of w))
  | 0x66 => some (if fld w 0 1 = 1 then .mrotDrop (VF.of w) else .mrot (VF.of w))
  | 0x67 => some (.mseg (VF.of w))
  | 0x70 => some (.cp (VF.of w))
  | 0x71 => some (.cpg (VF.of w))
  | 0x72 => some (.cps (VF.of w))
  | 0x73 => some (.cpfill (VF.of w))
  | 0x74 => some (if fld w 0 1 = 1 then .cprPull (VF.of w) else .cpr (VF.of w))
  | 0x75 => some (.cpdur (VF.of w))
  | _ => none

/-- The opcode of a half (R171, R172); events have none. -/
def Instr.opcode : Instr → Nat
  | .nop => 0x00
  | .add _ => 0x01
  | .sub _ => 0x02
  | .mul _ => 0x03
  | .mulh _ => 0x04
  | .mulhu _ => 0x05
  | .div _ => 0x06
  | .divu _ => 0x07
  | .rem _ => 0x08
  | .remu _ => 0x09
  | .and _ => 0x0A
  | .or _ => 0x0B
  | .xor _ => 0x0C
  | .andn _ => 0x0D
  | .shl _ => 0x0E
  | .shr _ => 0x0F
  | .sar _ => 0x10
  | .rot _ => 0x11
  | .min _ => 0x12
  | .max _ => 0x13
  | .minu _ => 0x14
  | .maxu _ => 0x15
  | .clz _ => 0x16
  | .ctz _ => 0x17
  | .popc _ => 0x18
  | .sext _ => 0x19
  | .zext _ => 0x1A
  | .bfx _ => 0x1B
  | .bfi _ => 0x1C
  | .addi _ => 0x20
  | .muli _ => 0x21
  | .andi _ => 0x22
  | .ori _ => 0x23
  | .xori _ => 0x24
  | .shli _ => 0x25
  | .shri _ => 0x26
  | .sari _ => 0x27
  | .li _ => 0x28
  | .lih _ => 0x29
  | .lx _ => 0x2A
  | .cmp _ => 0x30
  | .cmpi _ => 0x31
  | .pand _ => 0x32
  | .por _ => 0x33
  | .pxor _ => 0x34
  | .pandn _ => 0x35
  | .ptog _ => 0x36
  | .gtop _ => 0x37
  | .csel _ => 0x38
  | .addp _ => 0x3A
  | .pidx _ => 0x3B
  | .pfmt _ => 0x3C
  | .pchk _ => 0x3D
  | .br _ => 0x40
  | .bcmp _ => 0x41
  | .call _ => 0x43
  | .ret _ => 0x44
  | .jr _ => 0x45
  | .jalr _ => 0x46
  | .loop _ => 0x47
  | .rdsys _ => 0x48
  | .trap _ => 0x49
  | .brk _ => 0x4A
  | .wtsw _ => 0x4B
  | .ld _ => 0x50
  | .ldn _ => 0x51
  | .st _ => 0x52
  | .ldv _ => 0x53
  | .stv _ => 0x54
  | .ldp _ => 0x55
  | .stp _ => 0x56
  | .lsh _ => 0x57
  | .ssh _ => 0x58
  | .shset _ => 0x59
  | .shget _ => 0x5A
  | .ldf _ => 0x5C
  | .ldfk _ => 0x5D
  | .ste _ => 0x5E
  | .stf _ => 0x5F
  | .fest _ => 0x60
  | .feset _ => 0x61
  | .amoadd _ => 0x64
  | .amoand _ => 0x65
  | .amoor _ => 0x66
  | .amoxor _ => 0x67
  | .amomin _ => 0x68
  | .amomax _ => 0x69
  | .amominu _ => 0x6A
  | .amomaxu _ => 0x6B
  | .amoswap _ => 0x6C
  | .amocas _ => 0x6D
  | .fence _ => 0x70
  | .chunk _ => 0x71
  | .pref _ => 0x72
  | .tagwait _ => 0x78
  | .tagany _ => 0x79
  | .tagff _ => 0x7A
  | .tagclr _ => 0x7B
  | .post _ => 0x7C
  | .take _ => 0x7D
  | .peek _ => 0x7E
  | .peekM _ => 0x7E
  | .fork _ => 0x80
  | .join _ => 0x81
  | .callat _ => 0x82
  | .reply _ => 0x83
  | .send _ => 0x84
  | .chblk _ => 0x85
  | .chunblk _ => 0x86
  | .mig _ => 0x88
  | .migc _ => 0x89
  | .exit _ => 0x8A
  | .yield _ => 0x8B
  | .launch _ => 0x8C
  | .barinit _ => 0x90
  | .bararr _ => 0x91
  | .barwait _ => 0x92
  | .barlink _ => 0x93
  | .barrd _ => 0x94
  | .gang _ => 0x98
  | .hsift _ => 0xA0
  | .route _ => 0xA1
  | .rhome _ => 0xA2
  | .rcommit _ => 0xA3
  | .rabort _ => 0xA4
  | .rstat _ => 0xA5
  | .afetch _ => 0xA6
  | .afetchRel _ => 0xA6
  | .spec _ => 0xB0
  | .callh _ => 0xB1
  | .reth _ => 0xB2
  | .hrel _ => 0xB3
  | .hinfo _ => 0xB4
  | .hkeep _ => 0xB5
  | .nopV => 0x00
  | .vadd _ => 0x01
  | .vsub _ => 0x02
  | .vmul _ => 0x03
  | .vfma _ => 0x04
  | .vmin _ => 0x05
  | .vmax _ => 0x06
  | .vand _ => 0x08
  | .vor _ => 0x09
  | .vxor _ => 0x0A
  | .vshl _ => 0x0B
  | .vshr _ => 0x0C
  | .vsar _ => 0x0D
  | .vcmp _ => 0x0E
  | .vsel _ => 0x0F
  | .vsplat _ => 0x10
  | .vmov _ => 0x11
  | .vext _ => 0x12
  | .vins _ => 0x13
  | .viota _ => 0x14
  | .vperm _ => 0x15
  | .vrcp _ => 0x20
  | .vrsqrt _ => 0x21
  | .vexp2 _ => 0x22
  | .vlog2 _ => 0x23
  | .vtanh _ => 0x24
  | .vsigm _ => 0x25
  | .vsqrt _ => 0x26
  | .vcvt _ => 0x30
  | .vscale _ => 0x31
  | .vgath _ => 0x32
  | .vscat _ => 0x33
  | .vfill _ => 0x34
  | .vredadd _ => 0x40
  | .vredmax _ => 0x41
  | .vredmin _ => 0x42
  | .vscan _ => 0x43
  | .vnz _ => 0x44
  | .vcompact _ => 0x45
  | .vargmax _ => 0x46
  | .vsoftmax _ => 0x47
  | .mma _ => 0x60
  | .mmar _ => 0x61
  | .manchor _ => 0x62
  | .macc _ => 0x63
  | .mclr _ => 0x64
  | .mld _ => 0x65
  | .mrot _ => 0x66
  | .mrotDrop _ => 0x66
  | .mseg _ => 0x67
  | .cp _ => 0x70
  | .cpg _ => 0x71
  | .cps _ => 0x72
  | .cpfill _ => 0x73
  | .cpr _ => 0x74
  | .cprPull _ => 0x74
  | .cpdur _ => 0x75
  | .rotationReentry _ _ => 0
  | .schedulerBind _ => 0
  | .stealProbe _ => 0
  | .stealRequest _ => 0
  | .stealReply _ => 0
  | .stealRetry _ => 0
  | .rootPlacement => 0
  | .rootWalk _ _ => 0
  | .rootWalkRetry _ _ => 0
  | .completionWordWrite _ => 0
  | .instructionBoundaryPark _ _ => 0
  | .memoryReply _ => 0
  | .homeSliceAccess _ => 0
  | .ownerCoreAccess _ => 0
  | .remoteCacheFill _ => 0
  | .remoteCacheInvalidate _ => 0
  | .writeAcknowledge _ => 0
  | .durablePersist _ => 0
  | .commitRequest _ => 0
  | .commitGrant _ => 0
  | .commitNotice _ => 0
  | .soloTokenRequest _ => 0
  | .soloTokenGrant => 0
  | .fullEmptyAccess _ => 0
  | .postArrival _ => 0
  | .messageResend _ => 0
  | .callatArrival _ => 0
  | .channelMessageArrival _ => 0
  | .channelControlArrival _ => 0
  | .migrationArrival _ => 0
  | .migrationResend _ => 0
  | .migrationRefusedReturn _ => 0
  | .barrierArrival _ => 0
  | .barrierCompletionNotice _ => 0
  | .barrierForwardResend _ => 0
  | .waitWatchdogExpiry _ _ => 0
  | .vectorCommandStart _ => 0
  | .vectorCommandComplete _ => 0
  | .matrixCommandStart _ => 0
  | .matrixFeedCycle _ => 0
  | .lastBlockCheck _ => 0
  | .matrixCommandComplete _ => 0
  | .latchCommandStart _ => 0
  | .latchFillComplete _ => 0
  | .mrotTransferComplete _ => 0
  | .mmarArrival _ => 0
  | .mmarCompletionNotice _ => 0
  | .copyCommandStart _ _ => 0
  | .copyCommandComplete _ _ => 0
  | .shelfFill _ => 0
  | .shelfFillComplete _ => 0
  | .foldStart _ => 0
  | .foldComplete _ => 0
  | .handleUpdate _ => 0
  | .depotImagePersist _ => 0
  | .routeArrival _ => 0
  | .sendListFlushTimeout _ _ => 0
  | .batchHeader _ => 0
  | .batchAnswer _ => 0
  | .routedContextReturn _ => 0
  | .rhomeRow _ => 0
  | .rcommitArrival _ => 0
  | .rabortArrival _ => 0
  | .transactionEndNotice _ => 0
  | .faultRecordDelivery _ => 0
  | .recordRedelivery _ => 0
  | .resume _ => 0
  | .endThread _ => 0
  | .halt _ => 0
  | .stepThread _ => 0
  | .recordQueuePop _ => 0
  | .partitionWrite _ _ => 0
  | .moduleIdWrite _ _ => 0
  | .imageQuotaWrite _ _ => 0
  | .dvdataWrite _ _ _ => 0
  | .porterAccess _ _ _ _ _ => 0
  | .launchSubmission _ => 0
  | .submissionWrite _ _ => 0
  | .submissionResend _ => 0
  | .dependencePoll _ _ => 0
  | .preemptionStop _ _ => 0
  | .preemptionSave _ _ => 0
  | .holdResend _ => 0
  | .launchResume _ => 0
  | .pageWalk _ => 0
  | .pageRequestResend _ => 0
  | .pageRequestAnswer _ _ _ => 0
  | .frameAttributeWrite _ _ _ => 0
  | .frameScrubComplete _ _ => 0
  | .shootdownRequest _ _ => 0
  | .shootdownComplete _ => 0
  | .ringStopCycle _ => 0
  | .starveRaise _ _ => 0
  | .meterWindowEnd _ => 0
  | .flitReassembly _ => 0
  | .creditReturn _ => 0
  | .bulkRequestTimeout _ => 0
  | .messageAnswerTimeout _ => 0
  | .purseRefill _ => 0
  | .hostWindowWrite _ _ _ => 0
  | .hostWindowRead _ _ => 0
  | .hostStreamWrite _ _ _ _ _ _ => 0
  | .streamBrokenTimeout _ _ => 0
  | .streamStatusReset _ _ => 0
  | .functionLevelReset _ => 0
  | .peerLinkUp _ _ => 0
  | .officeMaskStagingWrite _ _ _ => 0
  | .powerOnReset => 0
  | .moduleReset => 0
  | .clearFailsReset => 0
  | .bootStage0 _ => 0
  | .bootStage1 _ _ => 0
  | .bootStage2 _ => 0
  | .bootStage3 _ => 0
  | .officeReadyTimeout => 0
  | .tenantFunctionTimeout => 0
  | .coolantTemperatureFault => 0
  | .dramRefresh _ => 0
  | .dramTemperatureChange _ _ => 0
  | .dramPatrolScrub _ => 0
  | .sramPatrolScrub _ => 0
  | .scrubWriteBack _ => 0
  | .linkCalibration _ _ => 0
  | .depotWearLevelling => 0
  | .powerLoss _ => 0
  | .memoryReplyTimeout _ _ => 0
  | .hubCrossing _ => 0
  | .peerLinkDown _ => 0
  | .powerGating _ => 0
  | .softError _ _ => 0

/-- The bits of a half, from the encoding tables R160, R161 and R166; an event has no encoding. -/
def encodeHalf : Instr → Word
  | .nop => 0
  | .add f => f.bits 0x01
  | .sub f => f.bits 0x02
  | .mul f => f.bits 0x03
  | .mulh f => f.bits 0x04
  | .mulhu f => f.bits 0x05
  | .div f => f.bits 0x06
  | .divu f => f.bits 0x07
  | .rem f => f.bits 0x08
  | .remu f => f.bits 0x09
  | .and f => f.bits 0x0A
  | .or f => f.bits 0x0B
  | .xor f => f.bits 0x0C
  | .andn f => f.bits 0x0D
  | .shl f => f.bits 0x0E
  | .shr f => f.bits 0x0F
  | .sar f => f.bits 0x10
  | .rot f => f.bits 0x11
  | .min f => f.bits 0x12
  | .max f => f.bits 0x13
  | .minu f => f.bits 0x14
  | .maxu f => f.bits 0x15
  | .clz f => f.bits 0x16
  | .ctz f => f.bits 0x17
  | .popc f => f.bits 0x18
  | .sext f => f.bits 0x19
  | .zext f => f.bits 0x1A
  | .bfx f => f.bits 0x1B
  | .bfi f => f.bits 0x1C
  | .addi f => f.bits 0x20
  | .muli f => f.bits 0x21
  | .andi f => f.bits 0x22
  | .ori f => f.bits 0x23
  | .xori f => f.bits 0x24
  | .shli f => f.bits 0x25
  | .shri f => f.bits 0x26
  | .sari f => f.bits 0x27
  | .li f => f.bits 0x28
  | .lih f => f.bits 0x29
  | .lx f => f.bits 0x2A
  | .cmp f => f.bits 0x30
  | .cmpi f => f.bits 0x31
  | .pand f => f.bits 0x32
  | .por f => f.bits 0x33
  | .pxor f => f.bits 0x34
  | .pandn f => f.bits 0x35
  | .ptog f => f.bits 0x36
  | .gtop f => f.bits 0x37
  | .csel f => f.bits 0x38
  | .addp f => f.bits 0x3A
  | .pidx f => f.bits 0x3B
  | .pfmt f => f.bits 0x3C
  | .pchk f => f.bits 0x3D
  | .br f => f.bits 0x40
  | .bcmp f => f.bits 0x41
  | .call f => f.bits 0x43
  | .ret f => f.bits 0x44
  | .jr f => f.bits 0x45
  | .jalr f => f.bits 0x46
  | .loop f => f.bits 0x47
  | .rdsys f => f.bits 0x48
  | .trap f => f.bits 0x49
  | .brk f => f.bits 0x4A
  | .wtsw f => f.bits 0x4B
  | .ld f => f.bits 0x50
  | .ldn f => f.bits 0x51
  | .st f => f.bits 0x52
  | .ldv f => f.bits 0x53
  | .stv f => f.bits 0x54
  | .ldp f => f.bits 0x55
  | .stp f => f.bits 0x56
  | .lsh f => f.bits 0x57
  | .ssh f => f.bits 0x58
  | .shset f => f.bits 0x59
  | .shget f => f.bits 0x5A
  | .ldf f => f.bits 0x5C
  | .ldfk f => f.bits 0x5D
  | .ste f => f.bits 0x5E
  | .stf f => f.bits 0x5F
  | .fest f => f.bits 0x60
  | .feset f => f.bits 0x61
  | .amoadd f => f.bits 0x64
  | .amoand f => f.bits 0x65
  | .amoor f => f.bits 0x66
  | .amoxor f => f.bits 0x67
  | .amomin f => f.bits 0x68
  | .amomax f => f.bits 0x69
  | .amominu f => f.bits 0x6A
  | .amomaxu f => f.bits 0x6B
  | .amoswap f => f.bits 0x6C
  | .amocas f => f.bits 0x6D
  | .fence f => f.bits 0x70
  | .chunk f => f.bits 0x71
  | .pref f => f.bits 0x72
  | .tagwait f => f.bits 0x78
  | .tagany f => f.bits 0x79
  | .tagff f => f.bits 0x7A
  | .tagclr f => f.bits 0x7B
  | .post f => f.bits 0x7C
  | .take f => f.bits 0x7D
  | .peek f => f.bits 0x7E
  | .peekM f => f.bits 0x7E
  | .fork f => f.bits 0x80
  | .join f => f.bits 0x81
  | .callat f => f.bits 0x82
  | .reply f => f.bits 0x83
  | .send f => f.bits 0x84
  | .chblk f => f.bits 0x85
  | .chunblk f => f.bits 0x86
  | .mig f => f.bits 0x88
  | .migc f => f.bits 0x89
  | .exit f => f.bits 0x8A
  | .yield f => f.bits 0x8B
  | .launch f => f.bits 0x8C
  | .barinit f => f.bits 0x90
  | .bararr f => f.bits 0x91
  | .barwait f => f.bits 0x92
  | .barlink f => f.bits 0x93
  | .barrd f => f.bits 0x94
  | .gang f => f.bits 0x98
  | .hsift f => f.bits 0xA0
  | .route f => f.bits 0xA1
  | .rhome f => f.bits 0xA2
  | .rcommit f => f.bits 0xA3
  | .rabort f => f.bits 0xA4
  | .rstat f => f.bits 0xA5
  | .afetch f => f.bits 0xA6
  | .afetchRel f => f.bits 0xA6
  | .spec f => f.bits 0xB0
  | .callh f => f.bits 0xB1
  | .reth f => f.bits 0xB2
  | .hrel f => f.bits 0xB3
  | .hinfo f => f.bits 0xB4
  | .hkeep f => f.bits 0xB5
  | .nopV => 0
  | .vadd f => f.bits 0x01
  | .vsub f => f.bits 0x02
  | .vmul f => f.bits 0x03
  | .vfma f => f.bits 0x04
  | .vmin f => f.bits 0x05
  | .vmax f => f.bits 0x06
  | .vand f => f.bits 0x08
  | .vor f => f.bits 0x09
  | .vxor f => f.bits 0x0A
  | .vshl f => f.bits 0x0B
  | .vshr f => f.bits 0x0C
  | .vsar f => f.bits 0x0D
  | .vcmp f => f.bits 0x0E
  | .vsel f => f.bits 0x0F
  | .vsplat f => f.bits 0x10
  | .vmov f => f.bits 0x11
  | .vext f => f.bits 0x12
  | .vins f => f.bits 0x13
  | .viota f => f.bits 0x14
  | .vperm f => f.bits 0x15
  | .vrcp f => f.bits 0x20
  | .vrsqrt f => f.bits 0x21
  | .vexp2 f => f.bits 0x22
  | .vlog2 f => f.bits 0x23
  | .vtanh f => f.bits 0x24
  | .vsigm f => f.bits 0x25
  | .vsqrt f => f.bits 0x26
  | .vcvt f => f.bits 0x30
  | .vscale f => f.bits 0x31
  | .vgath f => f.bits 0x32
  | .vscat f => f.bits 0x33
  | .vfill f => f.bits 0x34
  | .vredadd f => f.bits 0x40
  | .vredmax f => f.bits 0x41
  | .vredmin f => f.bits 0x42
  | .vscan f => f.bits 0x43
  | .vnz f => f.bits 0x44
  | .vcompact f => f.bits 0x45
  | .vargmax f => f.bits 0x46
  | .vsoftmax f => f.bits 0x47
  | .mma f => f.bits 0x60
  | .mmar f => f.bits 0x61
  | .manchor f => f.bits 0x62
  | .macc f => f.bits 0x63
  | .mclr f => f.bits 0x64
  | .mld f => f.bits 0x65
  | .mrot f => f.bits 0x66
  | .mrotDrop f => f.bits 0x66
  | .mseg f => f.bits 0x67
  | .cp f => f.bits 0x70
  | .cpg f => f.bits 0x71
  | .cps f => f.bits 0x72
  | .cpfill f => f.bits 0x73
  | .cpr f => f.bits 0x74
  | .cprPull f => f.bits 0x74
  | .cpdur f => f.bits 0x75
  | .rotationReentry _ _ => 0
  | .schedulerBind _ => 0
  | .stealProbe _ => 0
  | .stealRequest _ => 0
  | .stealReply _ => 0
  | .stealRetry _ => 0
  | .rootPlacement => 0
  | .rootWalk _ _ => 0
  | .rootWalkRetry _ _ => 0
  | .completionWordWrite _ => 0
  | .instructionBoundaryPark _ _ => 0
  | .memoryReply _ => 0
  | .homeSliceAccess _ => 0
  | .ownerCoreAccess _ => 0
  | .remoteCacheFill _ => 0
  | .remoteCacheInvalidate _ => 0
  | .writeAcknowledge _ => 0
  | .durablePersist _ => 0
  | .commitRequest _ => 0
  | .commitGrant _ => 0
  | .commitNotice _ => 0
  | .soloTokenRequest _ => 0
  | .soloTokenGrant => 0
  | .fullEmptyAccess _ => 0
  | .postArrival _ => 0
  | .messageResend _ => 0
  | .callatArrival _ => 0
  | .channelMessageArrival _ => 0
  | .channelControlArrival _ => 0
  | .migrationArrival _ => 0
  | .migrationResend _ => 0
  | .migrationRefusedReturn _ => 0
  | .barrierArrival _ => 0
  | .barrierCompletionNotice _ => 0
  | .barrierForwardResend _ => 0
  | .waitWatchdogExpiry _ _ => 0
  | .vectorCommandStart _ => 0
  | .vectorCommandComplete _ => 0
  | .matrixCommandStart _ => 0
  | .matrixFeedCycle _ => 0
  | .lastBlockCheck _ => 0
  | .matrixCommandComplete _ => 0
  | .latchCommandStart _ => 0
  | .latchFillComplete _ => 0
  | .mrotTransferComplete _ => 0
  | .mmarArrival _ => 0
  | .mmarCompletionNotice _ => 0
  | .copyCommandStart _ _ => 0
  | .copyCommandComplete _ _ => 0
  | .shelfFill _ => 0
  | .shelfFillComplete _ => 0
  | .foldStart _ => 0
  | .foldComplete _ => 0
  | .handleUpdate _ => 0
  | .depotImagePersist _ => 0
  | .routeArrival _ => 0
  | .sendListFlushTimeout _ _ => 0
  | .batchHeader _ => 0
  | .batchAnswer _ => 0
  | .routedContextReturn _ => 0
  | .rhomeRow _ => 0
  | .rcommitArrival _ => 0
  | .rabortArrival _ => 0
  | .transactionEndNotice _ => 0
  | .faultRecordDelivery _ => 0
  | .recordRedelivery _ => 0
  | .resume _ => 0
  | .endThread _ => 0
  | .halt _ => 0
  | .stepThread _ => 0
  | .recordQueuePop _ => 0
  | .partitionWrite _ _ => 0
  | .moduleIdWrite _ _ => 0
  | .imageQuotaWrite _ _ => 0
  | .dvdataWrite _ _ _ => 0
  | .porterAccess _ _ _ _ _ => 0
  | .launchSubmission _ => 0
  | .submissionWrite _ _ => 0
  | .submissionResend _ => 0
  | .dependencePoll _ _ => 0
  | .preemptionStop _ _ => 0
  | .preemptionSave _ _ => 0
  | .holdResend _ => 0
  | .launchResume _ => 0
  | .pageWalk _ => 0
  | .pageRequestResend _ => 0
  | .pageRequestAnswer _ _ _ => 0
  | .frameAttributeWrite _ _ _ => 0
  | .frameScrubComplete _ _ => 0
  | .shootdownRequest _ _ => 0
  | .shootdownComplete _ => 0
  | .ringStopCycle _ => 0
  | .starveRaise _ _ => 0
  | .meterWindowEnd _ => 0
  | .flitReassembly _ => 0
  | .creditReturn _ => 0
  | .bulkRequestTimeout _ => 0
  | .messageAnswerTimeout _ => 0
  | .purseRefill _ => 0
  | .hostWindowWrite _ _ _ => 0
  | .hostWindowRead _ _ => 0
  | .hostStreamWrite _ _ _ _ _ _ => 0
  | .streamBrokenTimeout _ _ => 0
  | .streamStatusReset _ _ => 0
  | .functionLevelReset _ => 0
  | .peerLinkUp _ _ => 0
  | .officeMaskStagingWrite _ _ _ => 0
  | .powerOnReset => 0
  | .moduleReset => 0
  | .clearFailsReset => 0
  | .bootStage0 _ => 0
  | .bootStage1 _ _ => 0
  | .bootStage2 _ => 0
  | .bootStage3 _ => 0
  | .officeReadyTimeout => 0
  | .tenantFunctionTimeout => 0
  | .coolantTemperatureFault => 0
  | .dramRefresh _ => 0
  | .dramTemperatureChange _ _ => 0
  | .dramPatrolScrub _ => 0
  | .sramPatrolScrub _ => 0
  | .scrubWriteBack _ => 0
  | .linkCalibration _ _ => 0
  | .depotWearLevelling => 0
  | .powerLoss _ => 0
  | .memoryReplyTimeout _ _ => 0
  | .hubCrossing _ => 0
  | .peerLinkDown _ => 0
  | .powerGating _ => 0
  | .softError _ _ => 0

/-- The kind of half an instruction is. -/
def Instr.side : Instr → Side
  | .nop => .slotA
  | .add _ => .slotA
  | .sub _ => .slotA
  | .mul _ => .slotA
  | .mulh _ => .slotA
  | .mulhu _ => .slotA
  | .div _ => .slotA
  | .divu _ => .slotA
  | .rem _ => .slotA
  | .remu _ => .slotA
  | .and _ => .slotA
  | .or _ => .slotA
  | .xor _ => .slotA
  | .andn _ => .slotA
  | .shl _ => .slotA
  | .shr _ => .slotA
  | .sar _ => .slotA
  | .rot _ => .slotA
  | .min _ => .slotA
  | .max _ => .slotA
  | .minu _ => .slotA
  | .maxu _ => .slotA
  | .clz _ => .slotA
  | .ctz _ => .slotA
  | .popc _ => .slotA
  | .sext _ => .slotA
  | .zext _ => .slotA
  | .bfx _ => .slotA
  | .bfi _ => .slotA
  | .addi _ => .slotA
  | .muli _ => .slotA
  | .andi _ => .slotA
  | .ori _ => .slotA
  | .xori _ => .slotA
  | .shli _ => .slotA
  | .shri _ => .slotA
  | .sari _ => .slotA
  | .li _ => .slotA
  | .lih _ => .slotA
  | .lx _ => .slotA
  | .cmp _ => .slotA
  | .cmpi _ => .slotA
  | .pand _ => .slotA
  | .por _ => .slotA
  | .pxor _ => .slotA
  | .pandn _ => .slotA
  | .ptog _ => .slotA
  | .gtop _ => .slotA
  | .csel _ => .slotA
  | .addp _ => .slotA
  | .pidx _ => .slotA
  | .pfmt _ => .slotA
  | .pchk _ => .slotA
  | .br _ => .slotA
  | .bcmp _ => .slotA
  | .call _ => .slotA
  | .ret _ => .slotA
  | .jr _ => .slotA
  | .jalr _ => .slotA
  | .loop _ => .slotA
  | .rdsys _ => .slotA
  | .trap _ => .slotA
  | .brk _ => .slotA
  | .wtsw _ => .slotA
  | .ld _ => .slotA
  | .ldn _ => .slotA
  | .st _ => .slotA
  | .ldv _ => .slotA
  | .stv _ => .slotA
  | .ldp _ => .slotA
  | .stp _ => .slotA
  | .lsh _ => .slotA
  | .ssh _ => .slotA
  | .shset _ => .slotA
  | .shget _ => .slotA
  | .ldf _ => .slotA
  | .ldfk _ => .slotA
  | .ste _ => .slotA
  | .stf _ => .slotA
  | .fest _ => .slotA
  | .feset _ => .slotA
  | .amoadd _ => .slotA
  | .amoand _ => .slotA
  | .amoor _ => .slotA
  | .amoxor _ => .slotA
  | .amomin _ => .slotA
  | .amomax _ => .slotA
  | .amominu _ => .slotA
  | .amomaxu _ => .slotA
  | .amoswap _ => .slotA
  | .amocas _ => .slotA
  | .fence _ => .slotA
  | .chunk _ => .slotA
  | .pref _ => .slotA
  | .tagwait _ => .slotA
  | .tagany _ => .slotA
  | .tagff _ => .slotA
  | .tagclr _ => .slotA
  | .post _ => .slotA
  | .take _ => .slotA
  | .peek _ => .slotA
  | .peekM _ => .slotA
  | .fork _ => .slotA
  | .join _ => .slotA
  | .callat _ => .slotA
  | .reply _ => .slotA
  | .send _ => .slotA
  | .chblk _ => .slotA
  | .chunblk _ => .slotA
  | .mig _ => .slotA
  | .migc _ => .slotA
  | .exit _ => .slotA
  | .yield _ => .slotA
  | .launch _ => .slotA
  | .barinit _ => .slotA
  | .bararr _ => .slotA
  | .barwait _ => .slotA
  | .barlink _ => .slotA
  | .barrd _ => .slotA
  | .gang _ => .slotA
  | .hsift _ => .slotA
  | .route _ => .slotA
  | .rhome _ => .slotA
  | .rcommit _ => .slotA
  | .rabort _ => .slotA
  | .rstat _ => .slotA
  | .afetch _ => .slotA
  | .afetchRel _ => .slotA
  | .spec _ => .slotA
  | .callh _ => .slotA
  | .reth _ => .slotA
  | .hrel _ => .slotA
  | .hinfo _ => .slotA
  | .hkeep _ => .slotA
  | .nopV => .slotV
  | .vadd _ => .slotV
  | .vsub _ => .slotV
  | .vmul _ => .slotV
  | .vfma _ => .slotV
  | .vmin _ => .slotV
  | .vmax _ => .slotV
  | .vand _ => .slotV
  | .vor _ => .slotV
  | .vxor _ => .slotV
  | .vshl _ => .slotV
  | .vshr _ => .slotV
  | .vsar _ => .slotV
  | .vcmp _ => .slotV
  | .vsel _ => .slotV
  | .vsplat _ => .slotV
  | .vmov _ => .slotV
  | .vext _ => .slotV
  | .vins _ => .slotV
  | .viota _ => .slotV
  | .vperm _ => .slotV
  | .vrcp _ => .slotV
  | .vrsqrt _ => .slotV
  | .vexp2 _ => .slotV
  | .vlog2 _ => .slotV
  | .vtanh _ => .slotV
  | .vsigm _ => .slotV
  | .vsqrt _ => .slotV
  | .vcvt _ => .slotV
  | .vscale _ => .slotV
  | .vgath _ => .slotV
  | .vscat _ => .slotV
  | .vfill _ => .slotV
  | .vredadd _ => .slotV
  | .vredmax _ => .slotV
  | .vredmin _ => .slotV
  | .vscan _ => .slotV
  | .vnz _ => .slotV
  | .vcompact _ => .slotV
  | .vargmax _ => .slotV
  | .vsoftmax _ => .slotV
  | .mma _ => .slotV
  | .mmar _ => .slotV
  | .manchor _ => .slotV
  | .macc _ => .slotV
  | .mclr _ => .slotV
  | .mld _ => .slotV
  | .mrot _ => .slotV
  | .mrotDrop _ => .slotV
  | .mseg _ => .slotV
  | .cp _ => .slotV
  | .cpg _ => .slotV
  | .cps _ => .slotV
  | .cpfill _ => .slotV
  | .cpr _ => .slotV
  | .cprPull _ => .slotV
  | .cpdur _ => .slotV
  | .rotationReentry _ _ => .event
  | .schedulerBind _ => .event
  | .stealProbe _ => .event
  | .stealRequest _ => .event
  | .stealReply _ => .event
  | .stealRetry _ => .event
  | .rootPlacement => .event
  | .rootWalk _ _ => .event
  | .rootWalkRetry _ _ => .event
  | .completionWordWrite _ => .event
  | .instructionBoundaryPark _ _ => .event
  | .memoryReply _ => .event
  | .homeSliceAccess _ => .event
  | .ownerCoreAccess _ => .event
  | .remoteCacheFill _ => .event
  | .remoteCacheInvalidate _ => .event
  | .writeAcknowledge _ => .event
  | .durablePersist _ => .event
  | .commitRequest _ => .event
  | .commitGrant _ => .event
  | .commitNotice _ => .event
  | .soloTokenRequest _ => .event
  | .soloTokenGrant => .event
  | .fullEmptyAccess _ => .event
  | .postArrival _ => .event
  | .messageResend _ => .event
  | .callatArrival _ => .event
  | .channelMessageArrival _ => .event
  | .channelControlArrival _ => .event
  | .migrationArrival _ => .event
  | .migrationResend _ => .event
  | .migrationRefusedReturn _ => .event
  | .barrierArrival _ => .event
  | .barrierCompletionNotice _ => .event
  | .barrierForwardResend _ => .event
  | .waitWatchdogExpiry _ _ => .event
  | .vectorCommandStart _ => .event
  | .vectorCommandComplete _ => .event
  | .matrixCommandStart _ => .event
  | .matrixFeedCycle _ => .event
  | .lastBlockCheck _ => .event
  | .matrixCommandComplete _ => .event
  | .latchCommandStart _ => .event
  | .latchFillComplete _ => .event
  | .mrotTransferComplete _ => .event
  | .mmarArrival _ => .event
  | .mmarCompletionNotice _ => .event
  | .copyCommandStart _ _ => .event
  | .copyCommandComplete _ _ => .event
  | .shelfFill _ => .event
  | .shelfFillComplete _ => .event
  | .foldStart _ => .event
  | .foldComplete _ => .event
  | .handleUpdate _ => .event
  | .depotImagePersist _ => .event
  | .routeArrival _ => .event
  | .sendListFlushTimeout _ _ => .event
  | .batchHeader _ => .event
  | .batchAnswer _ => .event
  | .routedContextReturn _ => .event
  | .rhomeRow _ => .event
  | .rcommitArrival _ => .event
  | .rabortArrival _ => .event
  | .transactionEndNotice _ => .event
  | .faultRecordDelivery _ => .event
  | .recordRedelivery _ => .event
  | .resume _ => .event
  | .endThread _ => .event
  | .halt _ => .event
  | .stepThread _ => .event
  | .recordQueuePop _ => .event
  | .partitionWrite _ _ => .event
  | .moduleIdWrite _ _ => .event
  | .imageQuotaWrite _ _ => .event
  | .dvdataWrite _ _ _ => .event
  | .porterAccess _ _ _ _ _ => .event
  | .launchSubmission _ => .event
  | .submissionWrite _ _ => .event
  | .submissionResend _ => .event
  | .dependencePoll _ _ => .event
  | .preemptionStop _ _ => .event
  | .preemptionSave _ _ => .event
  | .holdResend _ => .event
  | .launchResume _ => .event
  | .pageWalk _ => .event
  | .pageRequestResend _ => .event
  | .pageRequestAnswer _ _ _ => .event
  | .frameAttributeWrite _ _ _ => .event
  | .frameScrubComplete _ _ => .event
  | .shootdownRequest _ _ => .event
  | .shootdownComplete _ => .event
  | .ringStopCycle _ => .event
  | .starveRaise _ _ => .event
  | .meterWindowEnd _ => .event
  | .flitReassembly _ => .event
  | .creditReturn _ => .event
  | .bulkRequestTimeout _ => .event
  | .messageAnswerTimeout _ => .event
  | .purseRefill _ => .event
  | .hostWindowWrite _ _ _ => .event
  | .hostWindowRead _ _ => .event
  | .hostStreamWrite _ _ _ _ _ _ => .event
  | .streamBrokenTimeout _ _ => .event
  | .streamStatusReset _ _ => .event
  | .functionLevelReset _ => .event
  | .peerLinkUp _ _ => .event
  | .officeMaskStagingWrite _ _ _ => .event
  | .powerOnReset => .event
  | .moduleReset => .event
  | .clearFailsReset => .event
  | .bootStage0 _ => .event
  | .bootStage1 _ _ => .event
  | .bootStage2 _ => .event
  | .bootStage3 _ => .event
  | .officeReadyTimeout => .event
  | .tenantFunctionTimeout => .event
  | .coolantTemperatureFault => .event
  | .dramRefresh _ => .event
  | .dramTemperatureChange _ _ => .event
  | .dramPatrolScrub _ => .event
  | .sramPatrolScrub _ => .event
  | .scrubWriteBack _ => .event
  | .linkCalibration _ _ => .event
  | .depotWearLevelling => .event
  | .powerLoss _ => .event
  | .memoryReplyTimeout _ _ => .event
  | .hubCrossing _ => .event
  | .peerLinkDown _ => .event
  | .powerGating _ => .event
  | .softError _ _ => .event

/-- The must-be-zero bits of the five formats (R161): they are those a half does not give back when its fields are encoded
again, so a half whose bits are not the encoding of what it reads as is refused. -/
def checkHalf (w : Word) (i : Instr) : Except Reject Instr :=
  if encodeHalf i = w then
    if i.wf then .ok i else .error .illFormed
  else if i = .nop ∨ i = .nopV then .error .nopBits else .error .mustBeZero

/-- Slot A of a bundle (R171, R173). -/
def decodeA (w : Word) : Except Reject Instr :=
  match rowA (fld w 56 8) w with
  | none => .error .reservedOpcode
  | some i => checkHalf w i

/-- Slot V of a bundle (R172, R173). -/
def decodeV (w : Word) : Except Reject Instr :=
  match rowV (fld w 56 8) w with
  | none => .error .reservedOpcode
  | some i => checkHalf w i

/-- A bundle of two halves (R154). -/
structure Bundle where
  a : Instr
  v : Instr
deriving DecidableEq, Repr

/-- The bits of an instruction by itself in a bundle: a slot A half beside a nop, or a slot V half beside a nop. -/
def encode (i : Instr) : BitVec 128 :=
  match i.side with
  | .slotV => encodeHalf i ++ (0 : BitVec 64)
  | _ => (0 : BitVec 64) ++ encodeHalf i

/-- The half an instruction's bits hold: nbits at most 64 gives a slot A half; a longer word is a bundle (R154), which answers
its slot A half unless that is a nop and slot V is not. -/
def decodeTableWord (nbits w : Nat) : Option Instr :=
  let lo := BitVec.ofNat 64 w
  let hi := if nbits ≤ 64 then (0 : Word) else BitVec.ofNat 64 (w / 2 ^ 64)
  match decodeA lo, decodeV hi with
  | .ok .nop, .ok .nopV => some .nop
  | .ok .nop, .ok v => some v
  | .ok a, .ok _ => some a
  | _, _ => none

end Sys2Proof
end

