-- ==== Sys2Proof/Config.lean ====
section
/-! DEFINITION. The figures that the spec fixes for the module, and the free values: what the spec leaves open is an opaque
constant, so that no statement can rest on a value of it (assumption log 5, 6 and 7). -/

namespace Sys2Proof.Config

/-- Cores of the module (R3, R11). -/
def cores : Nat := 16384
/-- Bytes of a core's local memory (R17). -/
def localBytes : Nat := 262144
/-- Bytes of a core's accumulator store (R17). -/
def accBytes : Nat := 131072
/-- Bytes of device memory of a die (R103, R362). -/
def dieBytes : Nat := 0x3000000000
/-- Bytes of a frame (R103). -/
def frameBytes : Nat := 0x200000
/-- First physical address of the local memories (R362). -/
def localBase : Nat := 0x010000000000
/-- First physical address of the accumulator stores (R362). -/
def accBase : Nat := 0x020000000000
/-- Host physical memory lies beyond the module's map (the model's own numbering, assumption log 1). -/
def hostBase : Nat := 2 ^ 64
/-- The durable areas lie beyond host memory, one of 2^48 bytes per tenant (assumption log 1). -/
def durBase : Nat := 2 ^ 65
/-- Offset of a die's system frame within the die (R394). -/
def sysFrame : Nat := 0x2FFFE00000
/-- Frames of a die (R103). -/
def frames : Nat := 98304

/-- The hash of a line address into a signature of 512 bits (R124); the spec gives none (assumption log 6). -/
opaque lineHash : Nat → Nat
/-- A free value: the n-th one of a run (assumption log 5). -/
opaque freeWord : Nat → BitVec 64
/-- A free vector register (assumption log 5). -/
opaque freeVec : Nat → BitVec 512
/-- The position of an approximating unit's value within its bound, for the unit and the FP32 bits of its input (R270, R272):
only its remainder modulo 2^40 is used (assumption log 7). -/
opaque unitChoice : Nat → Nat → Nat
/-- Whether an element of an overlapping read region is read before or after its write (R261), for the command and the element. -/
opaque overlapOld : Nat → Nat → Bool
/-- Word i of the record of a peer module's launch, for the launch id, the tenant and the word (R367, R375): what stands on a peer is
outside the module. -/
opaque peerLaunchWord : Nat → Nat → Nat → BitVec 64
/-- The hub's choice among links by a hash of SRC and DCORE (R432). -/
opaque linkHash : Nat → Nat → Nat
/-- Header bits [54:0] of an answer's or an invalidation's flit, for the message (R413 lays them out for TYPE 0 to 3 only). -/
opaque answerBits : Nat → Nat
/-- A byte of a save image, for the save and the offset in the core's area (R388 gives the image no layout; assumption log 28). -/
opaque saveByte : Nat → Nat → BitVec 8
/-- The first frame, in virtual memory, of a tenant's shelf slots (R356, R357 name the slots and give no address). -/
opaque shelfStart : Nat → Nat
/-- SHA-384 over a depot key, its first 8 bytes (R438): the digest function is a standard outside the manual (assumption log 8). -/
opaque sha384First8 : List (BitVec 8) → BitVec 64

end Sys2Proof.Config
end

