-- ==== Sys2Proof/Machine/State.lean ====
section
/-! DEFINITION. The state of the module: plain data, every piece of state the spec names (INVENTORY.md, State), and the state
right after reset. Finite tables list the entries that differ from their reset value. -/

namespace Sys2Proof.Machine

/-- How a step can stop. No meaning of this model stops: parking a thread is a next state. The one fault is of the memory
access of the model's own operations to an address outside the physical map of R362. -/
inductive Fault where
  /-- raised by nothing of the shipped model; kept for an access outside the module's map, safe -/
  | outsideMap (address : Nat)
deriving DecidableEq, Repr

/-- Why a step is refused. -/
inductive Refusal where
  /-- raised by an arm of exec whose instruction has no meaning yet, safe -/
  | notModelled (mnemonic : String)
deriving DecidableEq, Repr

/-! ### Threads -/

/-- A fault as an instruction raises it: the code and the fields of its record (R368, R369). -/
structure FaultInfo where
  code : Nat
  addr : Word := 0
  aux0 : Word := 0
  aux1 : Word := 0
deriving DecidableEq, Repr

/-- The thread that issued an effect and the bundle it came from: what a record of it carries (R369, R459). -/
structure Origin where
  core : Nat := 0
  slot : Nat := 0
  uid : Nat := 0
  pc : Word := 0
  a : Word := 0
  v : Word := 0
  bind : Word := 0
  root : Nat := 0
  ftgt : Word := 0
  /-- the chunk scope, which a notice of a step's write takes (R127) -/
  csc : Nat := 3
  /-- the module of the thread, where it is not the own one (R432; assumption log 63) -/
  away : Option Nat := none
deriving DecidableEq, Repr

/-- A task descriptor (R30): entry, four arguments, the binding word 5 and the root. -/
structure Task where
  entry : Word := 0
  a0 : Word := 0
  a1 : Word := 0
  a2 : Word := 0
  a3 : Word := 0
  bind : Word := 0
  root : Nat := 0
  /-- the fault of a root's argument read, with which its thread parks before its first bundle (R379) -/
  argFault : Option FaultInfo := none
deriving DecidableEq, Repr

/-- What a thread waits for outside the rotation (R29, R254). -/
inductive Wait where
  /-- take of an empty inbox register -/
  | take (i : Nat)
  /-- barwait: the barrier and the awaited sequence -/
  | bar (b seq : Nat)
  /-- a park entry: the physical word -/
  | park (word : Nat)
  /-- tagwait or tagany with its mask -/
  | tags (m : Word) (any : Bool)
  /-- spec, from issue to reply (R327): 0 the folding unit, 1 the fence before the pin, 2 the answer of the pin -/
  | fold (stage : Nat)
  /-- a memory reply -/
  | reply
  /-- a page wake or a walk -/
  | walk
  /-- the footprint retry: until none of these commands of the core is incomplete -/
  | foot (cmds : List Nat)
  /-- an engine queue of the core without a free entry: 0 vector, 1 matrix, 2 latch path, 3 copy -/
  | queue (e : Nat)
  /-- the solo commit token (R127) -/
  | token
  /-- the end of a transaction (R351) -/
  | rcommit (x : Word)
  /-- a full migration port (R241) -/
  | port
  /-- the answer to a commit request (R125) -/
  | commit
  /-- a fence, a release or a migration that waits until earlier accesses are performed at a scope (R136) -/
  | fence (scope : Nat)
  /-- a step's write whose notice would reach a solo chunk (R127) -/
  | solo
  /-- resumed or stepped by system software less than 8 cycles after its last issue (R27, R371); how long is in Thread.ready -/
  | resume
deriving DecidableEq, Repr

/-- The state of a bound thread (R24, R365): the wait carries whether its event has come (R27). -/
inductive Status where
  | runnable
  | waiting (w : Wait) (woken : Bool)
  | parked
  | halted
deriving DecidableEq, Repr

/-- The answer to an access that left the core. -/
inductive Answer where
  /-- not yet -/
  | none
  /-- the value of the access, as a number of its bytes -/
  | data (v : Nat)
  /-- refused with a retry (R217) -/
  | retry
  /-- the access faults -/
  | fault (f : FaultInfo)
deriving DecidableEq, Repr

/-- The access a thread waits on (R29): its message and the answer, which the reissue of its bundle takes up. -/
structure Outst where
  id : Nat
  addr : Word
  since : Nat
  ans : Answer
  /-- the engine queue in which its bundle's slot V keeps an entry (R156) -/
  queue : Option Nat := none
  /-- slot V of its bundle faults: the message only asks for the faults of slot A (R156) -/
  check : Bool := false
deriving DecidableEq, Repr

/-- An effect that is held until its chunk commits (R130). -/
inductive Effect where
  /-- post (opcode 0x7C), also of a store through the window (0x52) and of join (0x81): the target word and the value -/
  | post (target val : Word) (opc : Nat)
  /-- reply (R236): the link and the value -/
  | reply (link : Nat) (val : Word)
  /-- callat (R235) with the target word -/
  | callat (target : Word) (t : Task) (link : Nat)
  /-- send (R237) -/
  | send (target : Word) (a0 a1 a2 a3 : Word)
  /-- chblk and chunblk (R238) -/
  | chctl (target : Word) (blk : Bool)
  /-- fork (R233) -/
  | fork (t : Task)
  /-- launch (R244): the record pointer -/
  | launch (ptr : Word)
  /-- a shape-form command: its number on the core -/
  | cmd (id : Nat)
deriving DecidableEq, Repr

/-- A held effect with its origin. -/
structure Held where
  org : Origin
  eff : Effect
deriving DecidableEq, Repr

/-- An open chunk (R122, R124): the scope and budget in force, the checkpoint, the lines read and written, the store buffer. -/
structure Chunk where
  scope : Nat
  budget : Nat
  count : Nat
  g : Vector Word 16
  pc : Word
  tsw : Word
  v : Vector VReg 16
  h : Vector Shape 16
  link : Option Nat
  reads : List Nat := []
  writes : List Nat := []
  /-- lines on which the chunk has performed an atomic (R220) -/
  atoms : List Nat := []
  buf : List Host.Cell := []
  /-- the hint of the last store to each device line, where not normal (R109) -/
  hints : Tab Nat := []
  held : List Held := []
  /-- a commit request is outstanding (R125) -/
  asked : Bool := false
deriving DecidableEq, Repr

/-- A handle stack entry (R329): the handle and the return address. -/
structure HEntry where
  handle : Word
  ret : Word
deriving DecidableEq, Repr

/-- A fault record (R369). -/
structure Record where
  code : Nat := 0
  slot : Nat := 0
  redir : Bool := false
  orphan : Bool := false
  core : Nat := 0
  ten : Nat := 0
  cls : Nat := 0
  pc : Word := 0
  a : Word := 0
  v : Word := 0
  addr : Word := 0
  aux0 : Word := 0
  aux1 : Word := 0
  stamp : Nat := 0
  ftgt : Word := 0
  /-- the eight words of a page request entry, where the record is a copy of one (R398) -/
  raw : List Word := []
  /-- the cycle of its next offer, once it has been refused (R370) -/
  next : Nat := 0
deriving DecidableEq, Repr

/-- The folding unit's answer to spec (R315, R326). -/
inductive FoldAns where
  | ok (handle : Word)
  | fault (f : FaultInfo)
  /-- the fold was made for its faults alone, and none was found (R156) -/
  | clean
deriving DecidableEq, Repr

/-- A thread bound to a slot (R23). -/
structure Thread where
  uid : Nat := 0
  g : Vector Word 16 := Vector.replicate 16 0
  pc : Word := 0
  /-- the stored bits of the thread status word; p0, GNG, HSD and PCL are composed on reading (R169) -/
  tsw : Word := 0
  v : Vector VReg 16 := Vector.replicate 16 0
  h : Vector Shape 16 := Vector.replicate 16 0
  /-- word 5 of R30 -/
  bind : Word := 0
  root : Nat := 0
  hs : List HEntry := []
  chunk : Option Chunk := none
  budget : Nat := 256
  squash : Nat := 0
  solo : Bool := false
  /-- the held effects of a chunk whose lines have been performed, until its notices are delivered (R125, R130) -/
  outgoing : Option (List Held) := none
  w0 : Word := 0
  w1 : Word := 0
  st : Status := .runnable
  ftgt : Word := 0
  link : Option Nat := none
  refusals : Nat := 0
  key : Nat := 0
  /-- the first cycle at which the thread may issue: 8 after its last issue (R26, R27) -/
  ready : Nat := 0
  /-- the cycle at which the current wait began (R255, R227) -/
  since : Nat := 0
  acc : Option Outst := none
  /-- halt again after one bundle (R371) -/
  stepping : Bool := false
  /-- records with which the thread parks at its next instruction boundary (R459) -/
  parkAt : List Record := []
  /-- a halt awaited until a commit answer (R372) -/
  haltAt : Bool := false
  /-- a pre-emption stop has met the thread: it halts at its boundary, and runs on after the restore (R386, R390) -/
  stopAt : Bool := false
  /-- ended by system software while parked or halted (R371), with handles still stacked: the slot frees once they are unpinned (R329) -/
  endAt : Bool := false
  /-- the barwait that a pre-emption stop has met, with its barrier and awaited sequence: it goes on after the restore (R252) -/
  stopBar : Option (Nat × Nat) := none
  /-- the fault of an argument read, of a handle start or of a return, with which the thread parks before its first bundle (R379,
  R32, R241); whether its record carries program counter 0 -/
  startFault : Option (FaultInfo × Bool) := none
  /-- the moment, as a value of fresh, of the last entry by call, callh, jr, jalr or a start (R159) -/
  entered : Nat := 0
  /-- the answer of a fold (R315) -/
  foldAns : Option FoldAns := none
  /-- the module whose routing engine sent the thread here, where it is not the own one: rhome returns there (R350; assumption log 63) -/
  away : Option Nat := none
  /-- the cores from which the thread was routed and to which it has not come back (R346, R359): its launch keeps their grants
  (assumption log 86) -/
  homes : List Nat := []
deriving DecidableEq, Repr

/-! ### Messages -/

/-- The operation of an access performed at a home slice, an owning core, the host or the depot. -/
inductive AccOp where
  | load
  | store (v : Nat)
  /-- an atomic (R219): opcode, operand, expected value -/
  | amo (opc : Nat) (b e : Nat)
  /-- join (R234): decrement the first word, answer the new count and the post target -/
  | join
deriving DecidableEq, Repr

/-- A token's way through a routing engine (R346 to R349): the transaction word, the destination of the status pair, the home
core, the choices left with their index (best first), the counts INV and RDIR. -/
structure Routing where
  x : Word := 0
  rd : Nat := 0
  home : Nat := 0
  choices : List (Nat × Nat) := []
  inv : Nat := 0
  rdir : Nat := 0
  /-- OUT: 0 placed at the first choice left, 1 unplaced, 2 transaction aborted -/
  out : Nat := 0
deriving DecidableEq, Repr

/-- A migrating context with its binding (R23, R239), and the basket (R240). -/
structure Context where
  g : Vector Word 16 := Vector.replicate 16 0
  pc : Word := 0
  tsw : Word := 0
  bind : Word := 0
  root : Nat := 0
  uid : Nat := 0
  /-- the moment of its last entry into code (R159) -/
  entered : Nat := 0
  /-- the first cycle at which the thread may issue again: 8 after its last issue (R26, R28) -/
  ready : Nat := 0
  basketOff : Nat := 0
  basket : List Byte := []
  /-- the target word of the migration -/
  target : Word := 0
  /-- why the context comes back: it parks with the fault when next bound (R241, R346, R432) -/
  fault : Option FaultInfo := none
  /-- a flit of the basket was poisoned (R418) -/
  bad : Bool := false
  /-- a routed token (R347) or a returning row (R350) -/
  route : Option Routing := none
  /-- the module whose engine routed the thread, where it is not the own one (R350; assumption log 63) -/
  away : Option Nat := none
  /-- the cores from which the thread was routed and to which it has not come back (R346, R359; assumption log 86) -/
  homes : List Nat := []
deriving DecidableEq, Repr

/-- Who waits for a translation or a page (R398): a thread, a command of a core, a folding unit, a write of the intake, or a submission. -/
inductive Waiter where
  | thread (core slot uid : Nat)
  | command (core id : Nat)
  | fold (cluster : Nat)
  | intake (launch what : Nat)
  /-- a submission whose record the intake reads: its message -/
  | submit (m : Nat)
deriving DecidableEq, Repr

/-- What a message carries. -/
inductive Body where
  /-- an access to the physical address, n bytes, with its hint, for the waiting thread -/
  | access (pa n hint : Nat) (op : AccOp)
  /-- a load of another core's inbox window (R101): the offset -/
  | winRead (off : Nat)
  /-- the answer of an access -/
  | answer (acc : Nat) (ans : Answer)
  /-- a sector that the remote-data cache bank of a slice fetches from its home for a load, with its hint; 0 as access for pref (R108,
  R223) -/
  | rfill (slice pa n hint : Nat) (acc : Nat)
  /-- invalidate a line in the bank of a die before a write is acknowledged; the write's number (R108) -/
  | inval (line die : Nat) (wr : Nat)
  /-- the answer to an invalidation (R108) -/
  | wack (wr : Nat)
  /-- a durable store not yet persistent: offset in the model's map, bytes, the thread's fence epoch (R137) -/
  | durable (pa : Nat) (bytes : List Byte) (epoch : Nat)
  /-- a chunk asks its arbiter (R125) -/
  | commitReq (arb : Nat)
  /-- a commit notice for the chunk of the named thread, with its write list (R126) -/
  | notice (slot uid : Nat) (lines : List Nat)
  /-- a request for the solo token (R127) -/
  | tokenReq
  /-- a full/empty request at the owning core (R215): opcode, physical word, data -/
  | fe (opc pa data : Nat)
  /-- a post or a reply (R225): register, value, opcode, target word -/
  | post (ibx : Nat) (val : Word) (opc : Nat) (target : Word)
  | callat (t : Task) (link : Nat) (target : Word)
  | chan (ch : Nat) (t : Task) (pri : Nat) (target : Word) (host : Bool)
  | chctl (ch : Nat) (blk : Bool) (target : Word)
  | fork (t : Task)
  /-- a migrating context -/
  | context (c : Context)
  /-- an arrival at a barrier by a thread -/
  | barArr (b : Nat)
  /-- an arrival forwarded by a child barrier -/
  | barFwd (b childCore childBar : Nat)
  /-- a completion notice -/
  | barNote (b : Nat)
  /-- barrd of another core: barrier, link word -/
  | barRead (b : Nat) (link : Bool)
  | stealReq (thief : Nat)
  | stealRep (t : Option Task)
  /-- a translation that a first slice walks (R392): virtual address, access kinds, the waiter -/
  | walk (va : Nat) (wr ex : Bool) (w : Waiter)
  /-- a matrix command for another core (R296) -/
  | mmar (ten : Nat) (token : Word) (cmd : Nat)
  /-- its completion notice: the command's number on the issuing core, flags, 0 or the fault -/
  | mmarDone (cmd : Nat) (flags : Nat) (sat : Bool) (f : Option FaultInfo)
  /-- an update of a handle entry (R328): the handle, 0 pin 1 unpin 2 release -/
  | handle (h : Word) (op : Nat)
  /-- an image on its way to the depot (R330, R441) -/
  | depot (h : Word)
  /-- a context that arrives at a routing engine (R347) -/
  | routeIn (c : Context)
  /-- the header of a batch for an expert core (R347): its transaction, expert, COUNT, CAP and FSEQ -/
  | batch (x : Word) (expert count cap fseq : Nat)
  /-- the answer to a batch, named by its FSEQ: tokens taken (R348) -/
  | batchAns (x : Word) (expert fseq a : Nat)
  /-- a routed context that the owner refused, on its way back to the engine (R348) -/
  | routedBack (c : Context)
  /-- a row of rhome (R350): the context that returns, with the row as its basket -/
  | rrow (c : Context)
  /-- rcommit and rabort at the engine (R351, R352) -/
  | rcommit (x : Word) (count : Nat)
  | rabort (x : Word)
  /-- the end of a transaction for the cores that hold its contexts (R348) -/
  | txEnd (x : Word)
  /-- a record pointer submitted to the intake (R244, R377): issuer's tenant and class, the channel of a host submission -/
  | launch (ptr : Word) (ten cls : Nat) (chan : Option Nat)
  /-- a line that scrub has read with a corrected error (R451): address and the value read -/
  | scrub (pa : Nat) (old : List Byte)
  /-- a bulk transfer of a line (R413): for whom it is, the line, a write or a read request, the stops it still has to visit; answered
  where it ends -/
  | bulk (who line : Nat) (wr : Bool) (legs : List Nat)
  /-- its answer, or its data -/
  | bulkEnd (who line : Nat)
  /-- a flit of a peer module with a reserved TYPE or SPACE (R413) -/
  | reserved
deriving DecidableEq, Repr

/-- A context that a message carries, changed. -/
def Body.onContext (b : Body) (f : Context → Context) : Body :=
  match b with
  | .context c => .context (f c)
  | .routeIn c => .routeIn (f c)
  | .routedBack c => .routedBack (f c)
  | .rrow c => .rrow (f c)
  | b => b

/-- The context that a message carries. -/
def Body.theContext : Body → Option Context
  | .context c => some c
  | .routeIn c => some c
  | .routedBack c => some c
  | .rrow c => some c
  | _ => none

/-- Where a message is: waiting to be offered (again) at a cycle, in flits on the fabric, or whole at its destination; over a peer link
and not yet answered; accepted by its module, where the work of its root goes on (R45, R432; assumption log 63). -/
inductive Stage where
  | wait (at_ : Nat)
  | flits
  | arrived
  | away
  | there
deriving DecidableEq, Repr

/-- A message in flight (R413, R414). Cores are 0 to 16,383; the hub is 16,384; the first routing engine 16,385. -/
structure Msg where
  id : Nat
  src : Nat
  dst : Nat
  dmod : Nat := 0
  ten : Nat := 0
  org : Origin := {}
  body : Body
  stage : Stage := .arrived
  /-- answered with a hold, which counts as no refusal (R389) -/
  held : Bool := false
  refusals : Nat := 0
  born : Nat := 0
  /-- flits not yet arrived at the destination's reassembly table -/
  left : Nat := 0
  /-- an uncorrected error in the payload of a flit (R418) -/
  poisoned : Bool := false
  /-- MSGID, allocated when its first flit is injected (R414) -/
  num : Option Nat := none
deriving DecidableEq, Repr

/-! ### Engine commands -/

/-- Where a pointer leads (R97): its space and the offset there. -/
inductive Space where
  /-- shared virtual memory -/
  | virt (va : Nat)
  /-- local memory of a core, with its overflow window where it has one (R383) -/
  | loc (core off : Nat)
  /-- accumulator store of a core -/
  | acc (core off : Nat)
  /-- the inbox and channel window of a core -/
  | window (core off : Nat)
  /-- the durable window -/
  | durable (off : Nat)
deriving DecidableEq, Repr

/-- A footprint (R117): the space (0 virtual, 1 local, 2 accumulator, 3 durable), the core, the byte interval, read or write. -/
structure Foot where
  space : Nat
  core : Nat
  lo : Nat
  hi : Nat
  wr : Bool
deriving DecidableEq, Repr

/-- The engine a command runs on (R18, R288). -/
inductive Engine where
  | vector
  | matrix
  | latch
  | copy
deriving DecidableEq, Repr

/-- A lane of the scales while its block is in the engine (R84): the two pans, oldest first. -/
structure Lane where
  pos : List Int := []
  neg : List Int := []
  /-- a term has come that sets the lean to LOST while the block may not be written yet (R83, R334) -/
  lost : Bool := false
deriving DecidableEq, Repr

/-- A block that drains, and then waits for its check, while the next one is fed (R80, R334): its segment, its place and its number in
the command, its set of pans. -/
structure Back where
  seg : Nat := 0
  cur : Nat := 0
  idx : Nat := 0
  lanes : Tab Lane := []
deriving DecidableEq, Repr

/-- An engine command, its operands copied at issue (R116, R118, R214). -/
structure Cmd where
  id : Nat
  org : Origin
  instr : Instr
  eng : Engine
  /-- the shape operands VD, VA, VB -/
  sd : Shape := 0
  sa : Shape := 0
  sb : Shape := 0
  /-- where their regions lie -/
  pd : Space := .virt 0
  pa : Space := .virt 0
  pb : Space := .virt 0
  /-- where the count word lies (R115) -/
  pc : Option Space := none
  /-- the vector register operands VA, VB -/
  va : VReg := 0
  vb : VReg := 0
  /-- the scalar operand -/
  gs : Word := 0
  /-- a second scalar: the token of mmar, the index base of cpg and cps -/
  gt : Word := 0
  tsw : Word := 0
  tag : Nat := 0
  foots : List Foot := []
  held : Bool := false
  started : Bool := false
  done : Bool := false
  /-- the output block, the next K slice and the segment a matrix command is on (R88, R303) -/
  cur : Nat := 0
  slice : Nat := 0
  seg : Nat := 0
  lanes : Tab Lane := []
  /-- the block before it, which drains through the other set of pans (R80); it has drained and waits for its check (R89) -/
  back : Option Back := none
  fed : Bool := false
  /-- the block in hand may be written: it is zero-initialised where Z asks for it (R292, R334) -/
  begun : Bool := false
  /-- no block is left to feed -/
  spent : Bool := false
  /-- the cursor of a vector or copy command, of macc and of mclr: the next item, the count so far (R262, R303, R310) -/
  pos : Nat := 0
  cnt : Nat := 0
  /-- the memory as it stood before the command, kept where the command may write what it reads (R261) -/
  old : Option (List Host.Cell) := none
  /-- the index count, read when cpg or cps starts (R306) -/
  lim : Nat := 0
  /-- collected flags NX UF OF DZ NV in bits 0 to 4, ASAT in bit 6, SUBST in bit 5 (R94, R262) -/
  flags : Nat := 0
  /-- halted with the fault (R90, R263) -/
  halted : Option FaultInfo := none
  /-- waits for a page (R263) -/
  paged : Bool := false
  /-- the page whose request was refused: its virtual address divided by 4096 (R263) -/
  refused : Option Nat := none
  /-- after RESUME or END of a park on 0x06 or 0x07 it goes on with AOT 0 (R91) -/
  forgiving : Bool := false
  /-- accepted from another core (R297): its core, and the command's number there -/
  from_ : Option Nat := none
  peer : Nat := 0
  /-- the footprints of an mmar at its target -/
  tfoots : List Foot := []
  /-- the segment table of an mseg, read at its start: base and rows (R298) -/
  segs : List (Word × Nat) := []
  /-- blocks finished, over all segments (R90) -/
  nblk : Nat := 0
  /-- an operand has format K3: SUBST is set when the command begins (R62; assumption log 80) -/
  k3 : Bool := false
deriving DecidableEq, Repr

/-- The state of an operand latch (R79, R293). -/
inductive LatchState where
  | empty
  | filling
  | full
deriving DecidableEq, Repr

/-- An operand latch: the record of the tile and its bytes. -/
structure Latch where
  st : LatchState := .empty
  recd : Shape := 0
  tile : List Byte := []
  /-- a transfer from the preceding core is coming (R295) -/
  reserved : Bool := false
deriving DecidableEq, Repr

/-! ### Cores -/

/-- A channel with its task table entry (R37, R38). -/
structure Chan where
  w0 : Word := 0
  cls : Nat := 0
  ten : Nat := 0
  en : Bool := false
  hk : Bool := false
  blk : Bool := false
  /-- pending messages, oldest first, each with its priority -/
  pend : List (Task × Nat) := []
  skip : Nat := 0
deriving DecidableEq, Repr

/-- A barrier (R245). -/
structure Barrier where
  seq : Nat := 0
  arr : Nat := 0
  cnt : Nat := 0
  watch : Nat := 0
  uv : Bool := false
  upCore : Nat := 0
  upBar : Nat := 0
  pend : Bool := false
  err : Bool := false
  childs : List (Nat × Nat) := []
deriving DecidableEq, Repr

/-- A park entry (R216): the requester, its core, the operation, the word, the data. -/
structure Park where
  org : Origin
  acc : Nat
  opc : Nat
  word : Nat
  data : Nat
deriving DecidableEq, Repr

/-- The grant of a core (R378): the launch's number in the intake, its id and tenant, the bytes of local memory and
accumulator store, and the frame of the cluster's save area, in which an overflow window lies (R383, R388). -/
structure Grant where
  launch : Nat
  lid : Nat
  ten : Nat
  lmem : Nat
  acc : Nat
  frame : Nat := 0
deriving DecidableEq, Repr

/-- A translation cache entry (R393): tenant, ASID, virtual page and size, the size of the leaf it came from, the physical page,
what it allows, the frame's attribute entry as the walk found it; none for host memory. -/
structure Tlb where
  ten : Nat
  asid : Nat
  global : Bool
  vpn : Nat
  shift : Nat
  leaf : Nat
  pa : Nat
  wr : Bool
  ex : Bool
  rd : Bool
  attr : Option Word
deriving DecidableEq, Repr

/-- A line of an L2 slice (R110, R422): sectors valid and dirty, the kept mark, the last use. -/
structure L2Line where
  ten : Nat := 0
  valid : Nat := 0
  dirty : Nat := 0
  kept : Bool := false
  used : Nat := 0
deriving DecidableEq, Repr

/-- A mailbox of an office core (R370). -/
structure Mbox where
  w0 : Word := 0
  wr : Nat := 0
  rd : Nat := 0
deriving DecidableEq, Repr

/-- An intake entry of a core (R348): the transaction, the sending engine, the expert, TAKEN. -/
structure Intake where
  x : Word
  engine : Nat
  expert : Nat
  taken : Nat
deriving DecidableEq, Repr

/-- A core: everything that is neither a thread nor memory. -/
structure Core where
  tags : Word := BitVec.allOnes 64
  /-- the present inbox registers and their values (R225) -/
  inbox : Tab Word := []
  chans : Tab Chan := []
  /-- the fork deque, oldest first (R34) -/
  deque : List Task := []
  /-- the remote-call queue with reply links, oldest first (R235) -/
  remote : List (Task × Option Nat) := []
  /-- the receive frames, oldest first (R241) -/
  frames : List Context := []
  parks : List Park := []
  /-- skip counts of the channels, the remote-call queue and the deque (R40) -/
  skips : Nat × Nat × Nat := (0, 0, 0)
  bars : Tab Barrier := []
  /-- engine commands not yet complete, in order of issue -/
  cmds : List Cmd := []
  latch0 : Latch := {}
  latch1 : Latch := {}
  cap0 : Word := 0
  cap1 : Word := 0
  retry : Nat := 4096
  watchdog : Nat := 67108864
  part : Word := 0
  homing : Tab (Word × Word) := []
  recq : List Record := []
  /-- records raised and not yet delivered (R370) -/
  waiting : List Record := []
  lastCode : Tab Nat := []
  /-- the slots whose DBG is 1 (R365) -/
  dbgs : List Nat := []
  grant : Option Grant := none
  /-- contexts packed at the port: their messages' numbers (R241) -/
  port : List Nat := []
  tlb : List Tlb := []
  l2 : Tab L2Line := []
  /-- dies listed in the directory per line (R108) -/
  dirs : Tab (List Nat) := []
  /-- coins and ACT per tenant, where they differ from the base of the last refill (R424, R425) -/
  purses : Tab (Nat × Bool) := []
  /-- the cycle of the purses' last refill -/
  refillAt : Option Nat := none
  intake : List Intake := []
  /-- steal: the probe in flight, the cycle before which none is sent, the place in the order of the circles from which the next
  victim is sought (R42) -/
  probing : Bool := false
  probeAt : Nat := 0
  probeNext : Nat := 0
  /-- SCOR and SUNC of the core; on core 0 of a cluster DCOR and DUNC of its vault (R452) -/
  soft : Nat × Nat × Nat × Nat := (0, 0, 0, 0)
  /-- the next line of the SRAM patrol scrub, and the window of 1,024 cycles that has had its read (R450) -/
  scrubAt : Nat := 0
  scrubbed : Option Nat := none
  mbox : Tab Mbox := []
  /-- the messages that hold an entry of the reassembly table, and the flits ejected and not yet taken into it (R414) -/
  rtable : List Nat := []
  landed : List Nat := []
deriving DecidableEq, Repr

/-! ### Clusters, dies, the fabric -/

/-- A fold request at a cluster's unit (R315, R327). -/
structure FoldReq where
  org : Origin
  handle : Word
  /-- g1 to g8 at the spec -/
  g : List Word
  em : Nat
  ub : Nat
  /-- slot V of the bundle faults: the fold only seeks the faults of spec and writes no residual (R156) -/
  check : Bool := false
deriving DecidableEq, Repr

/-- What an early load of a fold has come to (R321, R325): its value, or the code of its deferred fault. -/
inductive Loaded where
  | value (v : Nat)
  | fault (code : Nat)
deriving DecidableEq, Repr

/-- The fold in progress (R22, R316, R321, R327): what its early loads have come to so far, in order, and the pages
refused to it; once walked, the residual's bundles and constant pool, or the fault. -/
structure FoldRes where
  req : FoldReq
  walked : Bool := false
  vals : List Loaded := []
  refused : List Nat := []
  image : List (Word × Word) := []
  pool : List Byte := []
  flags : Nat := 0
  fault : Option FaultInfo := none
  /-- the depot key (R438) -/
  key : List Word := []
  /-- the fold is at its end, and its answer goes out once the unpin of the source, a message, is performed (R327) -/
  ending : Option (Nat × FoldAns) := none
deriving DecidableEq, Repr

/-- A shelf slot of a cluster (R356, R357). -/
structure ShelfSlot where
  adapter : Option Nat := none
  pins : Nat := 0
  filling : Bool := false
  full : Bool := false
  order : Nat := 0
deriving DecidableEq, Repr

/-- What the sixteen cores of a cluster share. -/
structure Cluster where
  folds : List FoldReq := []
  /-- the fold in progress -/
  folding : Option FoldRes := none
  /-- the fold waits for a page (R321) -/
  foldPaged : Bool := false
  shelf : Tab ShelfSlot := []
  /-- the next line of the vault's patrol scrub, and the window of 1,024 cycles that has had its reads (R450) -/
  scrubAt : Nat := 0
  scrubbed : Option Nat := none
deriving DecidableEq, Repr

/-- A batch whose header is out (R347): its expert, the owner core with its module above bit 14, FSEQ, its contexts. -/
structure Batch where
  expert : Nat
  owner : Nat
  fseq : Nat
  toks : List Context
deriving DecidableEq, Repr

/-- A transaction slot of a routing engine (R346, R351). -/
structure Txn where
  seq : Nat := 0
  /-- 0 COMMITTED, 1 OPEN, 2 ABORTED -/
  state : Nat := 0
  reason : Nat := 0
  /-- contexts expected by rcommit, WAIT -/
  n : Nat := 0
  sent : Nat := 0
  ack : Nat := 0
  wait : Nat := 0
  /-- send lists by expert: the contexts, oldest first, and the cycle at which the oldest came (R347) -/
  lists : Tab (List Context × Nat) := []
  /-- the next sequence number by expert (R347) -/
  seqs : Tab Nat := []
  /-- batches whose header is out -/
  out : List Batch := []
  /-- owner cores that headers went to (R348) -/
  owners : List Nat := []
  /-- staged rows: the physical address, the bytes (R350) -/
  rows : List (Nat × List Byte) := []
  /-- sectors of the staged rows that are poisoned (R418): physical address divided by 32 -/
  badRows : List Nat := []
  /-- rcommit waiters: the thread and the access it waits on -/
  waiters : List (Origin × Nat) := []
  /-- the launches whose tokens have joined (R354) -/
  lids : List Nat := []
deriving DecidableEq, Repr

/-- A line of a remote-data cache bank (R108, R109): the bytes of its valid sectors, the kept mark, the last use. -/
structure BankLine where
  lo : Option (List Byte) := none
  hi : Option (List Byte) := none
  kept : Bool := false
  used : Nat := 0
deriving DecidableEq, Repr

/-- A die: the remote-data cache banks and the routing engine. -/
structure Die where
  /-- the four banks: 4 times the line address (physical, divided by 64) plus the quadrant -/
  bank : Tab BankLine := []
  txns : Tab Txn := []
  /-- temperature band: 0 below 85, 1 to 95, 2 to 105, 3 above (R450) -/
  band : Nat := 0
  /-- waiters of page request entries: entry index to the waiters (R398) -/
  pageWaiters : Tab (List Waiter) := []
  /-- frames in SCRUB whose zeroing is under way (R405) -/
  scrubs : List Nat := []
deriving DecidableEq, Repr

/-- A flit (R413): the header fields that the fabric reads, its message, the port at which it leaves its ring pair (R415), and the
cycle at which it stands at its stop's input. -/
structure Flit where
  msg : Nat
  idx : Nat
  age : Nat := 0
  src : Nat
  dst : Nat
  dmod : Nat := 0
  ten : Nat := 0
  /-- DIR: false clockwise, true counter-clockwise -/
  ccw : Bool := false
  /-- the stop at which it is ejected, and whether through the tap -/
  exit : Nat := 0
  tap : Bool := false
  at_ : Nat := 0
deriving DecidableEq, Repr

/-- A ring stop (R407 to R412). -/
structure Stop where
  /-- the flits on the clockwise and the counter-clockwise input, oldest first -/
  cw : List Flit := []
  ccw : List Flit := []
  /-- flits that wait at the cluster's inject port and at the tap's, oldest first -/
  inject : List Flit := []
  tapIn : List Flit := []
  /-- cycles that each inject port has waited (R410) -/
  waited : Nat := 0
  tapWaited : Nat := 0
  /-- STARVE of each port, with its ring: true counter-clockwise -/
  starve : Option Bool := none
  tapStarve : Option Bool := none
  /-- deflections of the window in progress, METER, THR, THROT -/
  defl : Nat := 0
  meter : Nat := 0
  thr : Nat := 128
  throt : Bool := false
  /-- the cycle of the cluster port's last injection -/
  lastInject : Option Nat := none
  /-- the cycle of its last turn, and of the last end of a window -/
  turned : Option Nat := none
  windowAt : Option Nat := none
deriving DecidableEq, Repr

/-- A buffer under credits (R416): flits, credits that its sender holds, places freed and not yet returned, the cycle of the last
flit it took. Keys: 0 to 15 from a quadrant's die port to the hub; 16 to 31 from the hub to the die port, whose flits stand at the
taps; 32 to 47 a peer link; 48 flits of the hub itself; 64 to 79 what comes in over a peer link. -/
structure Buf where
  q : List Flit := []
  credits : Nat := 256
  owed : Nat := 0
  last : Option Nat := none
  /-- a calibration pause lasts until this cycle (R450) -/
  pause : Nat := 0
deriving DecidableEq, Repr

/-! ### The hub -/

/-- A translation that a porter holds (R393): its ASID, whether it is global, the page, the log2 of its size, the leaf. -/
structure PTlb where
  asid : Nat
  global : Bool
  vpn : Nat
  shift : Nat
  pte : Word
deriving DecidableEq, Repr

/-- The hart of a porter (R361): x1 to x31, program counter, mode (0 user, 1 supervisor, 3 machine), control registers by number,
reservation (address and size), whether wfi waits, instructions retired, TLB (assumption log 90). -/
structure Hart where
  x : Tab Word := []
  pc : Word := 0
  priv : Nat := 3
  csr : Tab Word := []
  resv : Option (Nat × Nat) := none
  wfi : Bool := false
  instret : Word := 0
  tlb : List PTlb := []
deriving DecidableEq, Repr

/-- A porter (R361): its selector, what an access of it by a row of the opcode table returned, whether that raised the illegal-instruction or
the access-fault exception, and its hart. -/
structure Porter where
  dvsel : Word := 0
  lastRead : Word := 0
  illegal : Bool := false
  accessFault : Bool := false
  hart : Hart := {}
deriving DecidableEq, Repr

/-- A root that is not yet placed, or waits (R36, R379). -/
structure RootWait where
  /-- not before this cycle -/
  next : Nat := 0
  /-- waits for a page -/
  paged : Bool := false
  /-- waits for the victim's release -/
  victim : Option Nat := none
  args : Option (List Word) := none
  argFault : Option FaultInfo := none
deriving DecidableEq, Repr

/-- The saved state of a core, or of the launch's part of it (R387). -/
structure SavedCore where
  core : Nat
  whole : Bool
  /-- the number before which the messages lie that were in flight when it was saved (R228, R252) -/
  mark : Nat := 0
  threads : Tab Thread
  img : Core
  /-- memory cells of the grant, the full words and the lean entries -/
  cells : List Host.Cell
  full : List Nat
  lean : Tab Nat
  gang : Bool
  /-- the slots of its threads whose DBG is 1 -/
  dbgs : List Nat := []
  /-- contexts held at the core's port, as messages -/
  port : List Msg
deriving DecidableEq, Repr

/-- Where a launch stands. -/
inductive LaunchState where
  | active
  /-- the stop is under way: cores not yet saved (R386) -/
  | stopping (left : List Nat)
  | saved
  | complete
deriving DecidableEq, Repr

/-- An accepted launch (R375 to R390). -/
structure Launch where
  num : Nat
  words : List Word
  ptr : Word
  /-- a record in local memory: the core and the offset (R244) -/
  home : Option (Nat × Nat) := none
  st : LaunchState := .active
  next : Nat := 0
  waits : Tab RootWait := []
  /-- dependences met as a whole, and the per-root ones met -/
  met : List Nat := []
  metRoots : List (Nat × Nat) := []
  placed : List Nat := []
  finished : List Nat := []
  /-- bitmap bits and the word still to write -/
  owed : List Nat := []
  wordDone : Bool := false
  saved : List SavedCore := []
  savedAt : Nat := 0
  /-- by core, once its threads have halted in a stop, the number before which the messages lie that its save awaits (R386) -/
  marks : Tab Nat := []
deriving DecidableEq, Repr

/-- A write of the intake (R377, R46, R460): launch or none with the record, which write, address, value, size. -/
structure IntakeWrite where
  ten : Nat
  what : Nat
  addr : Word
  val : Word
  scope : Nat
  launch : Option Nat
  /-- the physical address of a word in a core's local memory, where the record lies there -/
  pa : Option Nat := none
  root : Nat := 0
  paged : Bool := false
  next : Nat := 0
  /-- dropped with this code, once a place for its record is free (R370) -/
  drop : Option Nat := none
deriving DecidableEq, Repr

/-- A stream of a tenant's function (R429). -/
structure Stream where
  e : Nat := 0
  broken : Bool := false
  /-- held writes: sequence, window offset, bytes -/
  held : List (Nat × Nat × List Byte) := []
  since : Nat := 0
deriving DecidableEq, Repr

/-- A kept image (R438, R441): key words, bundles, whether its tag verifies, whether it is persistent, hit and write order. -/
structure Image where
  key : List Word
  /-- the bundles of code, and after them the constant pool in pieces of 16 bytes -/
  body : List (Word × Word)
  /-- bundles of code -/
  size : Nat
  flags : Nat
  intact : Bool := true
  persistent : Bool := true
  hit : Nat := 0
  wrote : Nat := 0
deriving DecidableEq, Repr

/-- A shootdown under way (R402): its completion word and value, and the number before which the accesses lie that it awaits. -/
structure Shoot where
  ten : Nat
  word : Word
  val : Word
  mark : Nat
deriving DecidableEq, Repr

/-- Code arena space of a residual (R327, R328): its tenant, table index, first byte and bytes, and the key by which hkeep files
its image (R330, R438). -/
structure Arena where
  ten : Nat
  idx : Nat
  lo : Nat
  bytes : Nat
  key : List Word := []
deriving DecidableEq, Repr

/-- The hub. -/
structure Hub where
  lc : Nat := 2
  min : Bool := false
  stage : Nat := 0
  fails : Nat := 0
  reason : Nat := 0
  stageSince : Nat := 0
  /-- the start has failed, and the next one has not begun (R448, R449) -/
  failed : Bool := false
  /-- compute cores released by stage 2 (R443, R444) -/
  released : Bool := false
  staged : Tab Word := [(0, 1)]
  mask : Tab Word := []
  modid : Word := 0
  links : Tab Word := []
  reach : Tab Word := []
  tenants : Tab Word := []
  /-- SHARE of the tenants as the last refill read it, where not 16 (R425) -/
  shares : Tab Nat := []
  /-- the same before the last refill, and the cycle of that refill: a port that refills in it counts its coins by them -/
  sharesPrev : Tab Nat := []
  sharesAt : Option Nat := none
  funcs : List Nat := []
  streams : Tab Stream := []
  irq : List (Nat × Nat) := []
  shoots : List Shoot := []
  launches : List Launch := []
  writes : List IntakeWrite := []
  images : List Image := []
  arenas : List Arena := []
  /-- the solo token: its holder and the requests in order (R127) -/
  token : Option Nat := none
  tokenQ : List Nat := []
  /-- device-initiated requests that have gone over each host link (R427) -/
  hostReqs : Tab Nat := []
  /-- telemetry: flit errors corrected, header errors (R413, R418) -/
  corrected : Nat := 0
  headerErrors : Nat := 0
  /-- what the last host read returned, none for Unsupported Request (R428) -/
  hostRead : Option Nat := none
deriving DecidableEq, Repr

/-! ### The module -/

/-- A store that a fetch need not see yet (R159): the bundle's address, its bytes before, the writer, when the writer has
fenced at MODULE. -/
structure CodeStore where
  addr : Nat
  old : List Byte
  core : Nat
  slot : Nat
  uid : Nat
  fenced : Option Nat
deriving DecidableEq, Repr

/-- A line that a thread's write waits for (R108): the number of the write, its origin, the line, and how many dies have not yet
answered its invalidation. While it stands no bank takes up the line. -/
structure Unacked where
  num : Nat
  org : Origin
  line : Nat
  left : Nat
deriving DecidableEq, Repr

/-- A bulk transfer that has been answered (R413): for whom, the line, whether it was not refused, whether a flit of it was poisoned
(R418). It serves the access that it was for. -/
structure Transfer where
  who : Nat
  line : Nat
  ok : Bool := true
  bad : Bool := false
deriving DecidableEq, Repr

/-- What the issue of a bundle has come to. -/
inductive Res where
  /-- the half has had its effect -/
  | done
  /-- the bundle raised a fault -/
  | fault (f : FaultInfo)
  /-- the thread waits and the bundle reissues -/
  | retry (w : Wait)
  /-- the bundle has had no effect yet and is issued again: the chunk before it commits first, or a request was refused -/
  | again
  /-- the thread has left its slot -/
  | left
deriving DecidableEq, Repr

/-- The bundle in issue: the thread, the registers as they stand before the bundle (R155), the next program counter. -/
structure Ctx where
  core : Nat := 0
  slot : Nat := 0
  pre : Thread := {}
  a : Word := 0
  v : Word := 0
  next : Word := 0
  /-- the bundle is a step: it belongs to no chunk (R123) -/
  step : Bool := false
  res : Res := .done
  /-- the chunk ends after this bundle (R122, R123) -/
  ends : Bool := false
  /-- a program counter entered by call, callh, jr or jalr (R159) -/
  enter : Bool := false
deriving DecidableEq, Repr

/-- What a step does next where the outside world chooses it (assumption log 4): a row of the opcode table, the issue of a core, or a step
of the hart of a core's porter. -/
inductive Turn where
  | row (i : Instr)
  | issue (c : Nat)
  | hart (c : Nat)
  /-- a message of module far comes in over peer link l, its flits age ring hops old (R408, R432; assumption log 63) -/
  | peerIn (l far age : Nat) (m : Msg)
  /-- a peer module accepts message m, of a batch n tokens (R231, R241, R348) -/
  | peerTakes (m n : Nat)
  /-- a peer module refuses message m: 1 for a full queue, 3 for the grant, any other number for the tenant (R226, R231, R241) -/
  | peerRefuses (m why : Nat)
  /-- the work that message m brought to a peer module has ended or come back (R45) -/
  | peerEnds (m : Nat)
  /-- bytes that a peer module's cpr pushes for a tenant to a pointer (R308) -/
  | peerPush (ten : Nat) (p : Word) (bytes : List Byte)
deriving DecidableEq, Repr

/-- The state of the module. -/
structure State where
  cycle : Nat := 0
  ctx : Ctx := {}
  /-- turns taken before the module's own schedule goes on (assumption log 4) -/
  agenda : List Turn := []
  /-- the cores that have issued in this cycle (R26) -/
  issued : List Nat := []
  /-- the number of the next thread, message, command or free value (assumption log 5) -/
  fresh : Nat := 1
  /-- every byte of the module's map (R362), of host memory and of the durable areas that differs from 0 (assumption log 1) -/
  mem : List Host.Cell := []
  /-- physical addresses of the full local words, rising (R99) -/
  full : List Nat := []
  /-- the lean entries that are not 0b00: physical accumulator address divided by 2 (R85) -/
  lean : Tab Nat := []
  /-- poisoned sectors, rising: physical address divided by 32 (R418, R451) -/
  poison : List Nat := []
  /-- words and sectors with a correctable upset not yet found, rising: physical address divided by 32 (R451) -/
  upsets : List Nat := []
  /-- stores that a fetch need not see yet, oldest first (R159) -/
  codeLog : List CodeStore := []
  threads : Tab Thread := []
  cores : Tab Core := []
  /-- the gangs in gang mode, rising (R43) -/
  gangs : List Nat := []
  /-- modes that gangs take from the next cycle, by the core that has issued gang, so in ascending POS (R253) -/
  gangsNext : Tab Bool := []
  /-- the vector registers of the threads of the gang that issues, by slot, as they stood at the start of the cycle (R44) -/
  gangV : Tab (Vector VReg 16) := []
  clusters : Tab Cluster := []
  dies : Tab Die := []
  stops : Tab Stop := []
  bufs : Tab Buf := []
  net : List Msg := []
  /-- commit requests at the arbiters, in order of arrival: arbiter and message (R125) -/
  arbs : List (Nat × Msg) := []
  /-- lines whose invalidation a write waits for (R108, R136) -/
  unacked : List Unacked := []
  /-- bulk transfers that have been answered and have not yet served their access (R413) -/
  fetched : List Transfer := []
  porters : Tab Porter := []
  hub : Hub := {}
deriving DecidableEq, Repr

/-- The module right after reset: before stage 0 (R443, R444), nothing bound, memory with nothing listed. -/
def State.reset : State := {}

end Sys2Proof.Machine
end

