-- ==== Sys2Proof/Machine/Base.lean ====
section
/-! DEFINITION. The named operations over the plain parts of the state: memory as one canonical list of cells, core ids and scopes,
cores, threads, clusters and dies, bindings and tenants, messages. -/

namespace Sys2Proof.Machine

/-! ### Memory: one canonical list of cells -/

/-- What an unlisted address reads as: 0 (R446 wipes every memory; assumption log 1). -/
def unlisted : Byte := 0

/-- The byte at an address. -/
def Mem.read : List Host.Cell → Nat → Byte
  | [], _ => unlisted
  | (b, v) :: r, a => if b = a then v else Mem.read r a

/-- A cell put at its place among cells of other addresses. -/
def Mem.insert : List Host.Cell → Nat → Byte → List Host.Cell
  | [], a, x => [(a, x)]
  | (b, v) :: r, a, x => if a < b then (a, x) :: (b, v) :: r else (b, v) :: Mem.insert r a x

/-- The memory with a byte written, the canonical form kept. -/
def Mem.write (m : List Host.Cell) (a : Nat) (x : Byte) : List Host.Cell :=
  let r := m.filter fun c => c.1 != a
  if x = unlisted then r else Mem.insert r a x

/-- The canonical form above a bound: addresses strictly rising, no entry equal to what an unlisted address reads as. -/
def Mem.wfFrom : Nat → List Host.Cell → Bool
  | _, [] => true
  | lo, (b, v) :: r => decide (lo ≤ b) && v != unlisted && Mem.wfFrom (b + 1) r

/-- The canonical form of memory. -/
def Mem.wf (m : List Host.Cell) : Bool := Mem.wfFrom 0 m

/-- n bytes from an address up. -/
def Mem.readN (m : List Host.Cell) (a : Nat) : Nat → List Byte
  | 0 => []
  | n + 1 => Mem.read m a :: Mem.readN m (a + 1) n

/-- The memory with bytes written from an address up. -/
def Mem.writeN : List Host.Cell → Nat → List Byte → List Host.Cell
  | m, _, [] => m
  | m, a, x :: r => Mem.writeN (Mem.write m a x) (a + 1) r

/-- The little-endian value of n bytes at an address (R4). -/
def State.memNat (s : State) (a n : Nat) : Nat := natOfBytes (Mem.readN s.mem a n)

/-- The 64-bit word at an address. -/
def State.mem64 (s : State) (a : Nat) : Word := BitVec.ofNat 64 (s.memNat a 8)

/-! ### Core ids and scopes -/

/-- The die, quadrant, ring pair, stop of a core (R11), each with the numbers above it. -/
def dieOf (c : Nat) : Nat := c / 4096
/-- The quadrant's number over the module. -/
def quadOf (c : Nat) : Nat := c / 1024
/-- The ring pair's number over the module. -/
def ringOf (c : Nat) : Nat := c / 512
/-- The cluster id (R12). -/
def clusterOf (c : Nat) : Nat := c / 16
/-- The gang id (R12). -/
def gangOf (c : Nat) : Nat := c / 4

/-- Core c2 lies in the instance of the scope around core c1 (R121); THREAD covers no other thread. -/
def inScope (scope c1 c2 : Nat) : Bool :=
  match scope with
  | 0 => false
  | 1 => c1 == c2
  | 2 => gangOf c1 == gangOf c2
  | 3 => clusterOf c1 == clusterOf c2
  | 4 => ringOf c1 == ringOf c2
  | 5 => quadOf c1 == quadOf c2
  | 6 => dieOf c1 == dieOf c2
  | _ => true

/-- The smallest scope whose instance contains both cores of the module (R134). -/
def scopeBetween (c1 c2 : Nat) : Nat :=
  if c1 = c2 then 1 else if gangOf c1 = gangOf c2 then 2 else if clusterOf c1 = clusterOf c2 then 3
  else if ringOf c1 = ringOf c2 then 4 else if quadOf c1 = quadOf c2 then 5 else if dieOf c1 = dieOf c2 then 6 else 7

/-- The arbiter of a scope instance around a core (R121, R125): a number that tells instances apart. -/
def arbiterOf (scope c : Nat) : Nat :=
  scope * 65536 +
    (match scope with
    | 1 => c
    | 2 => gangOf c
    | 3 => clusterOf c
    | 4 => ringOf c
    | 5 => quadOf c
    | 6 => dieOf c
    | _ => 0)

/-! ### Cores, threads, clusters, dies -/

/-- A core; one that the table does not list is at its reset value. -/
def State.core (s : State) (c : Nat) : Core := Tab.findD s.cores c {}
/-- The state with a core replaced. -/
def State.setCore (s : State) (c : Nat) (k : Core) : State := { s with cores := Tab.put s.cores c k }
/-- The state with a core changed. -/
def State.modCore (s : State) (c : Nat) (f : Core → Core) : State := s.setCore c (f (s.core c))

/-- The key of a slot. -/
def slotKey (c k : Nat) : Nat := 16 * c + k
/-- The thread bound to a slot. -/
def State.thr (s : State) (c k : Nat) : Option Thread := Tab.find s.threads (slotKey c k)
/-- The state with a thread in a slot. -/
def State.setThr (s : State) (c k : Nat) (t : Thread) : State := { s with threads := Tab.put s.threads (slotKey c k) t }
/-- The state with a slot free. -/
def State.delThr (s : State) (c k : Nat) : State := { s with threads := Tab.del s.threads (slotKey c k) }
/-- The state with a bound thread changed; a free slot stays free. -/
def State.modThr (s : State) (c k : Nat) (f : Thread → Thread) : State :=
  match s.thr c k with
  | none => s
  | some t => s.setThr c k (f t)

/-- The thread that issues. -/
def State.cur (s : State) : Thread := (s.thr s.ctx.core s.ctx.slot).getD {}
/-- The state with the issuing thread changed. -/
def State.modCur (s : State) (f : Thread → Thread) : State := s.modThr s.ctx.core s.ctx.slot f
/-- The state with the issuing core changed. -/
def State.modOwn (s : State) (f : Core → Core) : State := s.modCore s.ctx.core f
/-- The issuing core. -/
def State.own (s : State) : Core := s.core s.ctx.core

/-- A cluster. -/
def State.cluster (s : State) (c : Nat) : Cluster := Tab.findD s.clusters c {}
/-- The state with a cluster changed. -/
def State.modCluster (s : State) (c : Nat) (f : Cluster → Cluster) : State :=
  { s with clusters := Tab.put s.clusters c (f (s.cluster c)) }
/-- A die. -/
def State.die (s : State) (d : Nat) : Die := Tab.findD s.dies d {}
/-- The state with a die changed. -/
def State.modDie (s : State) (d : Nat) (f : Die → Die) : State := { s with dies := Tab.put s.dies d (f (s.die d)) }
/-- A ring stop (numbered by its cluster). -/
def State.stop (s : State) (p : Nat) : Stop := Tab.findD s.stops p {}
/-- The state with a ring stop changed. -/
def State.modStop (s : State) (p : Nat) (f : Stop → Stop) : State := { s with stops := Tab.put s.stops p (f (s.stop p)) }
/-- The state with the hub changed. -/
def State.modHub (s : State) (f : Hub → Hub) : State := { s with hub := f s.hub }
/-- The state with the issue result set. -/
def State.withRes (s : State) (r : Res) : State := { s with ctx := { s.ctx with res := r } }

/-- A new number. -/
def State.bump (s : State) : State := { s with fresh := s.fresh + 1 }

/-! ### Bindings (R23, R30), partitions and offices (R20, R420) -/

/-- Launch id of a binding word. -/
def bindLid (b : Word) : Nat := fld b 32 32
/-- Tenant of a binding word. -/
def bindTen (b : Word) : Nat := fld b 26 6
/-- HK of a binding word. -/
def bindHk (b : Word) : Bool := b.getLsbD 25
/-- Steal domain of a binding word. -/
def bindSd (b : Word) : Nat := fld b 21 4
/-- Class of a binding word. -/
def bindCls (b : Word) : Nat := fld b 19 2

/-- The core is an office core by the live mask (R20). -/
def State.isOffice (s : State) (c : Nat) : Bool :=
  (Tab.findD s.hub.mask (c / 64) (0 : Word)).getLsbD (c % 64)

/-- A request that the module makes of the host for a tenant goes over the host link that LINK of its TENANT word 14 names (R427). -/
def State.overLink (s : State) (t pa : Nat) : State :=
  if Config.hostBase ≤ pa ∧ pa < Config.durBase then
    s.modHub fun h =>
      let l := if (Tab.findD h.tenants (16 * t + 14) (0 : Word)).getLsbD 0 then 1 else 0
      { h with hostReqs := Tab.put h.hostReqs l (Tab.findD h.hostReqs l 0 + 1) }
  else s

/-- The core admits the tenant: its partition word has V and the tenant (R420), and it is no office core. -/
def State.admits (s : State) (c ten : Nat) : Bool :=
  let p := (s.core c).part
  p.getLsbD 6 && fld p 0 6 == ten && !s.isOffice c && decide (c < Config.cores)

/-- The own module's id (R431). -/
def State.modid (s : State) : Nat := fld s.hub.modid 0 6

/-- A tenant word, with the reset values of R366 (words 2, 12 and 13). -/
def State.tenantWord (s : State) (t w : Nat) : Word :=
  Tab.findD s.hub.tenants (16 * t + w)
    (match w with
    | 2 => 64
    | 12 => 16
    | 13 => 16
    | _ => 0)

/-- SHARE of a tenant as the last refill read it (R425). -/
def State.shareNow (s : State) (t : Nat) : Nat := Tab.findD s.hub.shares t 16

/-- base of a purse, by the SHAREs as given (R425). -/
def purseBase (share : Nat → Nat) (t : Nat) : Nat :=
  if share t = 0 then 0 else max 1 (1024 * share t / ((List.range 64).map share).foldl (· + ·) 0)

/-- The purse of a tenant at a core's port: its coins and ACT (R424, R426). -/
def State.purse (s : State) (c t : Nat) : Nat × Bool := Tab.findD (s.core c).purses t (purseBase s.shareNow t, false)

/-! ### Messages -/

/-- A message's destination is reached over the links of the source's own cluster (R14, R15, R17), not over a ring
(assumption log 10). -/
def sameCluster (a b : Nat) : Bool := decide (a < Config.cores) && decide (b < Config.cores) && clusterOf a == clusterOf b

/-- Flits of a message (R413): a context takes 3, every other message 1. -/
def Body.flits : Body → Nat
  | .context _ => 3
  | .routeIn _ => 3
  | .routedBack _ => 3
  | .rrow _ => 4
  | .callat _ _ _ => 2
  | _ => 1

/-- The flits of a message, with the bits that R408 and R424 read. -/
def Msg.toFlits (m : Msg) : Nat → List Flit
  | 0 => []
  | n + 1 => Msg.toFlits m n ++ [{ msg := m.id, idx := n, src := m.src, dst := m.dst, dmod := m.dmod, ten := m.ten }]

/-- A buffer as it is at first (R416): a peer link has 1,024 credits in either direction, a die port 256. -/
def Buf.start (q : Nat) : Buf := { credits := if (32 ≤ q ∧ q < 48) ∨ 64 ≤ q then 1024 else 256 }
/-- A buffer of the hub, of a die port or of a peer link. -/
def State.buf_ (s : State) (q : Nat) : Buf := Tab.findD s.bufs q (Buf.start q)
/-- The state with such a buffer changed. -/
def State.modBuf (s : State) (q : Nat) (f : Buf → Buf) : State := { s with bufs := Tab.put s.bufs q (f (s.buf_ q)) }

/-- The message crosses no fabric: within a cluster, or between the hub and a routing engine (assumption log 10). -/
def State.direct (s : State) (m : Msg) : Bool :=
  m.dmod == s.modid && (sameCluster m.src m.dst || (decide (Config.cores ≤ m.src) && decide (Config.cores ≤ m.dst)))

/-- The flits of a message wait at the inject port of its source's stop (R407, R413), or in the hub. -/
def State.toFabric (s : State) (m : Msg) : State :=
  let fs := m.toFlits m.body.flits
  if Config.cores ≤ m.src then s.modBuf 48 fun b => { b with q := b.q ++ fs }
  else s.modStop (clusterOf m.src) fun p => { p with inject := p.inject ++ fs }

/-- A message handed to the network: whole at once where it crosses no fabric, and otherwise in flits. -/
def State.send (s : State) (m : Msg) : State :=
  let m := { m with id := s.fresh, born := s.cycle }
  let s := s.bump
  if s.direct m then { s with net := s.net ++ [{ m with stage := .arrived }] }
  else { s with net := s.net ++ [{ m with stage := .flits, left := m.body.flits }] }.toFabric m

/-- A message goes on from another source to another destination, with its number: at once where it crosses no fabric, and otherwise
in flits (R107, R407). -/
def State.forward (s : State) (x : Msg) (src dst : Nat) (b : Body) : State :=
  let m := { x with src := src, dst := dst, body := b }
  if s.direct m then { s with net := s.net ++ [{ m with stage := .arrived }] }
  else { s with net := s.net ++ [{ m with stage := .flits, left := b.flits }] }.toFabric m

/-- A message by its number. -/
def State.msg (s : State) (i : Nat) : Option Msg := s.net.find? fun m => m.id == i
/-- The network without a message. -/
def State.drop (s : State) (i : Nat) : State := { s with net := s.net.filter fun m => m.id != i }
/-- The network with a message changed. -/
def State.modMsg (s : State) (i : Nat) (f : Msg → Msg) : State :=
  { s with net := s.net.map fun m => if m.id = i then f m else m }

/-- A whole message at its destination. -/
def State.arrived (s : State) (i : Nat) : Option Msg :=
  match s.msg i with
  | none => none
  | some m => if m.stage = .arrived then some m else none

/-- A refused message is offered again 64 cycles later (R226, R231, R241). -/
def State.again (s : State) (i : Nat) : State := s.modMsg i fun m => { m with stage := .wait (s.cycle + 64) }

end Sys2Proof.Machine
end

