-- ==== Sys2Proof/Machine/Homes.lean ====
section
/-! DEFINITION. Device memory's homes and caches: the home slice of a line (R105 to R107), the L2 slices' lines (R109 to R111, R422,
R423), the remote-data cache banks and the directories (R108). Data stands in memory and in the banks; a slice holds which lines are
present. -/

namespace Sys2Proof.Machine

/-! ### Homes (R105 to R107) -/

/-- A physical address that a fetch may read: device memory (R198). -/
def isDevice (pa : Nat) : Bool := decide (pa < 4 * Config.dieBytes)

/-- The home die of a device line; other memories have none. -/
def homeDie (pa : Nat) : Option Nat := if isDevice pa then some (pa / Config.dieBytes) else none

/-- Physical address of a die's system frame (R394). -/
def sysBase (d : Nat) : Nat := d * Config.dieBytes + Config.sysFrame
/-- Physical address of the frame attribute table entry of a frame. -/
def fatAddr (d f : Nat) : Nat := sysBase d + 8 * f
/-- Physical address of a home mask. -/
def maskAddr (d m : Nat) : Nat := sysBase d + 0xC0000 + 32 * m
/-- Physical address of word w of a tenant record. -/
def tenRec (d t w : Nat) : Nat := sysBase d + 0xC1000 + 64 * t + 8 * w
/-- Physical address of word w of a page request entry. -/
def pageReq (d e w : Nat) : Nat := sysBase d + 0xC2000 + 64 * e + 8 * w

/-- A frame's attribute entry (R395); the system frame's own entry reads as SYSTEM. -/
def State.fat (s : State) (d f : Nat) : Word :=
  if f = Config.frames - 1 then BitVec.ofNat 64 (3 * 2 ^ 34) else s.mem64 (fatAddr d f)
/-- STATE of an entry. -/
def fatState (w : Word) : Nat := fld w 34 2
/-- TEN of an entry. -/
def fatTen (w : Word) : Nat := fld w 27 6
/-- MSK of an entry. -/
def fatMsk (w : Word) : Nat := fld w 23 4
/-- HOM of an entry. -/
def fatHom (w : Word) : Bool := w.getLsbD 22
/-- NCORE of an entry, 12 bits of a core id on the frame's die. -/
def fatNcore (w : Word) : Nat := fld w 10 12

/-- The clusters of a die that a home mask marks, ascending (R105). -/
def State.maskClusters (s : State) (d m : Nat) : List Nat :=
  (List.range 256).filter fun k => (Mem.read s.mem (maskAddr d m + k / 8)).getLsbD (k % 8)

/-- The home slice of an address by HOM, NCORE and MSK on a die (R105); none where a HASHED frame's mask is empty. -/
def State.homeBy (s : State) (d : Nat) (hom : Bool) (ncore msk addr : Nat) : Option Nat :=
  if hom then
    let cl := s.maskClusters d msk
    let n := cl.length
    let x := addr / 64 % 32768
    if n = 0 then none else some (4096 * d + 16 * cl.getD (x % n) 0 + x / n % 16)
  else some (4096 * d + ncore)

/-- The home slice of a device address, by the frame's entry as given (R105, R107). -/
def State.homeOf (s : State) (attr : Word) (pa : Nat) : Option Nat :=
  s.homeBy (pa / Config.dieBytes) (fatHom attr) (fatNcore attr) (fatMsk attr) pa

/-- A device address whose frame is HASHED with an empty mask: every access to it is an access fault (R105). -/
def State.unhomed (s : State) (pa : Nat) : Bool :=
  isDevice pa && (s.homeOf (s.fat (pa / Config.dieBytes) (pa % Config.dieBytes / Config.frameBytes)) pa).isNone

/-- The lowest-numbered valid homing map entry of a core that matches an address (R106). -/
def Core.homingFor (k : Core) (va : Nat) : Option Word :=
  let hit := k.homing.find? fun (_, w) =>
    w.1.getLsbD 0 && decide (fld w.1 21 36 ≤ va / 2 ^ 21) && decide (va / 2 ^ 21 ≤ fld w.2 21 36)
  hit.map fun x => x.2.2

/-- The first slice of a request (R107): the home slice that a matching homing map entry of the own die computes, and otherwise
the own slice. Where an entry that is hashed with an empty mask names no slice, or one names the slice of a core of another tenant, which
walks for its own core's tenant only (R393), the own slice serves: DESIGN CHOICE (assumption log 70). -/
def State.firstSlice (s : State) (c va : Nat) : Nat :=
  match (s.core c).homingFor va with
  | none => c
  | some w =>
    if fld w 18 2 = dieOf c then
      let h := (s.homeBy (dieOf c) (w.getLsbD 20) (fld w 6 12) (fld w 2 4) va).getD c
      if fld (s.core h).part 0 7 = fld (s.core c).part 0 7 then h else c
    else c

/-! ### L2 slices -/

/-- The set of a line in a slice (R422): bits [11:6] XOR bits [17:12] of its address. -/
def l2Set (line : Nat) : Nat := (BitVec.ofNat 6 line ^^^ BitVec.ofNat 6 (line / 64)).toNat

/-- Lines of a tenant in a slice. -/
def Core.l2Count (k : Core) (t : Nat) : Nat := (k.l2.filter fun x => x.2.ten == t).length

/-- The least recently used of lines. -/
def oldestLine : Tab L2Line → Option Nat
  | [] => none
  | (a, l) :: r =>
    match oldestLine r with
    | none => some a
    | some b => if (Tab.findD r b {}).used < l.used then some b else some a

/-- The line to evict from a full set: the first non-empty group of R423, and in it the line used least recently. -/
def State.l2Victim (s : State) (c line : Nat) : Option Nat :=
  let k := s.core c
  let inSet := k.l2.filter fun x => l2Set x.1 == l2Set line
  if inSet.length < 16 then none
  else
    let beyond := fun (t : Nat) => decide (fld (s.tenantWord t 12) 0 11 < k.l2Count t)
    let grp := fun (kept above : Bool) => inSet.filter fun x => x.2.kept == kept && (beyond x.2.ten == above)
    match grp false true with
    | x :: r => oldestLine (x :: r)
    | [] =>
      match grp false false with
      | x :: r => oldestLine (x :: r)
      | [] =>
        match grp true true with
        | x :: r => oldestLine (x :: r)
        | [] => oldestLine (grp true false)

/-- The vault of a device address, by the cluster above it (R12, R103). -/
def vaultOf (pa : Nat) : Nat := pa / Config.dieBytes * 256 + pa % Config.dieBytes / Config.frameBytes % 256

/-- Sectors of a line that n bytes at an address touch, as bits (R110). -/
def sectorsOf (pa n : Nat) : Nat := (if pa % 64 < 32 then 1 else 0) + (if 32 < pa % 64 + n then 2 else 0)

/-- The sectors of 32 bytes that n bytes at an address touch, by number. -/
def sectorsIn (pa n : Nat) : List Nat := (List.range ((pa + n - 1) / 32 - pa / 32 + 1)).map (pa / 32 + ·)

/-- Sectors of a line that n bytes at an address cover whole. -/
def sectorsWhole (pa n : Nat) : Nat := (if pa % 64 = 0 ∧ 32 ≤ n then 1 else 0) + (if pa % 64 ≤ 32 ∧ 64 ≤ pa % 64 + n then 2 else 0)

/-- An access at slice c passes the ring stop above the line's vault (R19): a touched sector is absent, and no store of the whole sector
that allocates the line (R109, R110). -/
def State.vaultTrip (s : State) (c pa n hint : Nat) (wr : Bool) : Bool :=
  let have_ := match Tab.find (s.core c).l2 (pa / 64) with
    | some l => l.valid
    | none => 0
  let absent := BitVec.ofNat 2 (sectorsOf pa n) &&& ~~~BitVec.ofNat 2 have_
  let fetches := if wr ∧ (hint = 0 ∨ hint = 3) then absent &&& ~~~BitVec.ofNat 2 (sectorsWhole pa n) else absent
  vaultOf pa != clusterOf c && fetches != 0

/-- The dirty sectors of an evicted line go to its vault, over the rings where that lies under another cluster (R19, R110). -/
def State.writeBack (s : State) (c line : Nat) (l : L2Line) : State :=
  if l.dirty = 0 ∨ vaultOf (64 * line) = clusterOf c then s
  else s.send { id := 0, src := c, dst := 16 * vaultOf (64 * line), dmod := s.modid, ten := l.ten, body := .bulk 0 line true [] }

/-- An access of n bytes at its home slice: the line is used, or filled by its hint, sector by sector (R109, R110); a keep hint
marks it while fewer than 512 lines are kept (R111); a line that it evicts is written back. An access that does not allocate still fills
an absent sector of a line that is there: DESIGN CHOICE (assumption log 72). -/
def State.l2Touch (s : State) (c ten pa n hint : Nat) (wr : Bool) : State :=
  let line := pa / 64
  let k := s.core c
  let secs := sectorsOf pa n
  let keep := hint == 3 && decide ((k.l2.filter fun x => x.2.kept).length < 512)
  let upd := fun (l : L2Line) => { l with
    ten := ten, valid := (BitVec.ofNat 2 l.valid ||| BitVec.ofNat 2 secs).toNat,
    dirty := if wr then (BitVec.ofNat 2 l.dirty ||| BitVec.ofNat 2 secs).toNat else l.dirty,
    kept := l.kept || keep, used := s.fresh }
  match Tab.find k.l2 line with
  | some l => s.bump.setCore c { k with l2 := Tab.put k.l2 line (upd l) }
  | none =>
    if hint = 1 ∨ hint = 2 then s
    else
      match s.l2Victim c line with
      | some v => (s.bump.setCore c { k with l2 := Tab.put (Tab.del k.l2 v) line (upd {}) }).writeBack c v (Tab.findD k.l2 v {})
      | none => s.bump.setCore c { k with l2 := Tab.put k.l2 line (upd {}) }

/-! ### Remote-data cache banks (R108, R109) -/

/-- The key of a line in the bank of a core's quadrant. -/
def bankKey (c line : Nat) : Nat := 4 * line + quadOf c % 4

/-- A line in the remote-data cache bank that serves a slice (R107). -/
def State.bankLine (s : State) (c line : Nat) : Option BankLine := Tab.find (s.die (dieOf c)).bank (bankKey c line)

/-- The sectors of a bank's line that an access touches are there. -/
def BankLine.has (l : BankLine) (lo n : Nat) : Bool :=
  (decide (32 ≤ lo) || l.lo.isSome) && (decide (lo + n ≤ 32) || l.hi.isSome)

/-- The bytes that a bank holds of a line. -/
def BankLine.bytes (l : BankLine) (lo n : Nat) : List Byte :=
  (((l.lo.getD (List.replicate 32 0)) ++ (l.hi.getD (List.replicate 32 0))).drop lo).take n

/-- The least recently used of a bank's lines. -/
def oldestBank : Tab BankLine → Option Nat
  | [] => none
  | (a, l) :: r =>
    match oldestBank r with
    | none => some a
    | some b => if (Tab.findD r b {}).used < l.used then some b else some a

/-- Lines of a bank: 8 MiB in lines of 64 bytes (R3, R108). -/
def bankLines : Nat := 131072

/-- The line that the bank of quadrant q drops silently for a new one, once it is full (R108): an unkept one before a kept one, and of
these the one used least recently (assumption log 16). -/
def bankVictim (b : Tab BankLine) (q : Nat) : Option Nat :=
  let mine := b.filter fun x => x.1 % 4 == q
  if mine.length < bankLines then none
  else
    match oldestBank (mine.filter fun x => !x.2.kept) with
    | some k => some k
    | none => oldestBank mine

/-- A hit in a bank: the line is used, and marked kept by a keep hint (R109). -/
def State.bankUse (s : State) (c line hint : Nat) : State :=
  match s.bankLine c line with
  | none => s
  | some l => s.bump.modDie (dieOf c) fun q =>
      { q with bank := Tab.put q.bank (bankKey c line) { l with kept := l.kept || hint == 3, used := s.fresh } }

/-- The sectors of n bytes at a device address fill the bank that serves a slice, and the line's directory lists the die (R108). -/
def State.bankFill (s : State) (c pa n hint : Nat) : State :=
  let line := pa / 64
  let key := bankKey c line
  let lo := pa % 64
  let s' := s.bump.modDie (dieOf c) fun q =>
    let b := match Tab.find q.bank key, bankVictim q.bank (quadOf c % 4) with
      | none, some v => Tab.del q.bank v
      | _, _ => q.bank
    let l := Tab.findD q.bank key {}
    { q with bank := Tab.put b key { l with
        lo := if lo < 32 then some (Mem.readN s.mem (64 * line) 32) else l.lo,
        hi := if 32 < lo + n then some (Mem.readN s.mem (64 * line + 32) 32) else l.hi,
        kept := l.kept || hint == 3, used := s.fresh } }
  s'.modCore (4096 * (pa / Config.dieBytes)) fun k =>
    { k with dirs := Tab.put k.dirs line (insertNat (Tab.findD k.dirs line []) (dieOf c)) }

/-- The sector's bytes of a bank line, overwritten where present by bytes at an offset of the line. -/
def patchSector (sec : Option (List Byte)) (base off : Nat) (bytes : List Byte) : Option (List Byte) :=
  sec.map fun b => (List.range b.length).map fun i =>
    if off ≤ base + i ∧ base + i < off + bytes.length then bytes.getD (base + i - off) 0 else b.getD i 0

/-- A store's bytes in the copies that the banks of its writer's die hold of the line (R108; assumption log 67). -/
def State.bankStore (s : State) (d pa : Nat) (bytes : List Byte) : State :=
  if (s.die d).bank.any fun x => x.1 / 4 == pa / 64 then
    s.modDie d fun q => { q with bank := q.bank.map fun x =>
      if x.1 / 4 = pa / 64 then
        (x.1, { x.2 with lo := patchSector x.2.lo 0 (pa % 64) bytes, hi := patchSector x.2.hi 32 (pa % 64) bytes })
      else x }
  else s

/-- A line leaves the four banks of a die (R108). -/
def State.bankDrop (s : State) (d line : Nat) : State :=
  s.modDie d fun q => { q with bank := q.bank.filter fun x => x.1 / 4 != line }

/-- The lines that n bytes at an address touch leave the banks of every die (R108): another agent has written them. The directory may go on
listing the dies. -/
def State.dropCopies (s : State) (pa n : Nat) : State :=
  let hit := fun (x : Nat × BankLine) => decide (pa < 64 * (x.1 / 4) + 64) && decide (64 * (x.1 / 4) < pa + n)
  if s.dies.any fun d => d.2.bank.any hit then
    { s with dies := s.dies.map fun (d : Nat × Die) => (d.1, { d.2 with bank := d.2.bank.filter fun x => !hit x }) }
  else s

/-- The dies in a line's directory, kept at the first core of its home die (R108). -/
def State.dirOf (s : State) (line : Nat) : List Nat :=
  match homeDie (64 * line) with
  | none => []
  | some d => Tab.findD (s.core (4096 * d)).dirs line []

/-- Dies leave a line's directory. -/
def State.dirDrop (s : State) (line : Nat) (dies : List Nat) : State :=
  match homeDie (64 * line) with
  | none => s
  | some d => s.modCore (4096 * d) fun k =>
      { k with dirs := Tab.put k.dirs line ((Tab.findD k.dirs line []).filter fun x => !dies.contains x) }

/-- The dies whose copies a write of a line invalidates (R108): those that its directory lists but for the writer's own; with an
atomic that one as well. -/
def State.listed (s : State) (wdie : Option Nat) (atomic : Bool) (line : Nat) : List Nat :=
  (s.dirOf line).filter fun d => atomic || some d != wdie

/-- The treatment of an access of n bytes of device memory by a slice's agents (R107, R109, R110): at the home slice; for a line of
another die at the bank that serves the slice as well, which a load fills, unless a write waits for the line's invalidation (R108). -/
def State.devTouch (s : State) (c pa n hint : Nat) (wr : Bool) : State :=
  let e := s.fat (pa / Config.dieBytes) (pa % Config.dieBytes / Config.frameBytes)
  match s.homeOf e pa with
  | none => s
  | some h =>
    if pa / Config.dieBytes = dieOf c then s.l2Touch h (fatTen e) pa n hint wr
    else if wr then (s.bankUse c (pa / 64) hint).l2Touch h (fatTen e) pa n hint true
    else
      let hit := match s.bankLine c (pa / 64) with
        | some l => l.has (pa % 64) n
        | none => false
      if hit then s.bankUse c (pa / 64) hint
      else if hint = 2 ∨ s.unacked.any (fun u => u.line == pa / 64) then s.l2Touch h (fatTen e) pa n hint false
      else (s.l2Touch h (fatTen e) pa n hint false).bankFill c pa n hint

end Sys2Proof.Machine
end

