-- ==== Sys2Proof/Machine/Ops.lean ====
section
/-! DEFINITION. The named operations over the issuing thread's registers, messages, waits and records; chunks and their commit (R122
to R132); parking a thread on a fault, the one shared operation of every fault (R131, R156, R367 to R370, R459). -/

namespace Sys2Proof.Machine

/-! ### The issuing thread's registers (R155, R174) -/

/-- g[r] as it stands before the bundle; g0 reads 0. -/
def State.rg (s : State) (r : BitVec 4) : Word := if r = 0 then 0 else s.ctx.pre.g[r.toNat]
/-- g[r] written; a write to g0 is discarded. -/
def State.wg (s : State) (r : BitVec 4) (x : Word) : State :=
  if r = 0 then s else s.modCur fun t => { t with g := t.g.set r.toNat x }
/-- p[n] as it stands before the bundle; p0 reads 1. -/
def State.rp (s : State) (n : Nat) : Bool := n == 0 || s.ctx.pre.tsw.getLsbD n
/-- p[n] written, n below 8; a write to p0 is discarded. -/
def State.wp (s : State) (n : Nat) (b : Bool) : State :=
  if n = 0 then s else s.modCur fun t => { t with tsw := setFld t.tsw n 1 (if b then 1 else 0) }
/-- A vector register before the bundle. -/
def State.rv (s : State) (r : Nat) : VReg := s.ctx.pre.v[r % 16]'(Nat.mod_lt _ (by decide))
/-- A vector register written. -/
def State.wv (s : State) (r : Nat) (x : VReg) : State :=
  s.modCur fun t => { t with v := t.v.set (r % 16) x (Nat.mod_lt _ (by decide)) }
/-- A shape register before the bundle. -/
def State.rh (s : State) (r : Nat) : Shape := s.ctx.pre.h[r % 16]'(Nat.mod_lt _ (by decide))
/-- A shape register written. -/
def State.wh (s : State) (r : Nat) (x : Shape) : State :=
  s.modCur fun t => { t with h := t.h.set (r % 16) x (Nat.mod_lt _ (by decide)) }

/-- Flags ORed into tsw, coded NX UF OF DZ NV in bits 0 to 4, SUBST in 5, ASAT in 6 (R66, R169). -/
def State.orFlags (s : State) (fl : Nat) : State :=
  s.modCur fun t => { t with tsw := t.tsw ||| (BitVec.ofNat 64 (fl % 128) <<< 8) }

/-- The guard of a half (R157). -/
def State.guard (s : State) (pn : Bool) (pg : BitVec 3) : Bool := s.rp pg.toNat != pn

/-- A half: it has its effect when its guard is true, and changes nothing otherwise (R157). -/
def half (pn : Bool) (pg : BitVec 3) (s : State) (body : State → State) : Host.Outcome State Fault Refusal :=
  .next (if s.guard pn pg then body s else s)

/-- The next program counter set by a transfer: bits [63:57] zero (R198). -/
def State.goto (s : State) (t : Word) : State := { s with ctx := { s.ctx with next := t &&& (BitVec.ofNat 64 (2 ^ 57 - 1)) } }

/-- The thread status word as it is read (R169): p0, GNG, HSD and PCL composed. -/
def tswOf (s : State) (c : Nat) (t : Thread) : Word :=
  let base := t.tsw &&& (BitVec.ofNat 64 0x7FFFFE)
  let gng : Word := if s.gangs.contains (gangOf c) then 1 else 0
  (base ||| 1) ||| (gng <<< 23) ||| (BitVec.ofNat 64 t.hs.length <<< 24) ||| (BitVec.ofNat 64 (bindCls t.bind) <<< 30)

/-- The chunk scope of a thread (R122). -/
def Thread.csc (t : Thread) : Nat := fld t.tsw 19 4

/-- The start value of tsw (R31): AOT 1, CSC CLUSTER, the rest 0. -/
def tswStart : Word := BitVec.ofNat 64 (3 * 2 ^ 19 + 2 ^ 15)

/-- The issuing thread as the origin of an effect of this bundle. -/
def State.origin (s : State) : Origin :=
  let t := s.cur
  { core := s.ctx.core, slot := s.ctx.slot, uid := t.uid, pc := s.ctx.pre.pc, a := s.ctx.a, v := s.ctx.v, bind := t.bind,
    root := t.root, ftgt := t.ftgt, csc := s.ctx.pre.csc }

/-- The thread an origin names is still bound on its slot. -/
def State.bound (s : State) (o : Origin) : Option Thread :=
  match s.thr o.core o.slot with
  | none => none
  | some t => if t.uid = o.uid ∧ o.away = none then some t else none

/-! ### Waking and waiting (R27, R29, R254) -/

/-- The KIND of a wait (R254). -/
def Wait.kind : Wait → Nat
  | .take _ => 1
  | .bar _ _ => 2
  | .park _ => 3
  | .tags _ _ => 4
  | .fold _ => 5
  | .reply => 6
  | .walk => 6
  | .foot _ => 6
  | .queue _ => 7
  | .token => 8
  | .rcommit _ => 9
  | .port => 10
  | .commit => 6
  | .fence _ => 6
  | .solo => 6
  | .resume => 0

/-- The wait register's word 0 (R254) for a wait on an object of core c of module m. -/
def Wait.word0 (w : Wait) (m c : Nat) : Word :=
  let sq := match w with
    | .bar _ q => q
    | _ => 0
  let ix := match w with
    | .take i => i
    | .bar b _ => b
    | _ => 0
  BitVec.ofNat 64 (sq * 2 ^ 48 + m * 2 ^ 24 + c * 2 ^ 10 + ix * 16 + w.kind)

/-- The core that owns a local word; an overflow window's words belong to the core that asks (R383). -/
def ownerOf (pa c : Nat) : Nat :=
  if Config.localBase ≤ pa ∧ pa < Config.localBase + Config.cores * Config.localBytes then
    (pa - Config.localBase) / Config.localBytes else c

/-- The core that holds the object of a wait: the owner of a full/empty word, and otherwise the own core. -/
def Wait.owner (w : Wait) (c : Nat) : Nat :=
  match w with
  | .park word => ownerOf word c
  | _ => c

/-- A thread leaves the rotation (R29) and publishes its wait on an object of core own (R254); opnd is word 1. -/
def State.sleep (s : State) (c k : Nat) (w : Wait) (opnd : Word) (own : Nat := w.owner c) : State :=
  s.modThr c k fun t => { t with st := .waiting w false, w0 := w.word0 s.modid own, w1 := opnd, since := s.cycle }

/-- A stopped thread goes on (R26, R27, R371): it is runnable, with the cycle as its key, no earlier than 8 cycles after its last
issue; until then it is outside the rotation, and its event has come. -/
def Thread.reenter (t : Thread) (cycle : Nat) : Thread :=
  if t.ready ≤ cycle then { t with st := .runnable, key := cycle } else { t with st := .waiting .resume true }

/-- The event of a wait has come: the thread re-enters by ROTATION_REENTRY (R27). -/
def State.wake (s : State) (c k : Nat) : State :=
  s.modThr c k fun t =>
    match t.st with
    | .waiting w false => { t with st := .waiting w true }
    | _ => t

/-- The threads of a core whose wait satisfies a test are woken. -/
def State.wakeIf (s : State) (c : Nat) (p : Wait → Bool) : State :=
  (List.range 16).foldl (fun s k =>
    match s.thr c k with
    | some t =>
      match t.st with
      | .waiting w false => if p w then s.wake c k else s
      | _ => s
    | none => s) s

/-- The issuing thread waits and its bundle reissues: nothing else changes. -/
def State.retry (s : State) (w : Wait) (opnd : Word) (own : Nat := w.owner s.ctx.core) : State :=
  (s.sleep s.ctx.core s.ctx.slot w opnd own).withRes (.retry w)

/-! ### Records (R367 to R370) -/

/-- A record of a fault that an origin's effect met, with the fields of R369. -/
def recordOf (o : Origin) (f : FaultInfo) (orphan : Bool) (cycle : Nat) : Record :=
  { code := f.code, slot := o.slot, orphan := orphan, core := o.core, ten := bindTen o.bind, cls := bindCls o.bind,
    pc := o.pc, a := o.a, v := o.v, addr := f.addr, aux0 := f.aux0, aux1 := f.aux1, stamp := cycle, ftgt := o.ftgt }

/-- A record joins those that wait at its core (R370). -/
def State.raiseRecord (s : State) (c : Nat) (r : Record) : State :=
  s.modCore c fun k => { k with waiting := k.waiting ++ [r] }

/-- All 32 places for waiting records are taken, one by each record that a thread of the core is still to park with: the event that would
produce a record waits (R370). -/
def State.recordsFull (s : State) (c : Nat) : Bool :=
  decide (32 ≤ (s.threads.filter fun x => x.1 / 16 == c).foldl (fun n x => n + x.2.parkAt.length) (s.core c).waiting.length)

/-! ### Chunks -/

/-- The chunk that begins before a bundle (R122, R124). -/
def Chunk.open (t : Thread) : Chunk :=
  { scope := t.csc, budget := t.budget, count := 0, g := t.g, pc := t.pc, tsw := t.tsw, v := t.v, h := t.h, link := t.link }

/-- Lines of 64 bytes that an interval of physical addresses touches. -/
def linesOf (pa n : Nat) : List Nat := (List.range ((pa + n - 1) / 64 - pa / 64 + 1)).map (pa / 64 + ·)

/-- The speculative lines of a chunk, read or written (R123). -/
def Chunk.lines (c : Chunk) : List Nat := c.writes.foldl insertNat c.reads

/-- The logged stores of a bundle-sized piece of memory about to change (R159). -/
def codeStores (s : State) (o : Origin) (fenced : Option Nat) (pa n : Nat) : List CodeStore :=
  if isDevice pa ∧ n ≠ 0 then
    (List.range ((pa + n - 1) / 16 - pa / 16 + 1)).map fun i =>
      let a := 16 * (pa / 16 + i)
      { addr := a, old := Mem.readN s.mem a 16, core := o.core, slot := o.slot, uid := o.uid, fenced := fenced }
  else []

/-- Sectors wholly covered by a write are no longer poisoned. -/
def clearPoison (p : List Nat) (pa n : Nat) : List Nat :=
  p.filter fun x => !(decide (pa ≤ 32 * x) && decide (32 * x + 32 ≤ pa + n))

/-- A write of bytes within one line at its home or owner, by an agent on a die (none beyond the dies): memory takes the bytes. A write of
the hub, the host or a shelf fill, which no fence of theirs follows, counts as fenced at once (R159): DESIGN CHOICE (assumption log 85); a
porter's, of slot 16, waits for its fence. And
the banks of the writer's die update their copies (R108). The banks of every other die that the directory lists lose the line, with an
atomic those of the own die too: a thread's access and a commit have had them invalidated by messages before; a write of an engine,
the hub, a porter or the host takes its invalidations in its own step (DESIGN CHOICE, assumption log 67). A write to host memory goes over
its tenant's link (R427). -/
def State.performLine (s : State) (o : Origin) (wdie : Option Nat) (atomic : Bool) (pa : Nat) (bytes : List Byte) : State :=
  let line := pa / 64
  let s := s.overLink (bindTen o.bind) pa
  let now := o.uid = 0 ∧ (Config.cores ≤ o.core ∨ o.slot ≠ 16)
  let s := if now ∧ isDevice pa then s.bump else s
  let s := { s with
    codeLog := s.codeLog ++ codeStores s o (if now then some (s.fresh - 1) else none) pa bytes.length,
    mem := Mem.writeN s.mem pa bytes,
    poison := clearPoison s.poison pa bytes.length }
  if isDevice pa then
    let s := match wdie with
      | some d => if atomic then s else s.bankStore d pa bytes
      | none => s
    match s.listed wdie atomic line with
    | [] => s
    | dies => (dies.foldl (fun s d => s.bankDrop d line) s).dirDrop line dies
  else s

/-- The invalidations of a line in the banks of dies, which a write of a thread waits for (R108). -/
def State.invalidate (s : State) (o : Origin) (line : Nat) (dies : List Nat) : State :=
  let wr := s.fresh
  let home := 4096 * (64 * line / Config.dieBytes)
  let s := { s.bump with unacked := s.unacked ++ [{ num := wr, org := o, line := line, left := dies.length }] }
  dies.foldl (fun s d => s.send { id := 0, src := home, dst := 4096 * d, dmod := s.modid, org := o, body := .inval line d wr }) s

/-- A write of a thread waits until the dies that its line's directory lists have invalidated it (R108): they are asked once. -/
def State.clearFor (s : State) (o : Origin) (line : Nat) (dies : List Nat) : State :=
  if dies = [] ∨ s.unacked.any fun u => u.org.uid == o.uid && u.line == line && u.left != 0 then s
  else s.invalidate o line dies

/-- The invalidations of a thread's writes have served: the writes are performed, or given up. -/
def State.unlock (s : State) (uid : Nat) : State := { s with unacked := s.unacked.filter fun u => u.org.uid != uid }

/-- A write of bytes that may cross lines, one line at a time (R125, R129). -/
def State.perform (s : State) (o : Origin) (wdie : Option Nat) (pa : Nat) (bytes : List Byte) : State :=
  match bytes with
  | [] => s
  | _ =>
    (linesOf pa bytes.length).foldl (fun s l =>
      let lo := max pa (64 * l)
      let hi := min (pa + bytes.length) (64 * l + 64)
      s.performLine o wdie false lo ((bytes.drop (lo - pa)).take (hi - lo))) s

/-- Runs of consecutive cells of a store buffer, as address and bytes. -/
def runsOf : List Host.Cell → List (Nat × List Byte)
  | [] => []
  | (a, b) :: r =>
    match runsOf r with
    | (x, bs) :: q => if x = a + 1 ∧ x % 64 ≠ 0 then (a, b :: bs) :: q else (a, [b]) :: (x, bs) :: q
    | [] => [(a, [b])]

/-- The chunks that a notice for lines written by thread (c, uid) with a scope reaches: by scope (R126), and from any scope where
the chunk has performed an atomic on one of the lines (R220): key and number. -/
def State.noticed (s : State) (c uid scope : Nat) (lines : List Nat) : List (Nat × Nat) :=
  s.threads.filterMap fun (key, t) =>
    match t.chunk with
    | some ck =>
      if t.uid ≠ uid ∧ (inScope ck.scope (key / 16) c ∨ inScope scope c (key / 16) ∨ ck.atoms.any lines.contains) then some (key, t.uid)
      else none
    | none => none

/-- The notices of a commit or of a step's write are sent to those chunks (R126, R127). -/
def State.notify (s : State) (o : Origin) (scope : Nat) (lines : List Nat) : State :=
  match lines with
  | [] => s
  | _ => (s.noticed o.core o.uid scope lines).foldl (fun s (key, uid) =>
      s.send { id := 0, src := o.core, dst := key / 16, dmod := s.modid, ten := bindTen o.bind, org := o,
               body := .notice (key % 16) uid lines }) s

/-- A notice that would reach a solo chunk (R127): then the commit or the write waits until the token is released. -/
def State.soloBlocks (s : State) (c uid scope : Nat) (lines : List Nat) : Bool :=
  (s.noticed c uid scope lines).any fun (key, _) =>
    match Tab.find s.threads key with
    | some t => t.solo
    | none => false

/-- The target word's core, module and index (R225, R230). -/
def twCore (w : Word) : Nat := fld w 0 14
/-- The module of a target word. -/
def twMod (w : Word) : Nat := fld w 14 6
/-- IBX or IDX of a target word. -/
def twIdx (w : Word) : Nat := fld w 20 5

/-- The message of a released effect; commands and launches are no messages between cores (R130, R231). -/
def Effect.message (o : Origin) (e : Effect) : Option Msg :=
  let m : Msg := { id := 0, src := o.core, dst := 0, ten := bindTen o.bind, org := o, body := .tokenReq }
  match e with
  | .post t v opc => some { m with dst := twCore t, dmod := twMod t, body := .post (twIdx t) v opc t }
  | .reply l v => some { m with dst := l % 16384, dmod := l / 16384 % 64, body := .post (l / 1048576 % 32) v 0x83 (BitVec.ofNat 64 l) }
  | .callat t tk l => some { m with dst := twCore t, dmod := twMod t, body := .callat tk l t }
  | .send t a0 a1 a2 a3 => some { m with
      dst := twCore t, dmod := twMod t,
      body := .chan (twIdx t) { a0 := a0, a1 := a1, a2 := a2, a3 := a3, bind := o.bind, root := o.root } (fld t 25 3) t false }
  | .chctl t b => some { m with dst := twCore t, dmod := twMod t, body := .chctl (twIdx t) b t }
  | .fork tk => some { m with dst := o.core, body := .fork tk }
  | .launch p => some { m with dst := 16384, body := .launch p (bindTen o.bind) (bindCls o.bind) none }
  | .cmd _ => none

/-- A released effect (R130): its message goes out, a command may start, an mmar travels to its target (R297). A join's post whose target
word has a reserved bit set goes to the own core, which refuses it (R234). -/
def State.release (s : State) (h : Held) : State :=
  match h.eff with
  | .cmd i =>
    let s := s.modCore h.org.core fun k =>
      { k with cmds := k.cmds.map fun c => if c.id = i then { c with held := false } else c }
    match (s.core h.org.core).cmds.find? (fun c => c.id == i) with
    | some c =>
      match c.instr with
      | .mmar _ =>
        s.send {
          id := 0, src := h.org.core, dst := fld c.gs 0 14, dmod := s.modid, ten := bindTen h.org.bind, org := h.org,
          body := .mmar (bindTen h.org.bind) (BitVec.ofNat 64 (fld c.gs 16 32)) i }
      | _ => s
    | none => s
  | .fork tk =>
    if (s.core h.org.core).deque.length < 256 then
      s.modCore h.org.core fun k => { k with deque := k.deque ++ [tk] }
    else
      { s.bump with net := s.net ++ [{
          id := s.fresh, src := h.org.core, dst := h.org.core, dmod := s.modid, ten := bindTen h.org.bind,
          org := h.org, body := .fork tk, stage := .wait s.cycle, born := s.cycle }] }
  | .launch p => s.send { id := 0, src := 16384, dst := 16384, dmod := s.modid, ten := bindTen h.org.bind, org := h.org,
                          body := .launch p (bindTen h.org.bind) (bindCls h.org.bind) none }
  | e =>
    match e.message h.org with
    | some m =>
      match e with
      | .post t _ opc => s.send (if opc = 0x81 ∧ 2 ^ 25 ≤ t.toNat then { m with dst := h.org.core, dmod := s.modid } else m)
      | _ => s.send m
    | none => s

/-- An effect of the issuing bundle: held in the open chunk, or released at once where the bundle is a step (R130). -/
def State.effect (s : State) (e : Effect) : State :=
  let h : Held := { org := s.origin, eff := e }
  match s.cur.chunk with
  | some _ => s.modCur fun t => { t with chunk := t.chunk.map fun c => { c with held := c.held ++ [h] } }
  | none => s.release h

/-- The solo token goes back to the hub (R127). -/
def State.dropToken (s : State) (c k : Nat) : State :=
  match s.thr c k with
  | some t => if t.solo then (s.modThr c k fun t => { t with solo := false }).modHub fun h => { h with token := none } else s
  | none => s

/-- The lines of a chunk that banks of other dies than its core's still hold by their directories, each with these dies (R108). -/
def State.toClear (s : State) (c : Nat) (ck : Chunk) : List (Nat × List Nat) :=
  ((runsOf ck.buf).map fun r => r.1 / 64).filterMap fun l =>
    match s.listed (some (dieOf c)) false l with
    | [] => none
    | d => some (l, d)

/-- The places that a core's access of n bytes within a line visits, from its first slice on (R15, R19, R107): the home slice, and the ring
stop above the vault where the slice lacks a sector; the core that owns a local line; the hub for host memory and the depot. None where
all lie in the own cluster. -/
def State.lineRoute (s : State) (c first pa n hint : Nat) (wr : Bool) : List Nat :=
  let way :=
    if isDevice pa then
      let hit := !wr && pa / Config.dieBytes != dieOf first && (s.bankLine first (pa / 64)).any fun l => l.has (pa % 64) n
      if hit then [first]
      else
        let h := (s.homeOf (s.fat (pa / Config.dieBytes) (pa % Config.dieBytes / Config.frameBytes)) pa).getD first
        [first, h] ++ (if s.vaultTrip h pa n hint wr then [16 * vaultOf pa, h] else [])
    else if pa < Config.accBase then [(pa - Config.localBase) / Config.localBytes]
    else if pa < Config.hostBase then [(pa - Config.accBase) / Config.accBytes]
    else [16384]
  if way.all (sameCluster c) then [] else way.dropWhile (sameCluster c)

/-- A bulk transfer to ask for: its line, whether it writes, the stops it visits. -/
structure Ask where
  line : Nat
  wr : Bool
  stops : List Nat
  /-- the module it goes to, where it is not the own one -/
  dmod : Option Nat := none
deriving DecidableEq, Repr

/-- A bulk transfer has been answered. -/
def State.atHand (s : State) (who line : Nat) : Bool := s.fetched.any fun x => x.who == who && x.line == line
/-- A flit of a bulk transfer was poisoned (R418). -/
def State.spoilt (s : State) (who line : Nat) : Bool := s.fetched.any fun x => x.who == who && x.line == line && x.bad
/-- The transfers that were made for an access have served it. -/
def State.usedUp (s : State) (who : Nat) : State := { s with fetched := s.fetched.filter fun x => x.who != who }

/-- A bulk transfer is asked for, unless it has been (R413). -/
def State.askLine (s : State) (who : Nat) (o : Origin) (ten : Nat) (a : Ask) : State :=
  let under := s.net.any fun m =>
    match m.body with
    | .bulk w l _ _ => w == who && l == a.line
    | _ => false
  match a.stops with
  | [] => s
  | d :: r =>
    if under ∨ s.atHand who a.line then s
    else s.send { id := 0, src := o.core, dst := d, dmod := a.dmod.getD s.modid, ten := ten, org := o, body := .bulk who a.line a.wr r }

/-- The lines of a chunk that are performed beyond the own cluster, as the bulk writes that carry them there (R125, R413). -/
def State.farLines (s : State) (c uid : Nat) (ck : Chunk) : List Ask :=
  (runsOf ck.buf).filterMap fun r =>
    match s.lineRoute c c r.1 r.2.length (Tab.findD ck.hints (r.1 / 64) 0) true with
    | [] => none
    | w => if s.atHand uid (r.1 / 64) then none else some { line := r.1 / 64, wr := true, stops := w }

/-- The sectors that bytes within a line touch are poisoned, where the flit that carried them was (R418). -/
def State.spoil (s : State) (who pa n : Nat) : State :=
  if s.spoilt who (pa / 64) then { s with poison := (sectorsIn pa n).foldl insertNat s.poison } else s

/-- Bytes stored by a message are poisoned where one of its flits was (R418). -/
def State.spoilBy (s : State) (x : Msg) (pa n : Nat) : State :=
  if x.poisoned then { s with poison := (sectorsIn pa n).foldl insertNat s.poison } else s

/-- A commit notice is on its way to the chunk of a thread. -/
def State.noticePending (s : State) (o : Origin) : Bool := s.net.any fun m =>
  match m.body with
  | .notice k u _ => m.dst == o.core && k == o.slot && u == o.uid
  | _ => false

/-- A buffered line performed at its home with the hint of its last store (R109, R110, R125). -/
def State.chunkLine (s : State) (o : Origin) (ck : Chunk) (pa : Nat) (bytes : List Byte) : State :=
  ((if isDevice pa then s.devTouch o.core pa bytes.length (Tab.findD ck.hints (pa / 64) 0) true else s).performLine o
    (some (dieOf o.core)) false pa bytes).spoil o.uid pa bytes.length

/-- The first part of a commit of a thread's open chunk (R125): its lines are performed, the notice goes out, and the squash count
returns to 0 (R127). All lines are performed in this one step, in address order: DESIGN CHOICE (assumption log 68), R129 promises
observers outside the scope no order and allows them to see one line at a time. -/
def State.performChunk (s : State) (c k : Nat) (t : Thread) (ck : Chunk) : State :=
  let o : Origin := { core := c, slot := k, uid := t.uid, pc := t.pc, bind := t.bind, root := t.root, ftgt := t.ftgt }
  let s := (s.modThr c k fun t => { t with chunk := none, squash := 0, outgoing := some ck.held }).unlock t.uid
  let s := ((runsOf ck.buf).foldl (fun s (a, bs) => s.chunkLine o ck a bs) s).usedUp t.uid
  s.notify o ck.scope ck.writes

/-- A notice of a commit by the thread is on its way. -/
def State.notifying (s : State) (uid : Nat) : Bool := s.net.any fun m =>
  match m.body with
  | .notice _ _ _ => m.org.uid == uid
  | _ => false

/-- The last part of a commit, once its notices are delivered (R125): the held effects are released in order (R130), and a solo token
is released (R127). -/
def State.releaseHeld (s : State) (c k : Nat) : State :=
  match s.thr c k with
  | none => s
  | some t =>
    match t.outgoing with
    | none => s
    | some l =>
      if s.notifying t.uid then s
      else (l.foldl (fun s h => s.release h) (s.modThr c k fun t => { t with outgoing := none })).dropToken c k

/-- The commit of a thread's open chunk (R125): its lines are performed and the notice goes out; the held effects follow at once where
no chunk has to be told, and otherwise once it has been. -/
def State.commit (s : State) (c k : Nat) : State :=
  match s.thr c k with
  | none => s
  | some t =>
    match t.chunk with
    | none => s
    | some ck => (s.performChunk c k t ck).releaseHeld c k

/-- The commands held by a chunk leave with it: their tag bits are set again unless another command holds the tag (R126). -/
def Core.dropCmds (k : Core) (ids : List Nat) : Core :=
  let gone := k.cmds.filter fun c => ids.contains c.id
  let left := k.cmds.filter fun c => !ids.contains c.id
  { k with
    cmds := left,
    tags := gone.foldl (fun w c => if left.any fun d => d.tag == c.tag && d.from_.isNone then w else w ||| (1 <<< c.tag)) k.tags }

/-- The command numbers that a chunk holds. -/
def Chunk.cmdIds (c : Chunk) : List Nat := c.held.filterMap fun h =>
  match h.eff with
  | .cmd i => some i
  | _ => none

/-- A squash (R126): the buffer and the held effects are discarded, the checkpoint comes back (the sticky flags that
completed commands left are in it), an awaited reply is abandoned and a commit request withdrawn, and the count rises where the
squash counts (R132, R402). -/
def State.squashChunk (s : State) (c k : Nat) (counts : Bool) : State :=
  match s.thr c k with
  | none => s
  | some t =>
    match t.chunk with
    | none => s
    | some ck =>
      let s := s.modThr c k fun t => { t with
        g := ck.g, pc := ck.pc, tsw := ck.tsw, v := ck.v, h := ck.h, link := ck.link,
        chunk := none, acc := none, refusals := 0, squash := if counts then t.squash + 1 else t.squash,
        st := match t.st with
          | .waiting w false => .waiting w true
          | x => x }
      let asks := fun (m : Msg) =>
        m.org.core == c && m.org.slot == k && m.org.uid == t.uid && (match m.body with
          | .commitReq _ => true
          | _ => false)
      let s := { s.unlock t.uid with
        arbs := s.arbs.filter fun x => !asks x.2,
        net := s.net.filter fun m => !asks m }
      s.modCore c fun q => q.dropCmds ck.cmdIds

/-- Nothing holds up the commit of a chunk: no notice is on its way to it, its own would reach no solo chunk (R127), no bank of another
die holds one of its lines (R108), and none of them is performed under another cluster. -/
def State.commitFree (s : State) (c k uid : Nat) (ck : Chunk) : Bool :=
  !s.noticePending { core := c, slot := k, uid := uid } && !s.soloBlocks c uid ck.scope ck.writes && (s.toClear c ck).isEmpty &&
    (s.farLines c uid ck).isEmpty

/-- A thread leaves the rotation for the answer to its commit request, which goes to its arbiter, or to a queue of its own for a THREAD
chunk (R125). -/
def State.requestCommit (s : State) (c k : Nat) (t : Thread) (scope : Nat) : State :=
  let o : Origin := { core := c, slot := k, uid := t.uid, bind := t.bind }
  let s := s.sleep c k .commit 0
  { s.bump with net := s.net ++ [{
      id := s.fresh, src := c, dst := c, dmod := s.modid, ten := bindTen t.bind, org := o,
      body := .commitReq (if scope = 0 then 8 * 65536 + slotKey c k else arbiterOf scope c), stage := .arrived, born := s.cycle }] }

/-- The thread asks its arbiter to commit its chunk and leaves the rotation (R125). A THREAD chunk commits by itself, at once where
nothing holds it up, and waits then only for its notices; otherwise its commit stands in a queue of its own. -/
def State.askCommit (s : State) (c k : Nat) : State :=
  match s.thr c k with
  | none => s
  | some t =>
    match t.chunk with
    | none => s
    | some ck =>
      if ck.asked then s
      else if ck.scope = 0 ∧ s.commitFree c k t.uid ck then
        let u := s.commit c k
        if u.notifying t.uid then u.requestCommit c k t 0 else u
      else (s.modThr c k fun t => { t with chunk := some { ck with asked := true } }).requestCommit c k t ck.scope

/-! ### Taking a fault -/

/-- The thread of a slot parks on a fault (R156, R370): ST becomes 3, CODE is kept, its record joins those of its core. It leaves the
rotation and waits for no object: its wait register reads 0 (R254). A halt still awaited changes nothing (R371). -/
def State.park (s : State) (c k : Nat) (r : Record) : State :=
  let s := s.modThr c k fun t => { t with st := .parked, acc := none, refusals := 0, stepping := false, haltAt := false,
                                          w0 := 0, w1 := 0 }
  let s := s.modCore c fun q => { q with lastCode := Tab.put q.lastCode k r.code }
  s.raiseRecord c r

/-- The thread of a slot halts and leaves a record (R372): no park, so CODE of word 20 stays (R365). -/
def State.haltOn (s : State) (c k : Nat) (r : Record) : State :=
  (s.modThr c k fun t => { t with st := .halted, acc := none, refusals := 0, stepping := false, haltAt := false,
                                  w0 := 0, w1 := 0 }).raiseRecord c r

/-- A bundle stops its thread on a record. The bundle changes nothing (R156). Earlier bundles of the chunk commit first and the bundle is
issued again by itself (R131). While all places for records are taken, the thread does not stop yet (R370). -/
def State.faultBy (s : State) (f : FaultInfo) (stop : State → Record → State) : State :=
  let c := s.ctx.core
  let k := s.ctx.slot
  let earlier := match s.cur.chunk with
    | some ck => decide (0 < ck.count)
    | none => false
  if earlier then (s.askCommit c k).withRes .again
  else if s.recordsFull c then s.withRes .again
  else
    let r := recordOf s.origin f false s.cycle
    (stop (s.modThr c k fun t => { t with chunk := none }) r).withRes (.fault f)

/-- TAKING A FAULT: the one operation by which a bundle's fault takes effect: the thread parks, and the record goes to its fault target. A solo
thread keeps its commit token while it is parked: DESIGN CHOICE (assumption log 91), R127 releases it at a commit. -/
def State.takeFault (s : State) (f : FaultInfo) : State := s.faultBy f fun s r => s.park s.ctx.core s.ctx.slot r

/-- A fault by its code alone. -/
def State.faultCode (s : State) (code : Nat) : State := s.takeFault { code := code }

/-- RETURNING FROM A FAULT: system software's RESUME of a parked or halted thread (R371): the thread goes on at its program
counter, with the context as it stands, its refusal count restarted, no earlier than 8 cycles after its last issue (R27). -/
def State.resumeThread (s : State) (c k : Nat) : State :=
  s.modThr c k fun t => { t with refusals := 0, stepping := false, stopBar := none }.reenter s.cycle

/-- A thread parks at its next instruction boundary because an effect it released was refused, or a command it issued halted
(R459): a commit already asked for is answered first; otherwise an open chunk is squashed without counting; the record goes to
the thread's present fault target (R367). A thread that is parked or halted already, or gone, is not parked, and the record is raised all the same. -/
def State.parkLater (s : State) (o : Origin) (f : FaultInfo) : State :=
  match s.bound o with
  | none => if o.away = none then s.raiseRecord o.core (recordOf o f true s.cycle) else s
  | some t =>
    let r := recordOf { o with ftgt := t.ftgt } f false s.cycle
    match t.st with
    | .parked => s.raiseRecord o.core r
    | .halted => s.raiseRecord o.core r
    | _ =>
      s.modThr o.core o.slot fun t => { t with parkAt := t.parkAt ++ [r] }

end Sys2Proof.Machine
end

