-- ==== Sys2Proof/Machine/Operands.lean ====
section
/-! DEFINITION. Operand forms of slot A: extension, effective addresses (R162), branch targets (R164), argument quads (R232),
target words (R225, R230), pointer fields (R61, R96, R97). -/

namespace Sys2Proof.Machine

/-- The low w bits of x, sign-extended to 64 bits; all of x where w is 64 or more (R174). -/
def sextW (x : Word) (w : Nat) : Word :=
  if 64 ≤ w then x else (x <<< (64 - w)).sshiftRight (64 - w)

/-- The low w bits of x, zero-extended (R174). -/
def zextW (x : Word) (w : Nat) : Word :=
  if 64 ≤ w then x else x &&& BitVec.ofNat 64 (2 ^ w - 1)

/-- A pointer moved by a byte offset: bits [63:57] stay, a carry out of bit 56 is lost (R194). -/
def addPtr (p : Word) (d : Word) : Word :=
  (p &&& ~~~BitVec.ofNat 64 (2 ^ 57 - 1)) ||| ((p + d) &&& BitVec.ofNat 64 (2 ^ 57 - 1))

/-- The format field of a fat pointer (R96). -/
def ptrFmt (p : Word) : Nat := fld p 60 4
/-- The block field of a fat pointer. -/
def ptrBlk (p : Word) : Nat := fld p 57 3
/-- The address of a fat pointer. -/
def ptrAddr (p : Word) : Nat := fld p 0 57

/-- The access size of SZ (R162). -/
def sizeOf (sz : BitVec 3) : Nat :=
  match sz.toNat with
  | 0 => 1
  | 1 => 2
  | 2 => 4
  | 3 => 8
  | 4 => 16
  | _ => 64

/-- The AM effective address (R162) with an index scaled by a size. -/
def State.ea (s : State) (f : AM) (size : Nat) : Word :=
  let idx : Word := if f.rb = 0 then 0 else if f.x then s.rg f.rb * BitVec.ofNat 64 size else s.rg f.rb
  addPtr (s.rg f.ra) (idx + f.off.signExtend 64)

/-- The AM address of the atomics, where RB is the operand (R219). -/
def State.eaAmo (s : State) (f : AM) : Word := addPtr (s.rg f.ra) (f.off.signExtend 64)

/-- The target of a taken AB transfer (R164). -/
def State.target (s : State) (off : BitVec 32) : Word :=
  (s.ctx.pre.pc + (off.signExtend 64 <<< 4)) &&& BitVec.ofNat 64 (2 ^ 57 - 1)

/-- The address after the bundle. -/
def State.fallthrough (s : State) : Word := (s.ctx.pre.pc + 16) &&& BitVec.ofNat 64 (2 ^ 57 - 1)

/-- Register r + n of a quad (R232). -/
def State.quad (s : State) (r : BitVec 4) (n : Nat) : Word := s.rg (r + BitVec.ofNat 4 n)

/-- A core of the own module that the thread's tenant may name: no office core, in the partition (R98, R230). -/
def State.mayName (s : State) (c : Nat) : Bool := s.admits c (bindTen s.cur.bind)

/-- The check of a target word at issue (R230): bits above those used are zero; on the own module the core may be named. -/
def State.targetOk (s : State) (w : Word) (used : Nat) : Bool :=
  decide (w.toNat < 2 ^ used) && (twMod w != s.modid || s.mayName (twCore w))

/-- The bytes of the object of an aperture selector (R97, R101). -/
def apertureSize (sel : Nat) : Nat :=
  match sel with
  | 0xF0 => Config.localBytes
  | 0xF1 => Config.accBytes
  | 0xF2 => Config.localBytes
  | 0xF3 => Config.accBytes
  | 0xF4 => 0x200
  | _ => 0

/-- The space of an address for a core and a tenant, with the checks of R97 and R98 but for size and alignment: a selector outside
the table is the reserved-code fault, a non-zero unlisted bit or a core that may not be named the access fault. The own core's
local memory takes a 19-bit offset where the core's grant has an overflow window (R383). -/
def State.spaceOf (s : State) (c ten : Nat) (p : Word) : Except Nat Space :=
  let a := ptrAddr p
  let big := match (s.core c).grant with
    | some g => decide (Config.localBytes < g.lmem)
    | none => false
  if a < 2 ^ 56 then .ok (.virt a)
  else
    let rest := a % 2 ^ 48
    let core := rest / 2 ^ 18 % 2 ^ 14
    match a / 2 ^ 48 % 256 with
    | 0xF0 => if rest < (if big then 2 ^ 19 else 2 ^ 18) then .ok (.loc c rest) else .error 0x03
    | 0xF1 => if rest < 2 ^ 17 then .ok (.acc c rest) else .error 0x03
    | 0xF2 => if rest < 2 ^ 32 ∧ s.admits core ten then .ok (.loc core (rest % 2 ^ 18)) else .error 0x03
    | 0xF3 => if rest < 2 ^ 32 ∧ rest % 2 ^ 18 < 2 ^ 17 ∧ s.admits core ten then .ok (.acc core (rest % 2 ^ 18)) else .error 0x03
    | 0xF4 => if rest < 2 ^ 32 ∧ s.admits core ten then .ok (.window core (rest % 2 ^ 18)) else .error 0x03
    | 0xF8 => .ok (.durable rest)
    | _ => .error 0x01

/-- The space of an address for the issuing thread. -/
def State.space (s : State) (p : Word) : Except Nat Space := s.spaceOf s.ctx.core (bindTen s.cur.bind) p

/-- The bytes of the object a space lies in, for a core and a tenant: what an offset plus a size may not exceed (R98, R101,
R113, R383). -/
def State.objectSizeOf (s : State) (c ten : Nat) : Space → Nat
  | .virt _ => 2 ^ 56
  | .loc k _ =>
    if k = c then
      match (s.core c).grant with
      | some g => max Config.localBytes g.lmem
      | none => Config.localBytes
    else Config.localBytes
  | .acc _ _ => Config.accBytes
  | .window _ _ => 0x200
  | .durable _ => (s.tenantWord ten 9).toNat

/-- The bytes of an object for the issuing thread. -/
def State.objectSize (s : State) (sp : Space) : Nat := s.objectSizeOf s.ctx.core (bindTen s.cur.bind) sp

/-- The bytes of an object that a pointer reaches: only aperture 0xF0 reaches an overflow window (R97, R383). -/
def State.reachOf (s : State) (c ten : Nat) (p : Word) (sp : Space) : Nat :=
  if ptrAddr p / 2 ^ 48 = 0x1F2 then min Config.localBytes (s.objectSizeOf c ten sp) else s.objectSizeOf c ten sp

/-- The bytes of an object that a pointer of the issuing thread reaches. -/
def State.reach (s : State) (p : Word) (sp : Space) : Nat := s.reachOf s.ctx.core (bindTen s.cur.bind) p sp

/-- The offset within the object. -/
def Space.off : Space → Nat
  | .virt a => a
  | .loc _ o => o
  | .acc _ o => o
  | .window _ o => o
  | .durable o => o

end Sys2Proof.Machine
end

