-- ==== Sys2Proof/Machine/Flags.lean ====
section
/-! DEFINITION. Conditions (R163), predicates (R192), and the sticky flags as a set (R66). -/

namespace Sys2Proof.Machine

/-- The condition of a CC code (R163); codes 10 to 15 are refused at decode and never hold. -/
def condHolds (cc : Nat) (a b : Word) : Bool :=
  match cc with
  | 0 => a == b
  | 1 => a != b
  | 2 => a.slt b
  | 3 => b.sle a
  | 4 => a.ult b
  | 5 => b.ule a
  | 6 => a.sle b
  | 7 => b.slt a
  | 8 => a.ule b
  | 9 => b.ult a
  | _ => false

/-- NX, bit 0 of a flag set (tsw bit 8). -/
def flNX : Nat := 1
/-- UF, bit 1. -/
def flUF : Nat := 2
/-- OF, bit 2. -/
def flOF : Nat := 4
/-- DZ, bit 3. -/
def flDZ : Nat := 8
/-- NV, bit 4. -/
def flNV : Nat := 16
/-- SUBST, bit 5 (tsw bit 13). -/
def flSUBST : Nat := 32
/-- ASAT, bit 6 (tsw bit 14). -/
def flASAT : Nat := 64

/-- Two flag sets together. -/
def orFl (a b : Nat) : Nat := (BitVec.ofNat 7 a ||| BitVec.ofNat 7 b).toNat

/-- Leading zero bits of a word, 64 for 0 (R183). -/
def clzW (a : Word) : Nat := if a = 0 then 64 else 63 - log2N a.toNat

/-- Trailing zero bits of a word below a bound. -/
def ctzFrom (a : Word) : Nat → Nat → Nat
  | 0, i => i
  | n + 1, i => if a.getLsbD i then i else ctzFrom a n (i + 1)

/-- Trailing zero bits of a word, 64 for 0 (R183). -/
def ctzW (a : Word) : Nat := ctzFrom a 64 0

/-- The one bits of a word (R183). -/
def popcW (a : Word) : Nat := ((List.range 64).filter fun i => a.getLsbD i).length

end Sys2Proof.Machine
end

