-- ==== Sys2Proof/Machine/Numbers.lean ====
section
/-! DEFINITION. Numbers: formats and their values (R48, R51 to R53, R55 to R60), rounding (R63, R65), conversions (R69 to R75),
the operations of R54 on exact values. A value is exact; each operation rounds once, where its rule says so. -/

namespace Sys2Proof.Machine

/-- A value: a NaN (signalling or quiet), an infinity, or the number ±m × 2^e, where zero keeps its sign. -/
inductive Val where
  | nan (sig : Bool)
  | inf (neg : Bool)
  | num (neg : Bool) (m : Nat) (e : Int)
deriving DecidableEq, Repr

/-- +0. -/
def Val.zero : Val := .num false 0 0
/-- An integer as a value. -/
def Val.ofInt (i : Int) : Val := .num (decide (i < 0)) i.natAbs 0
/-- The value negated; a NaN stays. -/
def Val.neg : Val → Val
  | .nan q => .nan q
  | .inf n => .inf !n
  | .num n m e => .num (!n) m e
/-- The value's magnitude. -/
def Val.abs : Val → Val
  | .nan q => .nan q
  | .inf _ => .inf false
  | .num _ m e => .num false m e
/-- The value times 2^k, exact. -/
def Val.scale (v : Val) (k : Int) : Val :=
  match v with
  | .num n m e => .num n m (e + k)
  | x => x
/-- A NaN. -/
def Val.isNan : Val → Bool
  | .nan _ => true
  | _ => false
/-- A signalling NaN. -/
def Val.isSig : Val → Bool
  | .nan q => q
  | _ => false
/-- An infinity. -/
def Val.isInf : Val → Bool
  | .inf _ => true
  | _ => false
/-- ±0. -/
def Val.isZero : Val → Bool
  | .num _ m _ => m == 0
  | _ => false
/-- The sign bit; a NaN counts as positive. -/
def Val.isNeg : Val → Bool
  | .nan _ => false
  | .inf n => n
  | .num n _ _ => n
/-- The NV flag where a signalling NaN is among the operands (R54). -/
def sigNV (l : List Val) : Nat := if l.any Val.isSig then flNV else 0

/-! ### Formats -/

/-- A floating element format (R52): exponent bits, fraction bits, bias, and whether it has infinities. -/
structure FFmt where
  eb : Nat
  fb : Nat
  bias : Nat
  infs : Bool
deriving DecidableEq, Repr

/-- FP32. -/
def fFP32 : FFmt := { eb := 8, fb := 23, bias := 127, infs := true }
/-- BF16. -/
def fBF16 : FFmt := { eb := 8, fb := 7, bias := 127, infs := true }
/-- FP16. -/
def fFP16 : FFmt := { eb := 5, fb := 10, bias := 15, infs := true }
/-- FP8 E5M2. -/
def fE5M2 : FFmt := { eb := 5, fb := 2, bias := 15, infs := true }
/-- FP8 E4M3. -/
def fE4M3 : FFmt := { eb := 4, fb := 3, bias := 7, infs := false }
/-- E2M1, the element of MXFP4 (R59). -/
def fE2M1 : FFmt := { eb := 2, fb := 1, bias := 1, infs := false }

/-- The floating element format of a code; FP32 for a code that is none. -/
def ffmt (ty : Nat) : FFmt :=
  match ty with
  | 4 => fE4M3
  | 5 => fE5M2
  | 6 => fBF16
  | 7 => fFP16
  | _ => fFP32

/-- A code names a floating element format. -/
def isFloat (ty : Nat) : Bool := decide (4 ≤ ty) && decide (ty ≤ 8)
/-- A code names an integer element format. -/
def isInt (ty : Nat) : Bool := decide (1 ≤ ty) && decide (ty ≤ 3)
/-- A code names a block format. -/
def isBlock (ty : Nat) : Bool := decide (9 ≤ ty) && decide (ty ≤ 14)

/-- The element size in bytes of an element format or raw bytes (R48). -/
def elemBytes (ty : Nat) : Nat :=
  match ty with
  | 2 => 2
  | 6 => 2
  | 7 => 2
  | 3 => 4
  | 8 => 4
  | _ => 1

/-- The bits of a format without its sign. -/
def FFmt.width (f : FFmt) : Nat := f.eb + f.fb
/-- The pattern of +Inf, or of the first pattern above the largest finite value. -/
def FFmt.top (f : FFmt) : Nat :=
  if f.infs then (2 ^ f.eb - 1) * 2 ^ f.fb else if f.eb = 4 then 0x7F else 8
/-- The canonical quiet NaN (R53). -/
def FFmt.qnan (f : FFmt) : Nat := if f.infs then (2 ^ f.eb - 1) * 2 ^ f.fb + 2 ^ (f.fb - 1) else 0x7F
/-- The sign bit's weight. -/
def FFmt.sign (f : FFmt) : Nat := 2 ^ f.width

/-- The value of a pattern of a floating format (R52, R53). -/
def FFmt.value (f : FFmt) (x : Nat) : Val :=
  let n := decide (x / f.sign % 2 = 1)
  let b := x % f.sign
  let e := b / 2 ^ f.fb
  let m := b % 2 ^ f.fb
  if f.infs ∧ e = 2 ^ f.eb - 1 then
    (if m = 0 then .inf n else .nan (decide (m < 2 ^ (f.fb - 1))))
  else if !f.infs ∧ f.eb = 4 ∧ b = 0x7F then .nan false
  else if e = 0 then .num n m (1 - (f.bias : Int) - (f.fb : Int))
  else .num n (m + 2 ^ f.fb) ((e : Int) - (f.bias : Int) - (f.fb : Int))

/-- The value of an element of type TY with its U bit (R51 to R53). -/
def elemVal (ty : Nat) (u : Bool) (x : Nat) : Val :=
  if isFloat ty then (ffmt ty).value x
  else
    let w := 8 * elemBytes ty
    let x := x % 2 ^ w
    if u ∨ x < 2 ^ (w - 1) then Val.ofInt x else Val.ofInt ((x : Int) - (2 ^ w : Nat))

/-! ### Rounding (R63) -/

/-- The magnitude m × 2^sh rounded to an integer by a mode, for a value of a sign: the integer, and whether it is inexact. -/
def roundMag (rm : Nat) (neg : Bool) (m : Nat) (sh : Int) : Nat × Bool :=
  if 0 ≤ sh then (m * 2 ^ sh.toNat, false)
  else
    let d := (-sh).toNat
    let far := decide (log2N m + 2 < d)
    let q := if far then 0 else m / 2 ^ d
    let r := if far then (if m = 0 then 0 else 1) else m % 2 ^ d
    let half := if far then 2 else 2 ^ (d - 1)
    if r = 0 then (q, false)
    else
      let up := match rm with
        | 0 => decide (half < r) || (r == half && q % 2 == 1)
        | 1 => false
        | 2 => neg
        | 3 => !neg
        | _ => decide (half ≤ r)
      (if up then q + 1 else q, true)

/-- A magnitude above a format's largest finite value, by the mode (R65), for a format with infinities. -/
def FFmt.overflow (f : FFmt) (rm : Nat) (neg : Bool) : Nat :=
  let up := match rm with
    | 1 => false
    | 2 => neg
    | 3 => !neg
    | _ => true
  if up then f.top else f.top - 1

/-- The value's leading bit is at 2^k. -/
def leadOf (m : Nat) (e : Int) : Int := (log2N m : Int) + e

/-- The nonzero magnitude m × 2^e, rounded as if the exponent were unbounded, lies below the smallest normal (R66, UF). -/
def FFmt.tiny (f : FFmt) (rm : Nat) (neg : Bool) (m : Nat) (e : Int) : Bool :=
  let k := leadOf m e
  let emin : Int := 1 - (f.bias : Int)
  if emin ≤ k then false
  else if k < emin - 1 then true
  else
    let (n, _) := roundMag rm neg m (e - (k - (f.fb : Int)))
    decide (n < 2 ^ (f.fb + 1))

/-- The pattern without sign of a nonzero magnitude rounded to a format with an unbounded upper exponent, and inexactness. -/
def FFmt.round (f : FFmt) (rm : Nat) (neg : Bool) (m : Nat) (e : Int) : Nat × Bool :=
  let qmin : Int := 1 - (f.bias : Int) - (f.fb : Int)
  let q := max (leadOf m e - (f.fb : Int)) qmin
  let (n, x) := roundMag rm neg m (e - q)
  ((q - qmin).toNat * 2 ^ f.fb + n, x)

/-- The magnitude 464, half way from the largest E4M3 value to the next point of its grid, counts as beyond the largest under RNE (R70;
assumption log 61). -/
def FFmt.halfTop (f : FFmt) (rm m : Nat) (e : Int) : Bool :=
  f.eb == 4 && rm == 0 && decide (m * 2 ^ e.toNat = 464 * 2 ^ (-e).toNat)

/-- A value delivered in a floating format (R54, R65, R69, R70): the pattern and the flags. -/
def FFmt.deliver (f : FFmt) (rm : Nat) (sat : Bool) (v : Val) : Nat × Nat :=
  let sg := fun (n : Bool) (b : Nat) => if n then b + f.sign else b
  match v with
  | .nan q => (f.qnan, if q then flNV else 0)
  | .inf n =>
    if sat then (sg n (f.top - 1), flNX)
    else if f.infs then (sg n f.top, 0)
    else (f.qnan, flNV)
  | .num n m e =>
    if m = 0 then (sg n 0, 0)
    else
      let (b, x) := f.round rm n m e
      if f.top ≤ b ∨ f.halfTop rm m e then
        if sat then (sg n (f.top - 1), orFl flOF flNX)
        else if f.infs then (sg n (f.overflow rm n), orFl flOF flNX)
        else (f.qnan, orFl flOF flNX)
      else (sg n b, orFl (if x then flNX else 0) (if x && f.tiny rm n m e then flUF else 0))

/-- The exact integer of a value rounded by a mode, with inexactness; 0 for a NaN or an infinity. -/
def Val.toInt (rm : Nat) : Val → Int × Bool
  | .num n m e =>
    let (q, x) := roundMag rm n m e
    (if n then -(q : Int) else (q : Int), x)
  | _ => (0, false)

/-- The smallest value of an integer type. -/
def intMin (ty : Nat) (u : Bool) : Int := if u then 0 else -((2 ^ (8 * elemBytes ty - 1) : Nat) : Int)
/-- The largest value of an integer type. -/
def intMax (ty : Nat) (u : Bool) : Int :=
  if u then ((2 ^ (8 * elemBytes ty) : Nat) : Int) - 1 else ((2 ^ (8 * elemBytes ty - 1) : Nat) : Int) - 1
/-- The pattern of an integer modulo the width (R51). -/
def intBits (ty : Nat) (i : Int) : Nat := (i % ((2 ^ (8 * elemBytes ty) : Nat) : Int)).toNat
/-- An integer clamped to a type. -/
def clampInt (ty : Nat) (u : Bool) (i : Int) : Int := max (intMin ty u) (min (intMax ty u) i)

/-- The integer of a pattern of an integer type. -/
def intOf (ty : Nat) (u : Bool) (x : Nat) : Int :=
  match elemVal ty u x with
  | .num n m _ => if n then -(m : Int) else (m : Int)
  | _ => 0

/-- A floating value converted to an integer type (R71). -/
def toIntFmt (ty : Nat) (u : Bool) (rm : Nat) (v : Val) : Nat × Nat :=
  match v with
  | .nan _ => (0, flNV)
  | .inf n => (intBits ty (if n then intMin ty u else intMax ty u), flNV)
  | .num n m e =>
    let big := m ≠ 0 ∧ 40 < leadOf m e
    let (i, x) := if big then (if n then intMin ty u - 1 else intMax ty u + 1, true) else (Val.num n m e).toInt rm
    if i < intMin ty u then (intBits ty (intMin ty u), flNV)
    else if intMax ty u < i then (intBits ty (intMax ty u), flNV)
    else (intBits ty i, if x then flNX else 0)

/-- The clamps of DCL 2 and 3 on a floating pattern (R260). -/
def FFmt.clamp (f : FFmt) (dcl : Nat) (x : Nat) : Nat :=
  match f.value x with
  | .nan _ => x
  | v =>
    if dcl = 2 ∨ dcl = 3 then
      if v.isNeg then 0
      else if dcl = 3 ∧ f.bias * 2 ^ f.fb < x then f.bias * 2 ^ f.fb
      else x
    else x

/-- A result formed by R259 after the operation: DSC, rounding, saturation, clamp. -/
def formResult (ty : Nat) (u : Bool) (rm dcl : Nat) (dsc : Int) (x : Val) : Nat × Nat :=
  let x := x.scale dsc
  if isFloat ty then
    let (r, fl) := (ffmt ty).deliver rm (dcl == 1) x
    ((ffmt ty).clamp dcl r, fl)
  else
    let i := (x.toInt rm).1
    let r := if dcl = 1 then clampInt ty u i else intOf ty u (intBits ty i)
    (intBits ty (if dcl = 2 ∧ r < 0 then 0 else r), 0)

/-! ### Operations on exact values (R54) -/

/-- The signed integer of a number over a common exponent. -/
def Val.over (v : Val) (e0 : Int) : Int :=
  match v with
  | .num n m e =>
    let x : Int := ((m * 2 ^ (e - e0).toNat : Nat) : Int)
    if n then -x else x
  | _ => 0

/-- The exponent of a number. -/
def Val.expo : Val → Int
  | .num _ _ e => e
  | _ => 0

/-- The exact sum of two numbers; a zero sum of unlike signs is +0, or −0 when rounding toward −∞ (R54, IEEE 754-2019). -/
def sumNum (rm : Nat) (a b : Val) : Val :=
  if a.isZero && b.isZero then
    if a.isNeg == b.isNeg then a else .num (rm == 2) 0 0
  else if a.isZero then b
  else if b.isZero then a
  else
    let e0 := min a.expo b.expo
    let i := a.over e0 + b.over e0
    if i = 0 then .num (rm == 2) 0 0 else .num (decide (i < 0)) i.natAbs e0

/-- a + b, exact, with the invalid cases. -/
def addVal (rm : Nat) (a b : Val) : Val × Nat :=
  if a.isNan || b.isNan then (.nan false, sigNV [a, b])
  else
    match a, b with
    | .inf n, .inf m => if n == m then (.inf n, 0) else (.nan false, flNV)
    | .inf n, _ => (.inf n, 0)
    | _, .inf n => (.inf n, 0)
    | _, _ => (sumNum rm a b, 0)

/-- a × b, exact, with the invalid cases. -/
def mulVal (a b : Val) : Val × Nat :=
  if a.isNan || b.isNan then (.nan false, sigNV [a, b])
  else
    let n := a.isNeg != b.isNeg
    if (a.isInf && b.isZero) || (a.isZero && b.isInf) then (.nan false, flNV)
    else if a.isInf || b.isInf then (.inf n, 0)
    else
      match a, b with
      | .num _ x e, .num _ y f => (.num n (x * y) (e + f), 0)
      | _, _ => (.nan false, 0)

/-- a × b + c, exact (R54). -/
def fmaVal (rm : Nat) (a b c : Val) : Val × Nat :=
  let (p, f1) := mulVal a b
  let (r, f2) := addVal rm p c
  (r, orFl f1 f2)

/-- a lies below b, for two values that are no NaN; −0 equals +0. -/
def ltVal (a b : Val) : Bool :=
  match a, b with
  | .nan _, _ => false
  | _, .nan _ => false
  | .inf n, .inf m => n && !m
  | .inf n, _ => n
  | _, .inf m => !m
  | _, _ =>
    let e0 := min a.expo b.expo
    decide (a.over e0 < b.over e0)

/-- a equals b as values. -/
def eqVal (a b : Val) : Bool := !a.isNan && !b.isNan && !ltVal a b && !ltVal b a

/-- minimumNumber, or maximumNumber (R54): −0 orders below +0. -/
def pickVal (mx : Bool) (a b : Val) : Val × Nat :=
  let fl := sigNV [a, b]
  if a.isNan && b.isNan then (.nan false, fl)
  else if a.isNan then (b, fl)
  else if b.isNan then (a, fl)
  else
    let less := ltVal a b || (a.isZero && b.isZero && a.isNeg && !b.isNeg)
    (if less != mx then a else b, fl)

/-! ### Roots and quotients -/

/-- The floor of the square root of n below 2^(2k), bit by bit. -/
def sqrtBits (n : Nat) : Nat → Nat → Nat
  | 0, r => r
  | k + 1, r => if (r + 2 ^ k) * (r + 2 ^ k) ≤ n then sqrtBits n k (r + 2 ^ k) else sqrtBits n k r

/-- The floor of the square root. -/
def isqrt (n : Nat) : Nat := sqrtBits n (log2N n / 2 + 1) 0

/-- The square root of a positive number to 2^-64 relative and better, the last bit sticky: rounding it gives the rounding of the
exact root. -/
def sqrtNum (m : Nat) (e : Int) : Val :=
  let odd := e % 2 != 0
  let m := if odd then 2 * m else m
  let e := if odd then e - 1 else e
  let big := m * 2 ^ 160
  let r := isqrt big
  .num false (2 * r + (if r * r = big then 0 else 1)) ((e - 160) / 2 - 1)

/-- The quotient of positive integers to 2^-96 and better, the last bit sticky. -/
def quoNum (a b : Nat) : Val :=
  let k := log2N b + 100
  let q := a * 2 ^ k / b
  .num false (2 * q + (if q * b = a * 2 ^ k then 0 else 1)) (-(k : Int) - 1)

/-! ### Block formats -/

/-- Magnitude bits of a K format; K3 in the device is widened to K4 (R62). -/
def kBits (ty : Nat) : Nat :=
  match ty with
  | 14 => 1
  | 9 => 2
  | 10 => 4
  | _ => 7

/-- Elements of a block as stored: 16 for the K family, 32 for MX. -/
def blockLen (ty : Nat) : Nat := if ty = 12 ∨ ty = 13 then 32 else 16

/-- Bits [i : i + w] of a byte string. -/
def bitsAt (bs : List Byte) (lo w : Nat) : Nat := natOfBytes bs / 2 ^ lo % 2 ^ w

/-- The values of one stored block (R57, R58, R60). -/
def decodeBlock (ty : Nat) (bs : List Byte) : List Val :=
  let E := (bs.getD 0 0).toNat
  if ty = 12 then
    let area := natOfBytes (bs.drop 1)
    (List.range 32).map fun i =>
      if E = 255 then .nan false else (fE2M1.value (area / 2 ^ (4 * i) % 16)).scale ((E : Int) - 127)
  else if ty = 13 then
    (List.range 32).map fun i =>
      if E = 255 then .nan false else (fE4M3.value (bs.getD (i + 1) 0).toNat).scale ((E : Int) - 127)
  else
    let m := kBits ty
    let mu := (bs.getD 1 0).toNat
    let area := natOfBytes (bs.drop 2)
    (List.range 16).map fun i =>
      if E = 255 then .nan false
      else
        let x := area / 2 ^ ((m + 1) * i) % 2 ^ (m + 1)
        let M := x % 2 ^ m
        .num (decide (M ≠ 0) && decide (2 ^ m ≤ x)) M ((E : Int) - 127 - ((mu / 2 ^ (i / 2) % 2 : Nat) : Int) - ((m : Int) - 1))

/-- The largest magnitude of numbers, as a value. -/
def amaxOf (vs : List Val) : Val :=
  vs.foldl (fun a v => if v.isNan || v.isInf then a else if ltVal a v.abs then v.abs else a) .zero

/-- floor(log2) of a positive number. -/
def Val.lead : Val → Int
  | .num _ m e => leadOf m e
  | _ => 0

/-- q(x, 2^s) of R73: x × 2^(m − 1 − s) rounded to a signed integer; far larger than every field where x is. -/
def kQuot (rm m : Nat) (v : Val) (s : Int) : Int × Bool :=
  let y := v.scale ((m : Int) - 1 - s)
  if !y.isZero && decide (20 < y.lead) then (if y.isNeg then -(2 ^ 20) else 2 ^ 20, false) else y.toInt rm

/-- The micro-exponents of a block at a shared exponent (R73). -/
def kMus (rm m : Nat) (vs : List Val) (E : Int) : List Nat :=
  (List.range 8).map fun j =>
    let fits := fun (v : Val) => decide ((kQuot rm m v (E - 128)).1.natAbs ≤ 2 ^ m - 1)
    if fits (vs.getD (2 * j) .zero) && fits (vs.getD (2 * j + 1) .zero) then 1 else 0

/-- The shared exponent after the repeat of R73. -/
def kRaise (rm m : Nat) (vs : List Val) : Nat → Int → Int
  | 0, E => E
  | n + 1, E =>
    let mus := kMus rm m vs E
    let tops := (List.range 16).any fun i =>
      mus.getD (i / 2) 0 == 0 && decide (2 ^ m - 1 < (kQuot rm m (vs.getD i .zero) (E - 127)).1.natAbs)
    if tops && decide (E < 254) then kRaise rm m vs n (E + 1) else E

/-- A block of the K family from 16 values (R73): its bytes and the flags; ty is K4, K6 or K9. -/
def encodeK (ty rm : Nat) (sat : Bool) (vs : List Val) : List Byte × Nat :=
  let m := kBits ty
  let area := 2 * (m + 1)
  let maxc : Nat := 2 ^ m - 1
  let block := fun (E mu a : Nat) => BitVec.ofNat 8 E :: BitVec.ofNat 8 mu :: bytesOfNat area a
  if vs.any Val.isNan || (vs.any Val.isInf && !sat) then
    (block 255 0 0, if vs.any Val.isInf || vs.any Val.isSig then flNV else 0)
  else
    let fl0 := if vs.any Val.isInf then flNX else 0
    let vs := vs.map fun v =>
      match v with
      | .inf n => Val.num n (2 ^ 24 - 1) 104
      | x => x
    let am := amaxOf vs
    if am.isZero then (block 0 0 0, fl0)
    else
      let E := kRaise rm m vs 4 (max 0 (min 254 (am.lead + 127)))
      let mus := kMus rm m vs E
      let one := fun (i : Nat) =>
        let v := vs.getD i .zero
        let (n, x) := kQuot rm m v (E - 127 - ((mus.getD (i / 2) 0 : Nat) : Int))
        let big := decide (maxc < n.natAbs)
        let M := if big then maxc else n.natAbs
        let fl := orFl (if big then orFl flOF flNX else 0)
          (orFl (if x then flNX else 0) (if n = 0 && !v.isZero then flUF else 0))
        (M + (if n < 0 then 2 ^ m else 0), fl)
      let es := (List.range 16).map one
      let a := es.foldr (fun x acc => x.1 + 2 ^ (m + 1) * acc) 0
      let mu := mus.foldr (fun b acc => b + 2 * acc) 0
      (block E.toNat mu a, es.foldl (fun f x => orFl f x.2) fl0)

/-- An MX block from 32 values (R74). -/
def encodeMX (ty rm : Nat) (vs : List Val) : List Byte × Nat :=
  let f := if ty = 12 then fE2M1 else fE4M3
  let pack := fun (X : Nat) (es : List Nat) =>
    BitVec.ofNat 8 X :: (if ty = 12 then bytesOfNat 16 (es.foldr (fun x a => x + 16 * a) 0) else es.map (BitVec.ofNat 8))
  let bad := fun (v : Val) => v.isNan || v.isInf
  if ty = 12 ∧ vs.any bad then
    (pack 255 (List.replicate 32 0), if vs.any Val.isInf || vs.any Val.isSig then flNV else 0)
  else
    let am := amaxOf vs
    let X : Int := if am.isZero then 0 else max 0 (min 254 (am.lead - (if ty = 12 then 2 else 8) + 127))
    let one := fun (v : Val) =>
      if bad v then (0x7F, if v.isInf || v.isSig then flNV else 0)
      else
        let y := v.scale (127 - X)
        match y with
        | .num n m e =>
          if m = 0 then (if n then f.sign else 0, 0)
          else
            let (b, x) := f.round rm n m e
            let sg := if n then f.sign else 0
            if f.top ≤ b then (sg + f.top - 1, orFl flOF flNX)
            else (sg + b, orFl (if x then flNX else 0) (if b = 0 then flUF else 0))
        | _ => (0, 0)
    let es := vs.map one
    (pack X.toNat (es.map fun x => x.1), es.foldl (fun fl x => orFl fl x.2) 0)

/-- A stored block of a block format from its values (R62, R73, R74); K3 is written as K4. -/
def encodeBlock (ty rm : Nat) (sat : Bool) (vs : List Val) : List Byte × Nat :=
  if ty = 12 ∨ ty = 13 then encodeMX ty rm vs
  else if ty = 14 then encodeK 9 rm sat vs
  else encodeK ty rm sat vs

/-- A value converted to an element format by vcvt (R69 to R72) with the clamp of R260: fromInt says that the source is an
integer type. -/
def convElem (ty : Nat) (u fromInt : Bool) (rm dcl : Nat) (v : Val) : Nat × Nat :=
  if isFloat ty then
    let (r, fl) := (ffmt ty).deliver rm (dcl == 1) v
    ((ffmt ty).clamp dcl r, fl)
  else if fromInt then
    let i := (v.toInt rm).1
    let r := if dcl = 1 then clampInt ty u i else intOf ty u (intBits ty i)
    (intBits ty (if dcl = 2 ∧ r < 0 then 0 else r), 0)
  else
    let (b, fl) := toIntFmt ty u rm v
    (if dcl = 2 ∧ intOf ty u b < 0 then 0 else b, fl)

end Sys2Proof.Machine
end

