-- ==== Sys2Proof/Machine/Lanes.lean ====
section
/-! DEFINITION. What the vector lanes compute: the special-function units (R270 to R272), one element of an elementwise
instruction (R258 to R266, R273, R274), one row of a row operation (R277 to R281). -/

namespace Sys2Proof.Machine

/-! ### Approximating units (R270)

A unit delivers a value within its bound of f(x). f(x) is computed to more than 60 bits; where within the bound the delivered
value lies is the free value unitChoice. A delivered value has 24 significant bits. -/

/-- Fraction bits of the fixed-point work below. -/
def fxBits : Nat := 96

/-- log2 e times 2^96, rounded down. -/
def log2e : Nat := 114302077158074026402637675936

/-- 2^f for a fraction f / 2^96, times 2^96, bit by bit: the remaining bits of f from bit n − 1 down, the root 2^(2^-j) and the
product so far. -/
def exp2Frac : Nat → Nat → Nat → Nat → Nat
  | 0, _, _, acc => acc
  | n + 1, f, root, acc =>
    let root' := isqrt (root * 2 ^ fxBits)
    exp2Frac n f root' (if f / 2 ^ n % 2 = 1 then acc * root' / 2 ^ fxBits else acc)

/-- 2^y for y = i + f / 2^96, as a value. -/
def exp2Fx (y : Int) : Val :=
  let i := y / (2 ^ fxBits : Nat)
  let f := (y % (2 ^ fxBits : Nat)).toNat
  .num false (exp2Frac fxBits f (2 * 2 ^ fxBits) (2 ^ fxBits)) (i - fxBits)

/-- The fraction of log2 x / 2^96 for x in [1, 2) times 2^96, bit by bit. -/
def log2Frac : Nat → Nat → Nat → Nat
  | 0, _, acc => acc
  | n + 1, x, acc =>
    let y := x * x / 2 ^ fxBits
    if 2 ^ (fxBits + 1) ≤ y then log2Frac n (y / 2) (2 * acc + 1) else log2Frac n y (2 * acc)

/-- log2 of a positive number, in units of 2^-64. -/
def log2Fx (m : Nat) (e : Int) : Int :=
  let k := log2N m
  let x := if k ≤ fxBits then m * 2 ^ (fxBits - k) else m / 2 ^ (k - fxBits)
  (leadOf m e) * (2 ^ 64 : Nat) + (log2Frac 64 x 0 : Nat)

/-- A number in units of 2^-96, rounded toward −∞; 0 where it is far smaller. -/
def Val.fx (v : Val) : Int :=
  match v with
  | .num n m e =>
    let q := (roundMag 1 n m (e + fxBits)).1
    if n then -(q : Int) else (q : Int)
  | _ => 0

/-- A number cut to 24 significant bits, toward another number. -/
def cut24 (y f : Val) : Val :=
  match y with
  | .num n m e =>
    let k := log2N m
    if k < 24 then y
    else
      let rm := if ltVal f y then 2 else 3
      let (q, _) := roundMag rm n m (23 - (k : Int))
      .num n q (e + ((k : Int) - 23))
  | x => x

/-- A delivered value within a bound of f: the free position within the bound is d. -/
def within (f bound : Val) (d : Nat) : Val :=
  let t : Int := ((d % 2 ^ 40 : Nat) : Int) - (2 ^ 39 : Nat)
  let delta := (mulVal bound (.num (decide (t < 0)) t.natAbs (-39))).1
  cut24 (sumNum 0 f delta) f

/-- The FP32 pattern of an exact operand, by which a unit's free position is fixed (R272). -/
def fp32Bits (v : Val) : Nat := (fFP32.deliver 0 false v).1

/-- A power of two: its exponent. -/
def Val.pow2 : Val → Option Int
  | .num _ m e => if m ≠ 0 ∧ m = 2 ^ log2N m then some (leadOf m e) else none
  | _ => none

/-- 1 ÷ x (R271) against the ranges of the destination type. -/
def unitRcp (ty : Nat) (v : Val) : Val × Nat :=
  let f := ffmt ty
  let emin : Int := 1 - (f.bias : Int)
  match v with
  | .nan q => (.nan false, if q then flNV else 0)
  | .inf n => (.num n 0 0, 0)
  | .num n m e =>
    if m = 0 then (.inf n, flDZ)
    else
      let t := (quoNum 1 m).scale (-e)
      let largest := f.value (f.top - 1)
      let least : Val := .num false 1 emin
      if ltVal largest t then (.inf n, orFl flOF flNX)
      else if ltVal t least then (.num n 0 0, orFl flUF flNX)
      else
        let sg := fun (x : Val) => if n then x.neg else x
        match v.pow2 with
        | some k => (.num n 1 (-k), 0)
        | none =>
          let y := within t (t.scale (-14)) (Config.unitChoice 0x20 (fp32Bits v.abs))
          (sg (if ltVal y least then least else y), flNX)

/-- 1 ÷ √x. -/
def unitRsqrt (v : Val) : Val × Nat :=
  match v with
  | .nan q => (.nan false, if q then flNV else 0)
  | .inf n => if n then (.nan false, flNV) else (.zero, 0)
  | .num n m e =>
    if m = 0 then (.inf n, flDZ)
    else if n then (.nan false, flNV)
    else
      let even := match v.pow2 with
        | some k => if k % 2 = 0 then some (-(k / 2)) else none
        | none => none
      match even with
      | some k => (.num false 1 k, 0)
      | none =>
        let r := sqrtNum m e
        match r with
        | .num _ x f =>
          let t := (quoNum 1 x).scale (-f)
          (within t (t.scale (-14)) (Config.unitChoice 0x21 (fp32Bits v)), flNX)
        | x => (x, 0)

/-- 2^x; at most 1 for a negative x (R281). -/
def unitExp2 (v : Val) : Val × Nat :=
  match v with
  | .nan q => (.nan false, if q then flNV else 0)
  | .inf n => (if n then .zero else .inf false, 0)
  | .num _ _ _ =>
    if ltVal v (.num false 128 0) then
      let (i, x) := v.toInt 2
      if !x then (.num false 1 i, 0)
      else
        let t := exp2Fx v.fx
        let one : Val := .num false 1 0
        let y := within t (t.scale (-14)) (Config.unitChoice 0x22 (fp32Bits v))
        (if v.isNeg ∧ ltVal one y then one else y, flNX)
    else (.inf false, orFl flOF flNX)

/-- log2 x. -/
def unitLog2 (v : Val) : Val × Nat :=
  match v with
  | .nan q => (.nan false, if q then flNV else 0)
  | .inf n => if n then (.nan false, flNV) else (.inf false, 0)
  | .num n m e =>
    if m = 0 then (.inf true, flDZ)
    else if n then (.nan false, flNV)
    else
      match v.pow2 with
      | some k => (Val.ofInt k, 0)
      | none =>
        let l := log2Fx m e
        let f : Val := .num (decide (l < 0)) l.natAbs (-64)
        let one : Val := .num false 1 0
        (within f ((if ltVal f.abs one then one else f.abs).scale (-14)) (Config.unitChoice 0x23 (fp32Bits v)), flNX)

/-- 2^(2 |x| log2 e), as work for tanh; |x| below 32. -/
def expOf (v : Val) (k : Nat) : Val :=
  exp2Fx (v.fx * (log2e : Int) * (k : Int) / (2 ^ fxBits : Nat))

/-- The quotient of two positive numbers. -/
def quoVal (a b : Val) : Val :=
  match a, b with
  | .num _ m e, .num _ n f => (quoNum m n).scale (e - f)
  | _, _ => .zero

/-- tanh x. -/
def unitTanh (v : Val) : Val × Nat :=
  match v with
  | .nan q => (.nan false, if q then flNV else 0)
  | .inf n => (.num n 1 0, 0)
  | .num n _ _ =>
    if ltVal v.abs (.num false 1 (-12)) then (v, 0)
    else
      let one : Val := .num false 1 0
      let t :=
        if ltVal (.num false 32 0) v.abs then one
        else
          let y := expOf v.abs 2
          quoVal (sumNum 0 y one.neg) (sumNum 0 y one)
      let y := within t (.num false 1 (-15)) (Config.unitChoice 0x24 (fp32Bits v.abs))
      (if n then y.neg else y, flNX)

/-- 1 ÷ (1 + 2^(−x log2 e)). -/
def unitSigm (v : Val) : Val × Nat :=
  let one : Val := .num false 1 0
  match v with
  | .nan q => (.nan false, if q then flNV else 0)
  | .inf n => (if n then .zero else one, 0)
  | .num n m _ =>
    if m = 0 then (.num false 1 (-1), 0)
    else
      let t :=
        if ltVal (.num false 64 0) v.abs then (if n then .zero else one)
        else
          let y := expOf v 1
          quoVal y (sumNum 0 y one)
      let y := within t (.num false 1 (-15)) (Config.unitChoice 0x25 (fp32Bits v))
      (if y.isNeg then .zero else if ltVal one y then one else y, flNX)

/-- √x rounded to FP32 by the mode (IEEE 754-2019). -/
def unitSqrt (rm : Nat) (v : Val) : Val × Nat :=
  match v with
  | .nan q => (.nan false, if q then flNV else 0)
  | .inf n => if n then (.nan false, flNV) else (.inf false, 0)
  | .num n m e =>
    if m = 0 then (v, 0)
    else if n then (.nan false, flNV)
    else
      let (b, fl) := fFP32.deliver rm false (sqrtNum m e)
      (fFP32.value b, fl)

/-- The unit of an opcode. -/
def unitOf (opc ty rm : Nat) (v : Val) : Val × Nat :=
  match opc with
  | 0x20 => unitRcp ty v
  | 0x21 => unitRsqrt v
  | 0x22 => unitExp2 v
  | 0x23 => unitLog2 v
  | 0x24 => unitTanh v
  | 0x25 => unitSigm v
  | _ => unitSqrt rm v

/-! ### One element -/

/-- The source modifiers (R259): the absolute value first; an integer has no negative zero. -/
def withMods (int neg ab : Bool) (v : Val) : Val :=
  let v := if ab then v.abs else v
  if neg && !(int && v.isZero) then v.neg else v

/-- A source element with its modifiers (R259). -/
def srcVal (ty : Nat) (u neg ab : Bool) (x : Nat) : Val := withMods (isInt ty) neg ab (elemVal ty u x)

/-- DSC as a signed scale (R166). -/
def dscOf (f : VF) : Int := f.dsc.toInt

/-- The result of an operation, formed by R259; an integer operation sets no flag. -/
def formed (f : VF) (rm : Nat) (r : Val × Nat) : Nat × Nat :=
  let (b, fl) := formResult f.ty.toNat f.u rm f.dcl.toNat (dscOf f) r.1
  (b, if isFloat f.ty.toNat then orFl r.2 fl else 0)

/-- The result of a special function (R270). A result of vrcp that its scale would make subnormal becomes zero (R271). -/
def unitElem (opc : Nat) (f : VF) (rm : Nat) (v : Val) : Nat × Nat :=
  let t := ffmt f.ty.toNat
  let (b, fl) := formed f rm (unitOf opc f.ty.toNat rm v)
  if opc = 0x20 ∧ b % t.sign ≠ 0 ∧ b % t.sign < 2 ^ t.fb then (b / t.sign * t.sign, orFl fl (orFl flUF flNX)) else (b, fl)

/-- The outcome of a comparison under a condition of vcmp (R265). -/
def vcmpHolds (cond : Nat) (a b : Val) : Bool :=
  let un := a.isNan || b.isNan
  match cond with
  | 0 => eqVal a b
  | 1 => !eqVal a b
  | 2 => ltVal a b
  | 3 => !un && !ltVal b a
  | 4 => ltVal b a
  | 5 => !un && !ltVal a b
  | 6 => !un
  | _ => un

/-- One element of an elementwise instruction (R258 to R267, R270, R274): the operands' patterns, the old pattern of the
destination, the element's number k, the scalar; the new pattern and the flags. -/
def elemOp (opc : Nat) (f : VF) (rm : Nat) (gs : Word) (k : Nat) (a b c : Nat) : Nat × Nat :=
  let ty := f.ty.toNat
  let w := 8 * elemBytes ty
  let m := 2 ^ w
  let va := srcVal ty f.u f.na f.xa a
  let vb := srcVal ty f.u f.nb f.xb b
  let sh := b % w
  match opc with
  | 0x01 => formed f rm (addVal rm va vb)
  | 0x02 => formed f rm (addVal rm va vb.neg)
  | 0x03 => formed f rm (mulVal va vb)
  | 0x04 => formed f rm (fmaVal rm va vb (elemVal ty f.u c))
  | 0x05 => formed f rm (pickVal false va vb)
  | 0x06 => formed f rm (pickVal true va vb)
  | 0x08 => ((BitVec.ofNat w a &&& BitVec.ofNat w b).toNat, 0)
  | 0x09 => ((BitVec.ofNat w a ||| BitVec.ofNat w b).toNat, 0)
  | 0x0A => ((BitVec.ofNat w a ^^^ BitVec.ofNat w b).toNat, 0)
  | 0x0B =>
    let x := intOf ty f.u a * ((2 ^ sh : Nat) : Int)
    (intBits ty (if f.dcl = 1 then clampInt ty f.u x else x), 0)
  | 0x0C => (a % m / 2 ^ sh, 0)
  | 0x0D => (intBits ty (intOf ty false a / ((2 ^ sh : Nat) : Int)), 0)
  | 0x0E => (if vcmpHolds f.fn.toNat va vb then m - 1 else 0, if isFloat ty then sigNV [va, vb] else 0)
  | 0x0F => (if c % m ≠ 0 then a % m else b % m, 0)
  | 0x10 => (gs.toNat % m, 0)
  | 0x11 => if !f.na ∧ !f.xa ∧ f.dsc = 0 ∧ f.dcl = 0 then (a % m, 0) else formed f rm (va, sigNV [va])
  | 0x14 => formed f rm (Val.ofInt (gs.toInt + (k : Int)), 0)
  | 0x31 => formed f rm (va.scale gs.toInt, sigNV [va])
  | _ => unitElem opc f rm va

/-- The source type of vcvt (R166). -/
def srcType (f : VF) : Nat := f.gs.toNat

/-- One element of vcvt between element formats (R273). -/
def cvtElem (f : VF) (rm : Nat) (v : Val) : Nat × Nat :=
  convElem f.ty.toNat f.u (isInt (srcType f)) rm f.dcl.toNat (v.scale (dscOf f))

/-- A source value of vcvt with its modifiers. -/
def cvtSrc (f : VF) (v : Val) : Val := withMods (isInt (srcType f)) f.na f.xa v

/-! ### One row -/

/-- The lanes of a type in 64 bytes. -/
def lanesOf (ty : Nat) : Nat := 64 / elemBytes ty

/-- The combination of two values of a reduction (R278) with its flags. -/
def redComb (opc ty : Nat) (rm : Nat) (a b : Val) : Val × Nat :=
  match opc with
  | 0x40 =>
    if isFloat ty then
      let (s, f1) := addVal rm a b
      let (x, f2) := fFP32.deliver rm false s
      (fFP32.value x, orFl f1 f2)
    else (sumNum 0 a b, 0)
  | 0x41 => let (x, fl) := pickVal true a b; (x, if isFloat ty then fl else 0)
  | _ => let (x, fl) := pickVal false a b; (x, if isFloat ty then fl else 0)

/-- The identity of a reduction (R278). -/
def redIdent (opc ty : Nat) (u : Bool) : Val :=
  match opc with
  | 0x40 => if isFloat ty then .num true 0 0 else .zero
  | 0x41 => if isFloat ty then .inf true else Val.ofInt (intMin ty u)
  | _ => if isFloat ty then .inf false else Val.ofInt (intMax ty u)

/-- One halving of the tree: lane i with lane i + k. -/
def redHalf (opc ty rm k : Nat) (l : List Val) : List Val × Nat :=
  let ps := (List.range k).map fun i => redComb opc ty rm (l.getD i .zero) (l.getD (i + k) .zero)
  (ps.map fun p => p.1, ps.foldl (fun fl p => orFl fl p.2) 0)

/-- The tree over 2^j lanes. -/
def redTree (opc ty rm : Nat) : Nat → List Val → Val × Nat
  | 0, l => (l.getD 0 .zero, 0)
  | j + 1, l =>
    let (l', f1) := redHalf opc ty rm (2 ^ j) l
    let (v, f2) := redTree opc ty rm j l'
    (v, orFl f1 f2)

/-- A row of values cut into runs of n. -/
def runsN (n : Nat) : Nat → List Val → List (List Val)
  | 0, _ => []
  | k + 1, l => if l.length ≤ n then [l] else l.take n :: runsN n k (l.drop n)

/-- A reduction of a row (R278). -/
def redRow (opc ty : Nat) (u : Bool) (rm : Nat) (row : List Val) : Val × Nat :=
  let n := lanesOf ty
  let one := fun (r : List Val) =>
    redTree opc ty rm (log2N n) (r ++ List.replicate (n - r.length) (redIdent opc ty u))
  match runsN n (row.length + 1) row with
  | [] => (.zero, 0)
  | r :: rs =>
    let (v, fl) := rs.foldl (fun (acc, fl) r =>
      let (x, f1) := one r
      let (y, f2) := redComb opc ty rm acc x
      (y, orFl fl (orFl f1 f2))) (one r)
    (if isFloat ty && !row.isEmpty && row.all Val.isNan then .nan false else v, fl)

/-- The running sums of a row (R279): the value written at each element. -/
def scanRow (ty rm : Nat) (ex : Bool) : Nat → Val → List Val → List (Val × Nat)
  | _, _, [] => []
  | i, s, x :: r =>
    let (s', fl) := redComb 0x40 ty rm s x
    (if ex then (if i = 0 then .zero else s) else s', fl) :: scanRow ty rm ex (i + 1) s' r

/-- The index of the largest element of a row (R280), from the candidate found so far. -/
def argmaxFrom : List Val → Nat → Nat → Val → Nat
  | [], _, best, _ => best
  | x :: r, i, best, bv =>
    let x := if x.isNan then Val.inf true else x
    if ltVal bv x || (bv.isZero && x.isZero && bv.isNeg && !x.isNeg) then argmaxFrom r (i + 1) i x
    else argmaxFrom r (i + 1) best bv

/-- vargmax of a row. -/
def argmaxRow (row : List Val) : Nat :=
  match row with
  | [] => 0
  | x :: r => argmaxFrom r 1 0 (if x.isNan then .inf true else x)

/-- A value rounded to FP32 under RNE. -/
def toFP32 (v : Val) : Val := fFP32.value (fFP32.deliver 0 false v).1

/-- The values that vsoftmax forms for a row before R259 (R281), with NV. The sum s takes the vredadd order with the 16 lanes of FP32 for
every TY: DESIGN CHOICE (assumption log 82). -/
def softRow (b2 : Bool) (row : List Val) : List Val × Nat :=
  let all := fun (v : Val) => row.map fun _ => v
  if row.any Val.isNan then (all (.nan false), sigNV row)
  else
    let k := (row.filter fun v => v == .inf false).length
    if 0 < k then (row.map fun v => if v == .inf false then quoNum 1 k else .zero, 0)
    else
      let m := row.foldl (fun m v => if ltVal m v then v else m) (row.getD 0 .zero)
      if m.isInf then (all (.nan false), flNV)
      else
        let ln : Val := if b2 then .num false 1 0 else .num false (2 * log2e + 1) (-(fxBits : Int) - 1)
        let p := row.map fun v =>
          let d := toFP32 (mulVal (addVal 0 v m.neg).1 ln).1
          toFP32 (unitExp2 d).1
        let s := (redRow 0x40 8 false 0 p).1
        let h := toFP32 (unitRcp 8 s).1
        (p.map fun x => (mulVal x h).1, 0)

end Sys2Proof.Machine
end

