-- ==== Sys2Proof/Machine/Translate.lean ====
section
/-! DEFINITION. Address translation: the system frame (R394 to R397), the translation caches (R393), the
Sv57 walk (R392) and page requests (R398). -/

namespace Sys2Proof.Machine

/-- The ASID of a tenant on a die (R397). -/
def State.asid (s : State) (d t : Nat) : Nat := fld (s.mem64 (tenRec d t 0)) 44 16

/-- An access kind. -/
inductive Kind where
  | read
  | write
  | exec
deriving DecidableEq, Repr

/-- The entry allows the kind. -/
def Tlb.allows (e : Tlb) : Kind → Bool
  | .read => e.rd
  | .write => e.wr
  | .exec => e.ex

/-- A translation cache hit of a slice (R393). -/
def State.tlbHit (s : State) (slice ten va : Nat) (k : Kind) : Option Tlb :=
  (s.core slice).tlb.find? fun e =>
    e.ten == ten && (e.global || e.asid == s.asid (dieOf slice) ten) && e.vpn == va / 2 ^ e.shift && e.allows k

/-- A translation as an access finds it at issue: the model's physical address, a walk to make, or a fault. -/
inductive Trans where
  | pa (pa : Nat)
  | walk
  | fault (f : FaultInfo)
deriving DecidableEq, Repr

/-- The translation of a virtual address for a tenant from a core (R107, R393, R105): an empty home mask is the access fault. -/
def State.translate (s : State) (c ten va : Nat) (k : Kind) : Trans :=
  match s.tlbHit (s.firstSlice c va) ten va k with
  | none => .walk
  | some e =>
    let pa := e.pa + va % 2 ^ e.shift
    match e.attr with
    | none => .pa pa
    | some w =>
      match s.homeOf w pa with
      | none => .fault { code := 0x03 }
      | some _ => .pa pa

/-! ### The walk -/

/-- The device window's base for a tenant on a die (R397). -/
def State.dbase (s : State) (d t : Nat) : Nat := fld (s.mem64 (tenRec d t 1)) 30 26 * 2 ^ 30

/-- The model's physical address of a host physical address: device memory inside the window, host memory outside (R392). -/
def State.fromHost (s : State) (d t hpa : Nat) : Nat :=
  let b := s.dbase d t
  if b ≤ hpa ∧ hpa < b + 4 * Config.dieBytes then hpa - b else Config.hostBase + hpa

/-- What a walk comes to: a page request, a fault, or a leaf: the page table entry's address and new value, the page's
physical base and size, and its permissions. -/
inductive Walked where
  | page
  | fault (f : FaultInfo)
  | leaf (pteAddr : Nat) (pte : Word) (base : Nat) (shift : Nat)
deriving DecidableEq, Repr

/-- The levels of the Sv57 walk from level n - 1 down (R392), the table at model address tab. -/
def State.walkFrom (s : State) (d t va : Nat) (k : Kind) : Nat → Nat → Walked
  | 0, _ => .page
  | n + 1, tab =>
    let a := tab + 8 * (va / 2 ^ (12 + 9 * n) % 512)
    let pte := s.mem64 a
    if s.unhomed a then .fault { code := 0x03 } else
    let v := pte.getLsbD 0
    let r := pte.getLsbD 1
    let w := pte.getLsbD 2
    let x := pte.getLsbD 3
    let u := pte.getLsbD 4
    if !v || (!r && w) || fld pte 54 7 != 0 || pte.getLsbD 63 then .page
    else
      let ppn := fld pte 10 44
      if !r && !x then
        if u || pte.getLsbD 6 || pte.getLsbD 7 then .page
        else State.walkFrom s d t va k n (s.fromHost d t (ppn * 4096))
      else
        let ok := match k with
          | .read => r
          | .write => w
          | .exec => x
        if !ok || !u || ppn % 2 ^ (9 * n) ≠ 0 then .page
        else
          let pte' := pte ||| (if k = .write then 0xC0 else 0x40)
          .leaf a pte' (ppn * 4096) (12 + 9 * n)

/-- The page table entries that a walk reads, from level n - 1 down. -/
def State.tablesFrom (s : State) (d t va : Nat) : Nat → Nat → List Nat
  | 0, _ => []
  | n + 1, tab =>
    let a := tab + 8 * (va / 2 ^ (12 + 9 * n) % 512)
    let pte := s.mem64 a
    a :: (if pte.getLsbD 0 && !pte.getLsbD 1 && !pte.getLsbD 3 then State.tablesFrom s d t va n (s.fromHost d t (fld pte 10 44 * 4096)) else [])

/-- The reads of a walk in device memory go through the home slices of its tables (R393); those in host memory are not cached. -/
def State.walkTouch (s : State) (slice t va : Nat) : State :=
  let d := dieOf slice
  let w0 := s.mem64 (tenRec d t 0)
  if fld w0 60 4 ≠ 10 then s
  else
    (s.tablesFrom d t va 5 (s.fromHost d t (fld w0 0 44 * 4096))).foldl (fun s a =>
      if isDevice a then
        let e := s.fat (a / Config.dieBytes) (a % Config.dieBytes / Config.frameBytes)
        match s.homeOf e a with
        | some h => s.l2Touch h (fatTen e) a 8 0 false
        | none => s
      else s.overLink t a) s

/-- The walk of a virtual address for a tenant on a die (R392, R397). -/
def State.walk (s : State) (d t va : Nat) (k : Kind) : Walked :=
  let w0 := s.mem64 (tenRec d t 0)
  match fld w0 60 4 with
  | 0 => .page
  | 10 => s.walkFrom d t va k 5 (s.fromHost d t (fld w0 0 44 * 4096))
  | _ => .fault { code := 0x03 }

/-- The oldest of 64 entries leaves when a new one enters. -/
def fillTlb (l : List Tlb) (e : Tlb) : List Tlb :=
  let l := l.filter fun x => !(x.ten == e.ten && x.vpn == e.vpn && x.shift == e.shift)
  (if l.length < 64 then l else l.drop 1) ++ [e]

/-- A word stored by a translation agent in the system frame or a page table; the banks lose their copies of its line (R108). -/
def State.agentPut (s : State) (a : Nat) (w : Word) : State :=
  ({ s with mem := Mem.writeN s.mem a (bytesOfNat 8 w.toNat) } : State).dropCopies a 8

/-- A walk completed at a first slice (R392, R393, R396): A and D set in the page table, the frame's A set, the translation
filled; or a fault; or a page request. A leaf of host memory beyond 1 GiB, which may lie on both sides of the device window, is filled for
the GiB in hand (R392). -/
def State.walkDone (s : State) (slice t va : Nat) (k : Kind) : Except (Option FaultInfo) State :=
  let d := dieOf slice
  match s.walk d t va k with
  | .page => .error none
  | .fault f => .error (some f)
  | .leaf a pte base shift =>
    let pageOff := va % 2 ^ shift
    let pa := s.fromHost d t (base + pageOff)
    let dev := isDevice pa
    let gib := min shift 30
    if dev && shift != 21 && shift != 30 then .error (some { code := 0x03, aux0 := 5 })
    else
      let set := fun (s : State) => (s.overLink t a).agentPut a pte
      if dev then
        let fd := pa / Config.dieBytes
        let f := pa % Config.dieBytes / Config.frameBytes
        let e := s.fat fd f
        if fatState e = 1 ∧ fatTen e = t then
          let s := set s
          let s := s.agentPut (fatAddr fd f) (setFld e 33 1 1)
          .ok (s.modCore slice fun q => { q with tlb := fillTlb q.tlb {
            ten := t, asid := s.asid d t, global := pte.getLsbD 5, vpn := va / 2 ^ 21, shift := 21, leaf := shift, pa := pa / 2 ^ 21 * 2 ^ 21,
            wr := pte.getLsbD 2 && pte.getLsbD 7, ex := pte.getLsbD 3, rd := pte.getLsbD 1, attr := some e } })
        else .error (some { code := 0x03, aux0 := 6, aux1 := BitVec.ofNat 64 f })
      else
        let s := set s
        .ok (s.modCore slice fun q => { q with tlb := fillTlb q.tlb {
          ten := t, asid := s.asid d t, global := pte.getLsbD 5, vpn := va / 2 ^ gib, shift := gib, leaf := shift,
          pa := s.fromHost d t (base + pageOff / 2 ^ gib * 2 ^ gib), wr := pte.getLsbD 2 && pte.getLsbD 7, ex := pte.getLsbD 3, rd := pte.getLsbD 1,
          attr := none } })

/-! ### Page requests (R398) -/

/-- A page request that finds the table full is held by the walking slice, which offers it again every 64 cycles (R398). -/
def State.holdRequest (s : State) (d t core va : Nat) (k : Kind) (w : Waiter) : State :=
  { s.bump with net := s.net ++ [{
      id := s.fresh, src := core, dst := 4096 * d, dmod := s.modid, ten := t, org := { core := core },
      body := .walk va (k == .write) (k == .exec) w, stage := .wait (s.cycle + 64), born := s.cycle }] }

/-- Entry e of a die's page request table is pending. -/
def State.pagePending (s : State) (d e : Nat) : Bool := fld (s.mem64 (pageReq d e 1)) 32 2 == 1

/-- A page request is entered or merged (R398); none when all 256 entries are pending and none can be merged with, or while no place for its
record is free (R370). -/
def State.pageRequest (s : State) (d t core va : Nat) (k : Kind) (w : Waiter) : Option State :=
  let bit : Word := match k with
    | .read => 1 <<< 6
    | .write => 1 <<< 7
    | .exec => 1 <<< 8
  let same := (List.range 256).find? fun e =>
    s.pagePending d e && fld (s.mem64 (pageReq d e 1)) 0 6 == t && fld (s.mem64 (pageReq d e 0)) 12 45 == va / 4096
  let join := fun (s : State) (e : Nat) => s.modDie d fun q =>
    { q with pageWaiters := Tab.put q.pageWaiters e (Tab.findD q.pageWaiters e [] ++ [w]) }
  match same with
  | some e =>
    let w1 := s.mem64 (pageReq d e 1)
    let w1 := setFld (w1 ||| bit) 24 8 (BitVec.ofNat 64 (min 255 (fld w1 24 8 + 1)))
    some (join (s.agentPut (pageReq d e 1) w1) e)
  | none =>
    match (List.range 256).find? fun e => !s.pagePending d e with
    | none => none
    | some e =>
      if s.recordsFull core then none else
      let w0 := BitVec.ofNat 64 (va % 2 ^ 57)
      let w1 := BitVec.ofNat 64 (t + core * 2 ^ 10 + 2 ^ 24 + 2 ^ 32) ||| bit
      let w7 := BitVec.ofNat 64 (e + d * 2 ^ 10)
      let s := s.agentPut (pageReq d e 0) w0
      let s := s.agentPut (pageReq d e 1) w1
      let s := s.agentPut (pageReq d e 2) 0
      let s := s.agentPut (pageReq d e 7) w7
      let s := s.raiseRecord core { core := core, ten := t, ftgt := s.mem64 (tenRec d t 3), stamp := s.cycle,
                                    raw := [w0, w1, 0, 0, 0, 0, 0, w7] }
      some (join s e)

end Sys2Proof.Machine
end

