-- ==== Sys2Proof/Machine/Access.lean ====
section
/-! DEFINITION. One access of a thread: its checks in order (R98, R101, R119, R206, R207), where it is performed, the chunk's
buffer and lines (R123, R124), ordering (R136, R137, R209). -/

namespace Sys2Proof.Machine

/-! ### Steps -/

/-- A bundle that must be a step (R123): the chunk before it commits first; a chunk that the bundle itself has just opened is
given up. -/
def State.asStep (s : State) (body : State → State) : State :=
  match s.cur.chunk with
  | none => body s
  | some ck =>
    if ck.count = 0 then
      let s := s.modCur fun t => { t with chunk := none }
      body { s with ctx := { s.ctx with step := true } }
    else (s.askCommit s.ctx.core s.ctx.slot).withRes .again

/-- Every earlier access and every released effect of a thread is performed for all observers of a scope (R136, R137, R221), wherever
it has come from; the thread's accesses are answered, and its commands' tags set, only once they are performed everywhere (R108). -/
def State.fenceClear (s : State) (c uid scope : Nat) : Bool :=
  let acked := s.unacked.all fun u => u.org.uid != uid
  let sent := s.net.all fun m =>
    if m.org.uid = uid ∧ m.stage ≠ .there then
      let inside := if m.dmod = s.modid then inScope scope c m.dst else decide (8 ≤ scope)
      match m.body with
      | .post _ _ _ _ => !inside
      | .callat _ _ _ => !inside
      | .chan _ _ _ _ _ => !inside
      | .chctl _ _ _ => !inside
      | .fork _ => !inside
      | .launch _ _ _ _ => decide (scope < 7)
      | .durable _ _ _ => decide (scope < 11)
      | .depot _ => decide (scope < 11)
      | _ => true
    else true
  acked && sent

/-- The writer's logged stores count as fenced at MODULE (R159). -/
def State.fenceCode (s : State) : State :=
  let t := s.cur
  { s.bump with codeLog := s.codeLog.map fun x =>
      if x.uid = t.uid ∧ x.fenced = none then { x with fenced := some s.fresh }
      else x }

/-- A fence at a scope as part of a step (R133, R136): the thread waits until it is met, then goes on. -/
def State.fenced (s : State) (scope : Nat) (body : State → State) : State :=
  if s.fenceClear s.ctx.core s.cur.uid scope then body (if 7 ≤ scope then s.fenceCode else s)
  else s.retry (.fence scope) 0

/-! ### Footprints (R117, R119) -/

/-- Two footprints conflict (R117). -/
def Foot.conflicts (a b : Foot) : Bool :=
  a.space == b.space && (a.space == 0 || a.core == b.core) && decide (a.lo ≤ b.hi) && decide (b.lo ≤ a.hi) && (a.wr || b.wr)

/-- The footprint of an access. -/
def Space.foot (sp : Space) (n : Nat) (wr : Bool) : Foot :=
  match sp with
  | .virt a => { space := 0, core := 0, lo := a, hi := a + n - 1, wr := wr }
  | .loc c o => { space := 1, core := c, lo := o, hi := o + n - 1, wr := wr }
  | .acc c o => { space := 2, core := c, lo := o, hi := o + n - 1, wr := wr }
  | .window c o => { space := 4, core := c, lo := o, hi := o + n - 1, wr := wr }
  | .durable o => { space := 3, core := 0, lo := o, hi := o + n - 1, wr := wr }

/-- The incomplete commands of the core that an access conflicts with (R119). -/
def State.conflicts (s : State) (sp : Space) (n : Nat) (wr : Bool) : List Nat :=
  let f := sp.foot n wr
  (s.own.cmds.filter fun c => c.foots.any fun g => f.conflicts g).map fun c => c.id

/-! ### Places -/

/-- Where an access is performed: the own core's memories, another core's, device memory, host memory, the durable area, an
inbox window. -/
inductive Place where
  | own (pa : Nat)
  | other (core pa : Nat)
  | dev (pa : Nat)
  | host (pa : Nat)
  | dur (pa : Nat)
  | win (core off : Nat)
deriving DecidableEq, Repr

/-- The physical address of byte b of a core's save area (R388): 786,432 bytes for each core of the cluster, in frames of one
vault, 256 apart. -/
def saveAddr (core frame b : Nat) : Nat :=
  let x := 786432 * (core % 16) + b
  dieOf core * Config.dieBytes + (frame + 256 * (x / Config.frameBytes)) * Config.frameBytes + x % Config.frameBytes

/-- The physical address of a byte of a core's local memory (R362), or of the overflow window of its grant (R383). -/
def State.locAddr (s : State) (c off : Nat) : Nat :=
  if off < Config.localBytes then Config.localBase + c * Config.localBytes + off
  else saveAddr c (match (s.core c).grant with
    | some g => g.frame
    | none => 0) (524288 + (off - Config.localBytes))

/-- The stretches of physical memory that n bytes of a core's local memory from an offset take, each with its bytes: two where they
reach into the overflow window (R362, R383). -/
def State.locRuns (s : State) (c off n : Nat) : List (Nat × Nat) :=
  let low := min n (Config.localBytes - off)
  (if low = 0 then [] else [(s.locAddr c off, low)]) ++ (if low < n then [(s.locAddr c (off + low), n - low)] else [])

/-- The bytes of stretches of memory. -/
def Mem.readRuns (m : List Host.Cell) (l : List (Nat × Nat)) : List Byte := l.flatMap fun x => Mem.readN m x.1 x.2
/-- Bytes written over stretches of memory. -/
def Mem.writeRuns : List Host.Cell → List (Nat × Nat) → List Byte → List Host.Cell
  | m, [], _ => m
  | m, (a, n) :: l, bs => Mem.writeRuns (Mem.writeN m a (bs.take n)) l (bs.drop n)

/-- The physical address of a byte of an accumulator store (R362). -/
def accAddr (c off : Nat) : Nat := Config.accBase + c * Config.accBytes + off

/-- Which spaces and sizes an instruction takes (R207). -/
structure Takes where
  /-- host and device memory -/
  virt : Bool := true
  loc : Bool := true
  acc : Bool := true
  win : Bool := false
  dur : Bool := false
deriving DecidableEq, Repr

/-- What an access comes to before it is performed. -/
inductive Resolved where
  | fault (f : FaultInfo)
  | wait (cmds : List Nat)
  | walk (va : Nat)
  | place (p : Place)
deriving DecidableEq, Repr

/-- The checks of an access in the order of R206: alignment, the space and its object, the instruction's spaces, the
footprints, the translation. -/
def State.resolve (s : State) (p : Word) (n : Nat) (wr : Bool) (tk : Takes) : Resolved :=
  match s.space p with
  | .error 0x01 => .fault { code := 0x01 }
  | r =>
    if ptrAddr p % n ≠ 0 then .fault { code := 0x02 }
    else
      match r with
      | .error c => .fault { code := c }
      | .ok sp =>
        let allowed := match sp with
          | .virt _ => tk.virt
          | .loc _ _ => tk.loc
          | .acc _ _ => tk.acc
          | .window _ o => tk.win && n == 8 && decide (o < 0x100 || !wr)
          | .durable _ => tk.dur && (n == 8 || n == 16 || n == 64)
        if !allowed || decide (s.objectSize sp < sp.off + n) then .fault { code := 0x03 }
        else
          match s.conflicts sp n wr with
          | i :: r => .wait (i :: r)
          | [] =>
            match sp with
            | .loc c o => if c = s.ctx.core then .place (.own (s.locAddr c o)) else .place (.other c (s.locAddr c o))
            | .acc c o => if c = s.ctx.core then .place (.own (accAddr c o)) else .place (.other c (accAddr c o))
            | .window c o => .place (.win c o)
            | .durable o => .place (.dur (Config.durBase + bindTen s.cur.bind * 2 ^ 48 + o))
            | .virt va =>
              match s.translate s.ctx.core (bindTen s.cur.bind) va (if wr then .write else .read) with
              | .fault f => .fault f
              | .walk => .walk va
              | .pa pa => if isDevice pa then .place (.dev pa) else .place (.host pa)

/-- The message asks for an object of the core it goes to: its memories, its window, a barrier, a full/empty word (R254). -/
def Body.ofOwner : Body → Bool
  | .access pa _ _ _ => decide (Config.localBase ≤ pa) && decide (pa < Config.hostBase)
  | .winRead _ => true
  | .barRead _ _ => true
  | .barArr _ => true
  | .fe _ _ _ => true
  | _ => false

/-- A message of the issuing thread whose answer it waits for (R29): its bundle reissues with the answer. The wait names the core
whose object it is, and otherwise the own core (R254; assumption log 56). -/
def State.await (s : State) (dst : Nat) (b : Body) (addr : Word) : State :=
  let id := s.fresh
  let s := s.send { id := 0, src := s.ctx.core, dst := dst, dmod := s.modid, ten := bindTen s.cur.bind, org := s.origin, body := b }
  let s := s.modCur fun t => { t with acc := some { id := id, addr := addr, since := s.cycle, ans := .none } }
  s.retry .reply addr (if b.ofOwner then dst else s.ctx.core)

/-- A translation that the first slice must walk: the thread waits, and a page fault in a chunk lets the bundles before it
commit (R131). -/
def State.awaitWalk (s : State) (va : Nat) (k : Kind) (addr : Word) : State :=
  let c := s.ctx.core
  let t := s.cur
  let s : State := { s.bump with net := s.net ++ [{
      id := s.fresh, src := c, dst := s.firstSlice c va, dmod := s.modid, ten := bindTen t.bind, org := s.origin,
      body := .walk va (k == .write) (k == .exec) (.thread c s.ctx.slot t.uid), stage := .arrived, born := s.cycle }] }
  s.retry .walk addr

/-- The resolved access goes on with its place, or the thread faults or waits. -/
def State.atPlace (s : State) (p : Word) (n : Nat) (wr : Bool) (tk : Takes) (body : State → Place → State) : State :=
  match s.resolve p n wr tk with
  | .fault f => s.takeFault f
  | .wait cmds => s.retry (.foot cmds) p
  | .walk va => s.awaitWalk va (if wr then .write else .read) p
  | .place pl => body s pl

/-! ### Chunk reads and writes -/

/-- The bytes of a read with the chunk's own buffered bytes over the committed ones (R124). -/
def overlay (buf : List Host.Cell) (pa : Nat) (bytes : List Byte) : List Byte :=
  (List.range bytes.length).map fun i => Tab.findD buf (pa + i) (bytes.getD i 0)

/-- All bytes of an interval stand in the chunk's buffer. -/
def buffered (buf : List Host.Cell) (pa n : Nat) : Bool := (List.range n).all fun i => (Tab.find buf (pa + i)).isSome

/-- The issuing thread's store buffer. -/
def State.buf (s : State) : List Host.Cell :=
  match s.cur.chunk with
  | some c => c.buf
  | none => []

/-- The lines of an access enter the open chunk (R124); a 33rd line ends the chunk before the bundle (R123). -/
def State.touch (s : State) (pa n : Nat) (rd wr : Bool) (body : State → State) : State :=
  match s.cur.chunk with
  | none => body s
  | some ck =>
    let ls := linesOf pa n
    let ck' : Chunk := { ck with
      reads := if rd then ls.foldl insertNat ck.reads else ck.reads,
      writes := if wr then ls.foldl insertNat ck.writes else ck.writes }
    if 32 < ck'.lines.length ∧ 0 < ck.count then (s.askCommit s.ctx.core s.ctx.slot).withRes .again
    else body (s.modCur fun t => { t with chunk := some ck' })

/-- Bytes written into the open chunk's buffer, with the hint of the store (R109, R124). -/
def State.bufWrite (s : State) (pa : Nat) (bytes : List Byte) (hint : Nat := 0) : State :=
  s.modCur fun t => { t with chunk := t.chunk.map fun c =>
    { c with
      buf := (List.range bytes.length).foldl (fun b i => Tab.put b (pa + i) (bytes.getD i 0)) c.buf,
      hints := if hint = 0 then Tab.del c.hints (pa / 64) else Tab.put c.hints (pa / 64) hint } }

/-- A poisoned sector lies in the interval (R418, R451). -/
def State.poisoned (s : State) (pa n : Nat) : Bool := s.poison.any fun x => decide (32 * x < pa + n) && decide (pa < 32 * x + 32)

/-- The answer of the access the thread waited on, taken up by the reissue of its bundle; none while there is none. -/
def State.answered (s : State) (body : State → Option Nat → State) : State :=
  match s.cur.acc with
  | none => body s none
  | some a =>
    let s' := s.modCur fun t => { t with acc := none }
    match a.ans with
    | .data v => body s' (some v)
    | .fault f => s'.takeFault f
    | .retry => body (s'.modCur fun t => { t with refusals := t.refusals + 1 }) none
    | .none => s.retry .reply a.addr

/-- The control word of a channel (R37). -/
def Chan.word1 (h : Chan) : Nat :=
  h.cls * 2 ^ 14 + h.ten * 2 ^ 8 + h.pend.length * 2 ^ 5 + (if h.en then 16 else 0) + (if h.hk then 8 else 0) +
    (if h.blk then 4 else 0)

/-- A load from an inbox window (R101): an inbox register as peek reads it, or a channel's control word. -/
def State.windowValue (s : State) (c o : Nat) : Nat :=
  if o < 0x100 then (Tab.findD (s.core c).inbox (o / 8) 0).toNat
  else (Tab.findD (s.core c).chans ((o - 0x100) / 8) {}).word1

/-- The bytes of a thread's own durable stores that are not yet persistent, the last one over those before it (R113). -/
def State.ownDurable (s : State) (uid : Nat) : List Host.Cell :=
  s.net.foldl (fun b m =>
    match m.body with
    | .durable q bs _ =>
      if m.org.uid = uid then (List.range bs.length).foldl (fun b i => Tab.put b (q + i) (bs.getD i 0)) b else b
    | _ => b) []

/-- A read of committed bytes at a place (R124, R129): at once in the own core's memories, over the network otherwise. -/
def State.readAt (s : State) (p : Word) (n hint : Nat) (pl : Place) (k : State → Nat → State) : State :=
  match pl with
  | .own pa => s.touch pa n true false fun s =>
      if s.poisoned pa n then s.faultCode 0x12
      else k s (natOfBytes (overlay s.buf pa (Mem.readN s.mem pa n)))
  | .other c pa => s.touch pa n true false fun s =>
      if buffered s.buf pa n then k s (natOfBytes (overlay s.buf pa (Mem.readN s.mem pa n)))
      else s.answered fun s a =>
        match a with
        | some v => k s (natOfBytes (overlay s.buf pa (bytesOfNat n v)))
        | none => s.await c (.access pa n hint .load) p
  | .dev pa => s.touch pa n true false fun s =>
      if buffered s.buf pa n then k s (natOfBytes (overlay s.buf pa (Mem.readN s.mem pa n)))
      else s.answered fun s a =>
        match a with
        | some v => k s (natOfBytes (overlay s.buf pa (bytesOfNat n v)))
        | none => s.await (s.firstSlice s.ctx.core (ptrAddr p)) (.access pa n hint .load) p
  | .host pa => s.asStep fun s => s.answered fun s a =>
      match a with
      | some v => k s v
      | none => s.await (s.firstSlice s.ctx.core (ptrAddr p)) (.access pa n hint .load) p
  | .dur pa => s.asStep fun s =>
      k s (natOfBytes (overlay (s.ownDurable s.cur.uid) pa (Mem.readN s.mem pa n)))
  | .win c o =>
    if c = s.ctx.core then k s (s.windowValue c o)
    else s.answered fun s a =>
      match a with
      | some v => k s v
      | none => s.await c (.winRead o) p


/-- A step's write whose notice would reach a solo chunk waits until the token is released (R127). -/
def State.unlessSolo (s : State) (lines : List Nat) (body : State → State) : State :=
  if s.soloBlocks s.ctx.core s.cur.uid s.cur.csc lines then s.retry .solo 0 else body s

/-- A write of bytes at a place: into the chunk's buffer, or as a step at its home, with a notice (R124, R126). -/
def State.writeAt (s : State) (p : Word) (n hint : Nat) (v : Nat) (pl : Place) (k : State → State) : State :=
  let bytes := bytesOfNat n v
  let far := fun (s : State) (dst pa : Nat) =>
    s.answered fun s a =>
      match a with
      | some _ => k s
      | none => s.unlessSolo (linesOf pa n) fun s => s.await dst (.access pa n hint (.store v)) p
  match pl with
  | .own pa => s.touch pa n false true fun s =>
      match s.cur.chunk with
      | some _ => k (s.bufWrite pa bytes)
      | none => s.unlessSolo (linesOf pa n) fun s =>
          k ((s.performLine s.origin (some (dieOf s.ctx.core)) false pa bytes).notify s.origin s.cur.csc (linesOf pa n))
  | .other c pa => s.touch pa n false true fun s =>
      match s.cur.chunk with
      | some _ => k (s.bufWrite pa bytes)
      | none => far s c pa
  | .dev pa => s.touch pa n false true fun s =>
      match s.cur.chunk with
      | some _ => k (s.bufWrite pa bytes hint)
      | none => far s (s.firstSlice s.ctx.core (ptrAddr p)) pa
  | .host pa => s.asStep fun s => far s (s.firstSlice s.ctx.core (ptrAddr p)) pa
  | .dur pa => s.asStep fun s =>
      k { s.bump with net := s.net ++ [{
        id := s.fresh, src := s.ctx.core, dst := 16384, dmod := s.modid, ten := bindTen s.cur.bind, org := s.origin,
        body := .durable pa bytes 0, stage := .arrived, born := s.cycle }] }
  | .win c o => k (s.effect (.post (BitVec.ofNat 64 (c + s.modid * 16384 + o / 8 * 1048576)) (BitVec.ofNat 64 v) 0x52))

/-- Stretches of the own local memory read in turn (R343, R383). -/
def State.readOwn (s : State) (p : Word) : List (Nat × Nat) → (State → List Byte → State) → State
  | [], k => k s []
  | (a, n) :: l, k => s.readAt p n 0 (.own a) fun s v => s.readOwn p l fun s bs => k s (bytesOfNat n v ++ bs)

/-- The lines of stretches enter the open chunk before any of them is written (R123, R124). -/
def State.touchOwn (s : State) : List (Nat × Nat) → (State → State) → State
  | [], k => k s
  | (a, n) :: l, k => s.touch a n false true fun s => s.touchOwn l k

/-- Bytes written over stretches of the own local memory (R344, R383). -/
def State.writeOwn (s : State) (p : Word) : List (Nat × Nat) → List Byte → (State → State) → State
  | [], _, k => k s
  | (a, n) :: l, bs, k => s.writeAt p n 0 (natOfBytes (bs.take n)) (.own a) fun s => s.writeOwn p l (bs.drop n) k

/-- An order wider than the chunk scope makes the access a step; a release waits until earlier accesses are performed
(R123, R136, R209). -/
def State.ordered (s : State) (ord sc : Nat) (body : State → State) : State :=
  if ord ≠ 0 ∧ s.ctx.pre.csc < sc then
    s.asStep fun s => if ord % 4 / 2 = 1 then s.fenced sc body else body s
  else body s

/-- A load of n bytes (R208): k takes the state and the little-endian value. -/
def State.loadOp (s : State) (f : AM) (n : Nat) (tk : Takes) (k : State → Nat → State) : State :=
  let p := s.ea f n
  s.atPlace p n false tk fun s pl => s.ordered f.ord.toNat f.sc.toNat fun s => s.readAt p n f.hint.toNat pl k

/-- A store of n bytes (R208). -/
def State.storeOp (s : State) (f : AM) (n : Nat) (tk : Takes) (v : Nat) : State :=
  let p := s.ea f n
  s.atPlace p n true tk fun s pl => s.ordered f.ord.toNat f.sc.toNat fun s => s.writeAt p n f.hint.toNat v pl id

end Sys2Proof.Machine
end

