-- ==== Sys2Proof/Machine/Loads.lean ====
section
/-! DEFINITION. Loads, stores and shape register moves (R205 to R214), atomics (R219, R220), fence, chunk and pref
(R221 to R223). -/

namespace Sys2Proof.Machine

/-- The low n bytes of a register. -/
def lowBytes (x : Word) (n : Nat) : Nat := x.toNat % 2 ^ (8 * n)

/-- ld and ldn take every space; the window and the durable area 8 bytes only (R207). -/
def takesLd : Takes := { win := true, dur := true }
/-- ldp, stp, ldv, stv (R207). -/
def takesWide : Takes := { dur := true }
/-- lsh, ssh (R207). -/
def takesShape : Takes := {}

/-- ld (R208): sign-extended. -/
def execLd (f : AM) (s : State) : Host.Outcome State Fault Refusal :=
  half f.pn f.pg s fun s =>
    s.loadOp f (sizeOf f.sz) takesLd fun s v => s.wg f.rd (sextW (BitVec.ofNat 64 v) (8 * sizeOf f.sz))
/-- ldn (R208): zero-extended. -/
def execLdn (f : AM) (s : State) : Host.Outcome State Fault Refusal :=
  half f.pn f.pg s fun s => s.loadOp f (sizeOf f.sz) takesLd fun s v => s.wg f.rd (BitVec.ofNat 64 v)
/-- st (R208). -/
def execSt (f : AM) (s : State) : Host.Outcome State Fault Refusal :=
  half f.pn f.pg s fun s => s.storeOp f (sizeOf f.sz) takesLd (lowBytes (s.rg f.rd) (sizeOf f.sz))
/-- ldv (R210). -/
def execLdv (f : AM) (s : State) : Host.Outcome State Fault Refusal :=
  half f.pn f.pg s fun s => s.loadOp f 64 takesWide fun s v => s.wv f.rd.toNat (BitVec.ofNat 512 v)
/-- stv (R210). -/
def execStv (f : AM) (s : State) : Host.Outcome State Fault Refusal :=
  half f.pn f.pg s fun s => s.storeOp f 64 takesWide (s.rv f.rd.toNat).toNat
/-- ldp (R211): with RD = 0 the low word is discarded. -/
def execLdp (f : AM) (s : State) : Host.Outcome State Fault Refusal :=
  half f.pn f.pg s fun s => s.loadOp f 16 takesWide fun s v =>
    (s.wg f.rd (BitVec.ofNat 64 v)).wg (f.rd + 1) (BitVec.ofNat 64 (v / 2 ^ 64))
/-- stp (R211). -/
def execStp (f : AM) (s : State) : Host.Outcome State Fault Refusal :=
  half f.pn f.pg s fun s => s.storeOp f 16 takesWide ((s.rg f.rd).toNat + 2 ^ 64 * (s.rg (f.rd + 1)).toNat)
/-- lsh (R212): the record is copied unchecked. -/
def execLsh (f : AM) (s : State) : Host.Outcome State Fault Refusal :=
  half f.pn f.pg s fun s => s.loadOp f 32 takesShape fun s v => s.wh f.rd.toNat (BitVec.ofNat 256 v)
/-- ssh (R212). -/
def execSsh (f : AM) (s : State) : Host.Outcome State Fault Refusal :=
  half f.pn f.pg s fun s => s.storeOp f 32 takesShape (s.rh f.rd.toNat).toNat

/-- Low bit and width of a shape register field selector (R213). -/
def shapeField (sel : Nat) : Nat × Nat :=
  match sel with
  | 0 => (0, 64)
  | 1 => (64, 16)
  | 2 => (80, 16)
  | 3 => (96, 16)
  | 4 => (112, 16)
  | 5 => (128, 32)
  | 6 => (160, 32)
  | 7 => (192, 32)
  | 8 => (224, 16)
  | 9 => (64, 64)
  | 10 => (128, 64)
  | _ => (192, 64)

/-- shset (R213): with FN bit 0 the register is added to the field; base keeps its format fields. -/
def execShset (f : AI) (s : State) : Host.Outcome State Fault Refusal :=
  half f.pn f.pg s fun s =>
    let sel := f.imm.toNat
    let (lo, w) := shapeField sel
    let h := s.rh f.rd.toNat
    let x := s.rg f.ra
    let old := BitVec.ofNat 64 (fld h lo w)
    let new : Word := if f.fn.getLsbD 0 then (if sel = 0 then addPtr old x else old + x) else x
    s.wh f.rd.toNat (setFld h lo w (new.setWidth 256))
/-- shget (R213): S1 to S3 sign-extended, the other fields zero-extended. -/
def execShget (f : AI) (s : State) : Host.Outcome State Fault Refusal :=
  half f.pn f.pg s fun s =>
    let sel := f.imm.toNat
    let (lo, w) := shapeField sel
    let x := BitVec.ofNat 64 (fld (s.rh f.ra.toNat) lo w)
    s.wg f.rd (if 5 ≤ sel ∧ sel ≤ 7 then sextW x 32 else x)

/-! ### Atomics -/

/-- The result of an atomic on n bytes (R219): the new bytes, or none where amocas finds another value. -/
def amoNew (opc n old b e : Nat) : Option Nat :=
  let m := 2 ^ (8 * n)
  let sg := fun (x : Nat) => (if x < m / 2 then (x : Int) else (x : Int) - (m : Int))
  match opc with
  | 0x64 => some ((old + b) % m)
  | 0x65 => some (BitVec.ofNat 64 old &&& BitVec.ofNat 64 b).toNat
  | 0x66 => some (BitVec.ofNat 64 old ||| BitVec.ofNat 64 b).toNat
  | 0x67 => some (BitVec.ofNat 64 old ^^^ BitVec.ofNat 64 b).toNat
  | 0x68 => some (if sg old < sg b then old else b)
  | 0x69 => some (if sg old < sg b then b else old)
  | 0x6A => some (min old b)
  | 0x6B => some (max old b)
  | 0x6C => some b
  | _ => if old = e then some b else none

/-- An access performed on the committed bytes (R219, R234): the answer's number, and the bytes to write. -/
def AccOp.apply (op : AccOp) (n old : Nat) : Nat × Option Nat :=
  match op with
  | .load => (old, none)
  | .store v => (0, some v)
  | .amo opc b e => (old, amoNew opc n old b e)
  | .join =>
    let c := (old % 2 ^ 64 + 2 ^ 64 - 1) % 2 ^ 64
    (c + old / 2 ^ 64 * 2 ^ 64, some (c + old / 2 ^ 64 * 2 ^ 64))

/-- The operation is an atomic. -/
def AccOp.atomic : AccOp → Bool
  | .load => false
  | .store _ => false
  | _ => true

/-- An access performed where it is serialised: the home slice, the owning core or the host (R108, R129, R220). One to host memory is
performed whole, in one step: DESIGN CHOICE (assumption log 92), R210 promises its 8-byte parts. -/
def State.performOp (s : State) (o : Origin) (wdie : Option Nat) (pa n : Nat) (op : AccOp) : State × Answer :=
  if s.poisoned pa n ∧ (op = .load ∨ op.atomic) then (s, .fault { code := 0x12 })
  else
    let (v, new) := op.apply n (s.memNat pa n)
    match new with
    | none => (s.overLink (bindTen o.bind) pa, .data v)
    | some x => ((s.performLine o wdie op.atomic pa (bytesOfNat n x)).notify o o.csc (linesOf pa n), .data v)

/-- The lines of an atomic in the open chunk (R220). -/
def State.noteAtomic (s : State) (pl : Place) (n : Nat) : State :=
  let at_ := fun (pa : Nat) => s.modCur fun t => { t with chunk := t.chunk.map fun ck =>
    { ck with atoms := (linesOf pa n).foldl insertNat ck.atoms } }
  match pl with
  | .own pa => at_ pa
  | .other _ pa => at_ pa
  | .dev pa => at_ pa
  | _ => s

/-- An atomic operation of the issuing thread at a place (R220): inside the chunk as a load and a store where its scope is no
wider than CSC, and otherwise a step performed where the location is serialised. -/
def State.atomicAt (s : State) (p : Word) (n ord sc : Nat) (op : AccOp) (pl : Place) (k : State → Nat → State) : State :=
  let host := match pl with
    | .host _ => true
    | _ => false
  if sc ≤ s.ctx.pre.csc ∧ !host then
    (s.noteAtomic pl n).readAt p n 0 pl fun s old =>
      let (v, new) := op.apply n old
      match new with
      | none => k s v
      | some x => s.writeAt p n 0 x pl fun s => k s v
  else
    s.asStep fun s =>
      let go := fun (s : State) =>
        let far := fun (s : State) (dst pa : Nat) => s.answered fun s a =>
          match a with
          | some v => k s v
          | none => s.unlessSolo (linesOf pa n) fun s => s.await dst (.access pa n 0 op) p
        match pl with
        | .own pa => s.unlessSolo (linesOf pa n) fun s =>
            match s.performOp s.origin (some (dieOf s.ctx.core)) pa n op with
            | (s, .data v) => k s v
            | (s, .fault f) => s.takeFault f
            | (s, _) => s
        | .other c pa => far s c pa
        | .dev pa => far s (s.firstSlice s.ctx.core (ptrAddr p)) pa
        | .host pa => far s (s.firstSlice s.ctx.core (ptrAddr p)) pa
        | _ => s
      if ord / 2 = 1 then s.fenced sc go else go s

/-- An atomic (R219). Host memory takes amoadd, amoswap and amocas only (R112). -/
def amoOp (f : AM) (opc : Nat) (s : State) : Host.Outcome State Fault Refusal :=
  half f.pn f.pg s fun s =>
    let n := sizeOf f.sz
    let p := s.eaAmo f
    s.atPlace p n true { acc := false } fun s pl =>
      let refused := match pl with
        | .host _ => !(opc == 0x64 || opc == 0x6C || opc == 0x6D)
        | _ => false
      if refused then s.faultCode 0x03
      else
        s.atomicAt p n f.ord.toNat f.sc.toNat (.amo opc (lowBytes (s.rg f.rb) n) (lowBytes (s.rg f.rd) n)) pl
          fun s v => s.wg f.rd (sextW (BitVec.ofNat 64 v) (8 * n))

def execAmoadd (f : AM) (s : State) : Host.Outcome State Fault Refusal := amoOp f 0x64 s
def execAmoand (f : AM) (s : State) : Host.Outcome State Fault Refusal := amoOp f 0x65 s
def execAmoor (f : AM) (s : State) : Host.Outcome State Fault Refusal := amoOp f 0x66 s
def execAmoxor (f : AM) (s : State) : Host.Outcome State Fault Refusal := amoOp f 0x67 s
def execAmomin (f : AM) (s : State) : Host.Outcome State Fault Refusal := amoOp f 0x68 s
def execAmomax (f : AM) (s : State) : Host.Outcome State Fault Refusal := amoOp f 0x69 s
def execAmominu (f : AM) (s : State) : Host.Outcome State Fault Refusal := amoOp f 0x6A s
def execAmomaxu (f : AM) (s : State) : Host.Outcome State Fault Refusal := amoOp f 0x6B s
def execAmoswap (f : AM) (s : State) : Host.Outcome State Fault Refusal := amoOp f 0x6C s
def execAmocas (f : AM) (s : State) : Host.Outcome State Fault Refusal := amoOp f 0x6D s

/-! ### Fences, chunks, prefetch -/

/-- fence (R221, R136, R137): a step that waits until it is met. -/
def execFence (f : AM) (s : State) : Host.Outcome State Fault Refusal :=
  half f.pn f.pg s fun s => s.asStep fun s => s.fenced f.sc.toNat id

/-- chunk (R222): a step; the scope and the budget apply from the next chunk. -/
def execChunk (f : AI) (s : State) : Host.Outcome State Fault Refusal :=
  half f.pn f.pg s fun s => s.asStep fun s => s.modCur fun t =>
    { t with
      budget := if fld f.imm 5 11 = 0 then t.budget else fld f.imm 5 11,
      tsw := if fld f.imm 4 1 = 1 then setFld t.tsw 19 4 (BitVec.ofNat 64 (fld f.imm 0 4)) else t.tsw }

/-- The line of a prefetch requested at its first slice (R107, R223): into its home slice; a line of another die is fetched into the bank
of the slice's quadrant where it is not there yet. -/
def State.prefLine (s : State) (va pa hint : Nat) : State :=
  let c := s.firstSlice s.ctx.core va
  let line := pa / 64 * 64
  let e := s.fat (pa / Config.dieBytes) (pa % Config.dieBytes / Config.frameBytes)
  match s.homeOf e pa with
  | none => s
  | some h =>
    if pa / Config.dieBytes = dieOf c then s.l2Touch h (fatTen e) line 64 hint false
    else if (s.bankLine c (pa / 64)).any fun l => l.has 0 64 then s.bankUse c (pa / 64) hint
    else s.send { id := 0, src := c, dst := h, dmod := s.modid, ten := bindTen s.cur.bind, body := .rfill c line 64 hint 0 }

/-- pref (R223): requests the line of its address; a translation that the first slice lacks is walked at once. It is dropped on an
aperture, on host memory, on a page fault and where the access would fault. -/
def execPref (f : AM) (s : State) : Host.Outcome State Fault Refusal :=
  half f.pn f.pg s fun s =>
    let va := ptrAddr (s.ea f 1)
    let ten := bindTen s.cur.bind
    let at_ := fun (s : State) =>
      match s.translate s.ctx.core ten va .read with
      | .pa pa => if isDevice pa then some (s.prefLine va pa f.hint.toNat) else none
      | _ => none
    if va < 2 ^ 56 then
      match s.translate s.ctx.core ten va .read with
      | .walk =>
        match s.walkDone (s.firstSlice s.ctx.core va) ten va .read with
        | .ok s' => (at_ s').getD s
        | .error _ => s
      | _ => (at_ s).getD s
    else s

end Sys2Proof.Machine
end

