-- ==== Sys2Proof/Machine/Sync.lean ====
section
/-! DEFINITION. The full/empty family (R215 to R217), the tags (R224), the inbox registers (R225 to R227). -/

namespace Sys2Proof.Machine

/-! ### Answers -/

/-- The answer of an access reaches its thread (R29): it is kept for the reissue of the bundle, and the thread is woken. A
thread that no longer waits on that access is left alone. -/
def State.deliver (s : State) (o : Origin) (acc : Nat) (a : Answer) : State :=
  match s.bound o with
  | none => s
  | some t =>
    match t.acc with
    | none => s
    | some x =>
      if x.id = acc ∧ x.ans = .none then
        (s.modThr o.core o.slot fun t => { t with acc := some { x with ans := a } }).wake o.core o.slot
      else s

/-- An answer sent back to the core of the thread: at once where it waits on the same core. -/
def State.reply (s : State) (src : Nat) (o : Origin) (acc : Nat) (a : Answer) : State :=
  if src = o.core then s.deliver o acc a
  else s.send { id := 0, src := src, dst := o.core, dmod := s.modid, ten := bindTen o.bind, org := o, body := .answer acc a }

/-! ### Full/empty words -/

/-- The word at a physical address is full (R99). -/
def State.isFull (s : State) (pa : Nat) : Bool := s.full.contains pa
/-- The word's bit set. -/
def State.setBit (s : State) (pa : Nat) (b : Bool) : State :=
  { s with full := if b then insertNat s.full pa else removeNat s.full pa }

/-- The condition to proceed of a full/empty operation (R215); afetch waits as ldfk does (R357). -/
def State.feReady (s : State) (opc pa : Nat) : Bool :=
  match opc with
  | 0x5C => s.isFull pa
  | 0x5D => s.isFull pa
  | 0x5E => !s.isFull pa
  | 0xA6 => s.isFull pa
  | _ => true

/-- A full/empty operation performed (R215): the state and the value of its answer. The word's write is a step's write (R127). -/
def State.feDo (s : State) (o : Origin) (opc pa data : Nat) : State × Nat :=
  let w := s.memNat pa 8
  let put := fun (s : State) => (s.performLine o none false pa (bytesOfNat 8 data)).notify o o.csc (linesOf pa 8)
  match opc with
  | 0x5C => (s.setBit pa false, w)
  | 0x5D => (s, w)
  | 0x5E => ((put s).setBit pa true, 0)
  | 0x5F => ((put s).setBit pa true, 0)
  | 0x60 => (s, if s.isFull pa then 1 else 0)
  | 0xA6 => (s, w)
  | _ => (s.setBit pa (data % 2 == 1), 0)

/-- The serve scan of a word (R216): the oldest entry whose condition holds is performed and freed, until none holds. A parked ste whose
notice would reach the solo chunk is left until the token is released (R127). -/
def State.serve (s : State) (c pa : Nat) : Nat → State
  | 0 => s
  | n + 1 =>
    let k := s.core c
    let held := fun (p : Park) => p.opc == 0x5E && s.soloBlocks p.org.core p.org.uid p.org.csc (linesOf pa 8)
    match k.parks.find? fun p => p.word == pa && s.feReady p.opc pa && !held p with
    | none => s
    | some p =>
      let s := s.setCore c { k with parks := k.parks.filter fun q => q.acc != p.acc }
      let (s, v) := s.feDo p.org p.opc pa p.data
      State.serve (s.reply c p.org p.acc (.data v)) c pa n

/-- A word's data or bit has changed: its entries are served (R216). -/
def State.served (s : State) (c pa : Nat) : State := s.serve c pa 33

/-- A full/empty request at the owning core (R216, R217): performed, parked, or refused with a retry. -/
def State.feRequest (s : State) (c : Nat) (o : Origin) (acc opc pa data : Nat) : State × Answer :=
  if s.feReady opc pa then
    let (s, v) := s.feDo o opc pa data
    (s.served c pa, .data v)
  else if (s.core c).parks.length < 32 then
    (s.modCore c fun k => { k with parks := k.parks ++ [{ org := o, acc := acc, opc := opc, word := pa, data := data }] }, .none)
  else (s, .retry)

/-- The retry limit of a core (R217). -/
def State.retryLimit (s : State) (c : Nat) : Nat := (s.core c).retry

/-- A refused request counts, and its bundle is issued again (R217). -/
def State.refused (s : State) : State := (s.modCur fun t => { t with refusals := t.refusals + 1 }).withRes .again

/-- A refusal count at the limit is the retry limit fault (R217, R248). -/
def State.underLimit (s : State) (addr : Word) (opc : Nat) (body : State → State) : State :=
  let n := s.cur.refusals
  if s.retryLimit s.ctx.core ≤ n then
    s.takeFault { code := 0x08, addr := addr, aux0 := BitVec.ofNat 64 n, aux1 := BitVec.ofNat 64 opc }
  else body s

/-- An accepted request ends the count. -/
def State.counted (s : State) : State := s.modCur fun t => { t with refusals := 0 }

/-- ste, stf and feset act as release; ldf, ldfk and fest as acquire only (R134, R215). -/
def releases (opc : Nat) : Bool := opc == 0x5E || opc == 0x5F || opc == 0x61

/-- A full/empty instruction (R215): a step; release and acquire at the smallest scope with the owning core (R134). It is no load, so
that read footprints hold it as write footprints do (R119). -/
def feOp (f : AM) (opc : Nat) (s : State) (k : State → Nat → State) : Host.Outcome State Fault Refusal :=
  half f.pn f.pg s fun s =>
    let n := sizeOf f.sz
    let p := s.ea f n
    s.atPlace p n true { virt := false, acc := false } fun s pl =>
      s.asStep fun s =>
        let data := (s.rg f.rd).toNat
        let run := fun (s : State) (c pa : Nat) =>
          s.answered fun s a =>
            match a with
            | some v => k s.counted v
            | none =>
              s.underLimit p opc fun s =>
                (if releases opc then s.fenced (scopeBetween s.ctx.core c) else fun (b : State → State) => b s) fun s =>
                  (if opc = 0x5E ∨ opc = 0x5F ∨ opc = 0x5C ∨ opc = 0x61 then s.unlessSolo (linesOf pa n) else fun b => b s) fun s =>
                    if c = s.ctx.core then
                      if n = 64 then
                        k ((List.range 8).foldl (fun s i => ((s.feDo s.origin opc (pa + 8 * i) data).1).served c (pa + 8 * i)) s).counted 0
                      else
                        let id := s.fresh
                        match s.bump.feRequest c s.origin id opc pa data with
                        | (s, .data v) => k s.counted v
                        | (s, .retry) => s.refused
                        | (s, _) =>
                          (s.modCur fun t => { t with acc := some { id := id, addr := p, since := s.cycle, ans := .none }, refusals := 0 }).retry
                            (.park pa) p
                    else s.await c (.fe (if n = 64 then opc + 256 else opc) pa data) p
        match pl with
        | .own pa => run s s.ctx.core pa
        | .other c pa => run s c pa
        | _ => s.faultCode 0x03

def execLdf (f : AM) (s : State) : Host.Outcome State Fault Refusal :=
  feOp f 0x5C s fun s v => s.wg f.rd (BitVec.ofNat 64 v)
def execLdfk (f : AM) (s : State) : Host.Outcome State Fault Refusal :=
  feOp f 0x5D s fun s v => s.wg f.rd (BitVec.ofNat 64 v)
def execSte (f : AM) (s : State) : Host.Outcome State Fault Refusal := feOp f 0x5E s fun s _ => s
def execStf (f : AM) (s : State) : Host.Outcome State Fault Refusal := feOp f 0x5F s fun s _ => s
def execFest (f : AM) (s : State) : Host.Outcome State Fault Refusal :=
  feOp f 0x60 s fun s v => s.wg f.rd (BitVec.ofNat 64 v)
def execFeset (f : AM) (s : State) : Host.Outcome State Fault Refusal := feOp f 0x61 s fun s _ => s

/-! ### Tags (R224) -/

/-- tagwait: waits until every bit of the mask is set. -/
def execTagwait (f : AR) (s : State) : Host.Outcome State Fault Refusal :=
  half f.pn f.pg s fun s => s.asStep fun s =>
    let m := s.rg f.ra
    if s.own.tags &&& m = m then s else s.retry (.tags m false) m
/-- tagany: waits until a bit of the mask is set, or not at all for a mask of 0. -/
def execTagany (f : AR) (s : State) : Host.Outcome State Fault Refusal :=
  half f.pn f.pg s fun s => s.asStep fun s =>
    let m := s.rg f.ra
    if m = 0 ∨ s.own.tags &&& m ≠ 0 then s.wg f.rd (s.own.tags &&& m) else s.retry (.tags m true) m
/-- tagff: the lowest set bit, or 64. -/
def execTagff (f : AR) (s : State) : Host.Outcome State Fault Refusal :=
  half f.pn f.pg s fun s => s.asStep fun s =>
    s.wg f.rd (BitVec.ofNat 64 (ctzW (s.own.tags &&& s.rg f.ra)))
/-- tagclr. -/
def execTagclr (f : AR) (s : State) : Host.Outcome State Fault Refusal :=
  half f.pn f.pg s fun s => s.asStep fun s =>
    let m := s.rg f.ra
    s.modOwn fun k => { k with tags := k.tags &&& ~~~m }

/-! ### Inbox registers (R225 to R227) -/

/-- post: a held effect. -/
def execPost (f : AR) (s : State) : Host.Outcome State Fault Refusal :=
  half f.pn f.pg s fun s =>
    let t := s.rg f.ra
    if s.targetOk t 25 then s.effect (.post t (s.rg f.rb) 0x7C) else s.faultCode 0x03

/-- take: a step; an empty register is waited for, and threads are served in the order in which their waits began. -/
def execTake (f : AR) (s : State) : Host.Outcome State Fault Refusal :=
  half f.pn f.pg s fun s => s.asStep fun s =>
    let i := f.fn.toNat % 32
    match s.cur.acc with
    | some { ans := .data v, .. } => (s.modCur fun t => { t with acc := none }).wg f.rd (BitVec.ofNat 64 v)
    | _ =>
      match Tab.find s.own.inbox i with
      | some v => (s.modOwn fun k => { k with inbox := Tab.del k.inbox i }).wg f.rd v
      | none =>
        (s.modCur fun t => { t with acc := some { id := 0, addr := 0, since := s.cycle, ans := .none } }).retry (.take i) 0

/-- peek: the value of register i, 0 when it is empty. -/
def execPeek (f : AR) (s : State) : Host.Outcome State Fault Refusal :=
  half f.pn f.pg s fun s => s.wg f.rd (Tab.findD s.own.inbox (f.fn.toNat % 32) 0)
/-- peek.m: the 32 presence bits. -/
def execPeekM (f : AR) (s : State) : Host.Outcome State Fault Refusal :=
  half f.pn f.pg s fun s =>
    s.wg f.rd (BitVec.ofNat 64 (s.own.inbox.foldl (fun x (i, _) => x + 2 ^ i) 0))

end Sys2Proof.Machine
end

