-- ==== Sys2Proof/Machine/Launch.lean ====
section
/-! DEFINITION. Launches as the intake and the cores see them: records (R375), grants (R378), the intake's reads and writes
(R377, R460), the end of a root (R45, R46), the start of a thread (R31, R379), handle pins (R312 to R314, R328). -/

namespace Sys2Proof.Machine

/-! ### Reads and writes of the hub for a tenant -/

/-- The hub's translation for a tenant (R377, R379, R460), as a thread's access is translated, without a translation cache and by the
tenant record of die 0 (DESIGN CHOICE, assumption log 77): the physical address, or a page request, or a fault. Of the apertures it reaches
0xF2, the local memory of a core that admits the tenant. -/
def State.hubPa (s : State) (t va : Nat) (k : Kind) : Except (Option FaultInfo) Nat :=
  if 2 ^ 56 ≤ va then
    let c := va % 2 ^ 48 / 2 ^ 18
    if va / 2 ^ 48 % 256 = 0xF2 ∧ s.admits c t then
      .ok (Config.localBase + c * Config.localBytes + va % 2 ^ 18)
    else .error (some { code := 0x03 })
  else
  match s.walk 0 t va k with
  | .page => .error none
  | .fault f => .error (some f)
  | .leaf _ _ base shift =>
    let pa := s.fromHost 0 t (base + va % 2 ^ shift)
    if isDevice pa then
      if shift ≠ 21 ∧ shift ≠ 30 then .error (some { code := 0x03, aux0 := 5 })
      else
        let f := pa % Config.dieBytes / Config.frameBytes
        let e := s.fat (pa / Config.dieBytes) f
        if fatState e = 1 ∧ fatTen e = t then
          match s.homeOf e pa with
          | some _ => .ok pa
          | none => .error (some { code := 0x03 })
        else .error (some { code := 0x03, aux0 := 6, aux1 := BitVec.ofNat 64 f })
    else .ok pa

/-- The pieces of n bytes at an address in pages of 4 KiB: first address and bytes. -/
def pagePieces (a n : Nat) : List (Nat × Nat) :=
  (List.range ((a + n + 4095) / 4096 - a / 4096)).map fun i =>
    let lo := max a ((a / 4096 + i) * 4096)
    (lo, min (a + n) ((a / 4096 + i + 1) * 4096) - lo)

/-- The bytes of pieces read in turn; the first that may not be read decides. -/
def State.hubPieces (s : State) (t : Nat) : List (Nat × Nat) → Except (Option FaultInfo) (List Byte)
  | [] => .ok []
  | x :: l =>
    match s.hubPa t x.1 .read with
    | .error e => .error e
    | .ok pa =>
      match s.hubPieces t l with
      | .error e => .error e
      | .ok bs => .ok (Mem.readN s.mem pa x.2 ++ bs)

/-- Bytes that the hub reads for a tenant from shared virtual memory, or from a core's local memory through a pointer that
names it; a read may not be refused halfway. -/
def State.hubRead (s : State) (t : Nat) (p : Word) (n : Nat) : Except (Option FaultInfo) (List Byte) :=
  let a := ptrAddr p
  if a < 2 ^ 56 then s.hubPieces t (pagePieces a n)
  else
    let c := a % 2 ^ 48 / 2 ^ 18
    if a / 2 ^ 48 % 256 = 0xF2 ∧ c < Config.cores ∧ s.admits c t ∧ a % 2 ^ 18 + n ≤ Config.localBytes then
      .ok (Mem.readN s.mem (Config.localBase + c * Config.localBytes + a % 2 ^ 18) n)
    else .error (some { code := 0x03 })

/-- The page table entries that the hub's reads or writes of n bytes for a tenant use get A, and D for a write, as a thread's access
sets them (R392, R460); a page that may not be accessed sets none. -/
def State.hubUsed (s : State) (t : Nat) (p : Word) (n : Nat) (k : Kind) : State :=
  if 2 ^ 56 ≤ ptrAddr p then s
  else
    (pagePieces (ptrAddr p) n).foldl (fun s x =>
      match s.hubPa t x.1 k, s.walk 0 t x.1 k with
      | .ok pa, .leaf a pte _ _ =>
        let s := if k = .read then s.overLink t pa else s
        if s.mem64 a = pte then s else (s.overLink t a).agentPut a pte
      | _, _ => s) s

/-- Where a pointer of a thread on a core lies in a core's local memory, for n bytes (R97, R98, R244, R383). -/
def State.localOf (s : State) (c ten : Nat) (p : Word) (n : Nat) : Option (Nat × Nat) :=
  match s.spaceOf c ten p with
  | .ok (.loc k o) => if o + n ≤ s.reachOf c ten p (.loc k o) then some (k, o) else none
  | _ => none

/-- The 64-bit word of bytes at an index. -/
def wordAt (bs : List Byte) (i : Nat) : Word := BitVec.ofNat 64 (natOfBytes ((bs.drop (8 * i)).take 8))

/-- The words of bytes. -/
def wordsOf (bs : List Byte) (n : Nat) : List Word := (List.range n).map (wordAt bs)

/-- A write of the hub for a tenant, one aligned access of n bytes. -/
def State.hubWrite (s : State) (t : Nat) (p : Word) (n : Nat) (v : Nat) : Except (Option FaultInfo) State :=
  match s.hubPa t (ptrAddr p) .write with
  | .error e => .error e
  | .ok pa => .ok (((s.hubUsed t p n .write).performLine { bind := BitVec.ofNat 64 (t * 2 ^ 26) } none false pa (bytesOfNat n v)).notify
      { core := 0, csc := 7, bind := BitVec.ofNat 64 (t * 2 ^ 26) } 7 (linesOf pa n))

/-! ### Records of launches (R375) -/

/-- Word w of a launch record. -/
def Launch.w (l : Launch) (i : Nat) : Word := l.words.getD i 0
/-- LID. -/
def Launch.lid (l : Launch) : Nat := fld (l.w 2) 32 32
/-- ROOTS. -/
def Launch.roots (l : Launch) : Nat := fld (l.w 2) 0 32
/-- TEN. -/
def Launch.ten (l : Launch) : Nat := fld (l.w 3) 25 6
/-- CLS. -/
def Launch.cls (l : Launch) : Nat := fld (l.w 3) 23 2
/-- HK. -/
def Launch.hk (l : Launch) : Bool := (l.w 3).getLsbD 36
/-- CSCOPE. -/
def Launch.cscope (l : Launch) : Nat := fld (l.w 3) 32 4
/-- SD. -/
def Launch.sd (l : Launch) : Nat := fld (l.w 3) 19 4
/-- RAD. -/
def Launch.rad (l : Launch) : Nat := fld (l.w 3) 14 5
/-- LMEM. -/
def Launch.lmem (l : Launch) : Nat := fld (l.w 5) 0 20
/-- ACC. -/
def Launch.acc (l : Launch) : Nat := fld (l.w 5) 20 18
/-- SSTK. -/
def Launch.sstk (l : Launch) : Nat := fld (l.w 6) 38 16
/-- FTGT. -/
def Launch.ftgt (l : Launch) : Word := l.w 7

/-- The accepted launch of a binding, not yet complete. -/
def State.launchOf (s : State) (bind : Word) : Option Launch :=
  s.hub.launches.find? fun l => l.lid == bindLid bind && l.ten == bindTen bind && l.st != .complete
/-- A message of a binding's launch is held at a core (R389): the launch is saved, or its stop is under way and the core's part is saved
already. -/
def State.holds (s : State) (b : Word) (c : Nat) : Bool :=
  match s.launchOf b with
  | some l =>
    match l.st with
    | .saved => true
    | .stopping _ => l.saved.any fun v => v.core == c
    | _ => false
  | none => false
/-- The launch record of a binding; that of a peer module's launch, which only the peer has read, is a free value (assumption log 63). -/
def State.launchRec (s : State) (bind : Word) : Launch :=
  match s.launchOf bind with
  | some l => l
  | none => { num := 0, ptr := 0, words := (List.range 8).map fun i => Config.peerLaunchWord (bindLid bind) (bindTen bind) i }

/-- A message answered with a hold is offered again 64 cycles later, without limit (R389). -/
def State.hold (s : State) (m : Nat) : State := s.modMsg m fun x => { x with stage := .wait (s.cycle + 64), held := true }
/-- A launch by its number. -/
def State.launch (s : State) (n : Nat) : Option Launch := s.hub.launches.find? fun l => l.num == n
/-- The state with a launch changed. -/
def State.modLaunch (s : State) (n : Nat) (f : Launch → Launch) : State :=
  s.modHub fun h => { h with launches := h.launches.map fun l => if l.num = n then f l else l }

/-- The frame of a cluster's save extent (R388), from the save table. -/
def State.saveFrame (s : State) (l : Launch) (cl : Nat) : Option Nat :=
  match s.hubRead l.ten (l.w 12 + BitVec.ofNat 64 (8 * cl)) 8 with
  | .ok bs =>
    let w := wordAt bs 0
    if w.getLsbD 63 ∧ fld w 17 46 = 0 ∧ fld w 0 17 % 256 = cl % 256 ∧ fld w 0 17 + 1280 ≤ 98303 then some (fld w 0 17) else none
  | .error _ => none

/-! ### Grants (R378) -/

/-- Memory without the cells of an interval: it reads as zero. -/
def Mem.clear (m : List Host.Cell) (lo n : Nat) : List Host.Cell :=
  m.filter fun x => decide (x.1 < lo) || decide (lo + n ≤ x.1)

/-- The header word and the image offset of the code object of a launch's entry (R433, R435): the first bundle, LSIZE, the
address of the .local image. -/
def State.objectOf (s : State) (t : Nat) (entry : Word) : Except (Option FaultInfo) (List Word) :=
  match s.hubRead t (BitVec.ofNat 64 (ptrAddr entry - 64)) 64 with
  | .ok bs => .ok (wordsOf bs 8)
  | .error e => .error e

/-- The entry code of a launch (R375, R435): ENTRY, or CODE of the original entry of its handle, or of a residual's source. -/
def State.entryCode (s : State) (t : Nat) (entry : Word) (hk : Bool) : Word :=
  if hk then
    let base := (s.tenantWord t 0).toNat
    let a := base + 32 * fld entry 0 24
    if fld (s.mem64 (a + 8)) 10 2 = 1 then s.mem64 (base + 32 * fld (s.mem64 (a + 16)) 32 24) else s.mem64 a
  else entry

/-- The .local image of a launch written at offset 0 of a core's local memory (R179), into the overflow window where it reaches that far
(R383); the words stay empty. An image that cannot be read is left out, and the grant is taken all the same: DESIGN CHOICE (assumption
log 74), R179 is silent there. -/
def State.writeImage (s : State) (c : Nat) (l : Launch) : State :=
  let code := s.entryCode l.ten (l.w 0) l.hk
  match s.objectOf l.ten code with
  | .error _ => s
  | .ok h =>
    let lsize := fld (h.getD 5 0) 0 19
    let off := max ((h.getD 3 0).toNat + (h.getD 4 0).toNat) (16 * fld (h.getD 2 0) 0 32)
    let p := BitVec.ofNat 64 (ptrAddr code + off)
    match s.hubRead l.ten p lsize with
    | .error _ => s
    | .ok bs =>
      let s := s.hubUsed l.ten p lsize .read
      let runs := s.locRuns c 0 bs.length
      let s : State := { s with mem := Mem.writeRuns s.mem runs bs }
      runs.foldl (fun s r => if isDevice r.1 then s.dropCopies r.1 r.2 else s) s

/-- A core takes a launch's grant (R378): the granted local memory reads as zero and empty (R99), barriers are 0 (R245), both
latches are EMPTY (R293), gang mode is off (R253), for the whole gang even where the same launch has turned it on: DESIGN CHOICE (assumption
log 93), R378 takes grants core by core and the mode is the gang's; and the image is written (R179). -/
def State.takeGrant (s : State) (c : Nat) (l : Launch) : State :=
  match (s.core c).grant with
  | some _ => s
  | none =>
    let base := Config.localBase + c * Config.localBytes
    let fr := (s.saveFrame l (clusterOf c)).getD 0
    let s := s.modCore c fun k =>
      { k with grant := some { launch := l.num, lid := l.lid, ten := l.ten, lmem := l.lmem, acc := l.acc, frame := fr }, bars := [],
               latch0 := {}, latch1 := {} }
    let win := l.lmem - Config.localBytes
    let wa := saveAddr c fr 524288
    let s := { s with
      gangs := removeNat s.gangs (gangOf c),
      mem := Mem.clear (Mem.clear s.mem base (min l.lmem Config.localBytes)) wa win,
      full := s.full.filter fun x =>
        !(decide (base ≤ x) && decide (x < base + min l.lmem Config.localBytes)) && !(decide (wa ≤ x) && decide (x < wa + win)) }
    s.writeImage c l

/-- The core is about to accept work of a launch: it takes the launch's grant when it holds none (R378). -/
def State.grantFor (s : State) (c : Nat) (bind : Word) : State :=
  match s.launchOf bind with
  | some l => s.takeGrant c l
  | none => s

/-- A binding is of launch id lid of tenant ten. -/
def ofLaunch (lid ten : Nat) (b : Word) : Bool := bindLid b == lid && bindTen b == ten

/-- A token of the launch that was routed from the core has not come back (R346, R359): what it finds there on its return is the grant it
left. The core keeps the grant for it: DESIGN CHOICE (assumption log 86), R378 does not name such a token and the worked run needs it. -/
def State.awayWork (s : State) (c lid ten : Nat) : Bool :=
  let q := fun (bind : Word) (homes : List Nat) => homes.contains c && ofLaunch lid ten bind
  let ctx := fun (x : Context) => q x.bind x.homes
  s.threads.any (fun x => q x.2.bind x.2.homes) || s.cores.any (fun x => x.2.frames.any ctx) ||
  s.net.any (fun m => m.body.theContext.any ctx) ||
  s.dies.any (fun d => d.2.txns.any fun t => t.2.lists.any (fun l => l.2.1.any ctx) || t.2.out.any fun b => b.toks.any ctx) ||
  s.hub.launches.any (fun l => l.saved.any fun v =>
    v.threads.any (fun x => q x.2.bind x.2.homes) || v.img.frames.any ctx || v.port.any fun m => m.body.theContext.any ctx)

/-- The core holds a thread, task, channel message, frame or command of the launch, or a token of it is to come back. -/
def State.holdsWork (s : State) (c lid ten : Nat) : Bool :=
  let k := s.core c
  (List.range 16).any (fun i =>
    match s.thr c i with
    | some t => ofLaunch lid ten t.bind
    | none => false) ||
  k.deque.any (fun t => ofLaunch lid ten t.bind) || k.remote.any (fun t => ofLaunch lid ten t.1.bind) ||
  k.chans.any (fun x => x.2.pend.any fun t => ofLaunch lid ten t.1.bind) ||
  k.frames.any (fun x => ofLaunch lid ten x.bind) || k.cmds.any (fun x => ofLaunch lid ten x.org.bind) || s.awayWork c lid ten

/-- The vault under a cluster is taking a pre-emption save (R450). -/
def State.saving (s : State) (vt : Nat) : Bool := s.hub.launches.any fun l =>
  match l.st with
  | .stopping left => left.any fun c => clusterOf c == vt
  | _ => false

/-- The grant is released when nothing of its launch remains on the core (R378). -/
def State.checkGrant (s : State) (c : Nat) : State :=
  match (s.core c).grant with
  | none => s
  | some g =>
    let savedHere := match s.launch g.launch with
      | some l => l.saved.any fun x => x.core == c
      | none => false
    if s.holdsWork c g.lid g.ten || savedHere then s else s.modCore c fun k => { k with grant := none }

/-! ### The intake's writes (R377, R46, R460) -/

/-- The lowest-numbered office core. -/
def State.lowOffice (s : State) : Nat :=
  match s.hub.mask with
  | [] => 0
  | (i, w) :: _ => 64 * i + ctzW w

/-- A write of the intake that is dropped: a record goes to the launch's fault target, none for the STATUS of a refused record
(R460); while no place for the record is free, the drop waits (R370). -/
def State.intakeDrop (s : State) (w : IntakeWrite) (code : Nat) : State :=
  match w.launch with
  | none => s
  | some n =>
    match s.launch n with
    | none => s
    | some l =>
      let tgt := if l.ftgt.getLsbD 0 then l.ftgt else 0
      let c := if l.ftgt.getLsbD 0 then 0 else s.lowOffice
      if s.recordsFull c then
        s.modHub fun h => { h with writes := h.writes ++ [{ w with paged := false, next := s.cycle + 64, drop := some code }] }
      else s.raiseRecord c {
        code := code, orphan := true, ten := l.ten, cls := l.cls, addr := w.addr,
        aux0 := BitVec.ofNat 64 l.lid, aux1 := BitVec.ofNat 64 w.what, stamp := s.cycle, ftgt := tgt }

/-- One of the intake's own writes: performed, kept for its page, or dropped with a record to the launch's fault target. -/
def State.intakeWrite (s : State) (w : IntakeWrite) : State :=
  let n := if w.what = 2 then 1 else 8
  let val := fun (s : State) =>
    if w.what = 2 then
      match s.hubPa w.ten (ptrAddr w.addr) .read with
      | .ok pa => (Mem.read s.mem pa ||| BitVec.ofNat 8 w.val.toNat).toNat
      | .error _ => w.val.toNat
    else w.val.toNat
  let wrote : Except (Option FaultInfo) State := match w.pa with
    | some pa => .ok ((s.performLine { bind := BitVec.ofNat 64 (w.ten * 2 ^ 26) } none false pa (bytesOfNat n w.val.toNat)).notify
        { core := 0, csc := 7, bind := BitVec.ofNat 64 (w.ten * 2 ^ 26) } 7 (linesOf pa n))
    | none => s.hubWrite w.ten w.addr n (val s)
  match wrote with
  | .ok s => s
  | .error none =>
    let who := Waiter.intake (w.launch.getD 0) w.what
    ((s.pageRequest 0 w.ten 0 (ptrAddr w.addr) .write who).getD (s.holdRequest 0 w.ten 0 (ptrAddr w.addr) .write who)).modHub fun h =>
      { h with writes := h.writes ++ [{ w with paged := true }] }
  | .error (some f) => s.intakeDrop w f.code

/-! ### The end of a root (R45, R46) -/

/-- A binding and root index are those of a root. -/
def ofRoot (lid ten root : Nat) (b : Word) (r : Nat) : Bool := ofLaunch lid ten b && r == root

/-- The message carries work of the root. -/
def Body.ofRoot (b : Body) (lid ten root : Nat) : Bool :=
  let q := Machine.ofRoot lid ten root
  match b with
  | .callat t _ _ => q t.bind t.root
  | .chan _ t _ _ _ => q t.bind t.root
  | .fork t => q t.bind t.root
  | .context c => q c.bind c.root
  | .stealRep (some t) => q t.bind t.root
  | .routeIn c => q c.bind c.root
  | .routedBack c => q c.bind c.root
  | .rrow c => q c.bind c.root
  | _ => false

/-- A thread, a task, an engine command or an unacknowledged store of the root remains (R45). -/
def State.rootWork (s : State) (lid ten root : Nat) : Bool :=
  let q := Machine.ofRoot lid ten root
  s.threads.any (fun x => q x.2.bind x.2.root) ||
  s.cores.any (fun x =>
    x.2.deque.any (fun t => q t.bind t.root) || x.2.remote.any (fun t => q t.1.bind t.1.root) ||
    x.2.chans.any (fun h => h.2.pend.any fun t => q t.1.bind t.1.root) || x.2.frames.any (fun t => q t.bind t.root) ||
    x.2.cmds.any (fun t => q t.org.bind t.org.root)) ||
  s.net.any (fun m => m.body.ofRoot lid ten root ||
    (q m.org.bind m.org.root && (match m.body with
      | .durable _ _ _ => true
      | .access _ _ _ .load => false
      | .access _ _ _ _ => true
      | _ => false))) ||
  s.unacked.any (fun u => q u.org.bind u.org.root) ||
  s.dies.any (fun d => d.2.txns.any fun t =>
    t.2.lists.any (fun l => l.2.1.any fun c => q c.bind c.root) || t.2.out.any (fun b => b.toks.any fun c => q c.bind c.root)) ||
  s.hub.launches.any (fun l => l.saved.any fun v =>
    v.threads.any (fun x => q x.2.bind x.2.root) || v.img.deque.any (fun t => q t.bind t.root) ||
    v.img.remote.any (fun t => q t.1.bind t.1.root) || v.img.chans.any (fun h => h.2.pend.any fun t => q t.1.bind t.1.root) ||
    v.img.frames.any (fun t => q t.bind t.root) || v.img.cmds.any (fun t => q t.org.bind t.org.root) ||
    v.port.any (fun m => m.body.ofRoot lid ten root))

/-- A root that has nothing left is finished, and its bit of the completion bitmap is set (R45, R46). -/
def State.checkRoot (s : State) (bind : Word) (root : Nat) : State :=
  match s.launchOf bind with
  | none => s
  | some l =>
    if l.placed.contains root && !l.finished.contains root && !s.rootWork l.lid l.ten root then
      let s := s.modLaunch l.num fun l => { l with finished := insertNat l.finished root }
      if l.w 8 = 0 then s
      else s.intakeWrite { ten := l.ten, what := 2, addr := l.w 8 + BitVec.ofNat 64 (root / 8),
                           val := BitVec.ofNat 64 (2 ^ (root % 8)), scope := l.cscope, launch := some l.num, root := root }
    else s

/-! ### Code handles: validity and updates (R312 to R314, R328) -/

/-- Index and generation of a handle (R312). -/
def handleIdx (h : Word) : Nat := fld h 0 24
/-- GEN of a handle. -/
def handleGen (h : Word) : Nat := fld h 24 8

/-- The physical address of a handle's entry, where its index lies within the tenant's table (R313, R366). -/
def State.entryAddr (s : State) (t : Nat) (h : Word) : Option Nat :=
  let i := handleIdx h
  if i ≠ 0 ∧ i < fld (s.tenantWord t 1) 0 24 then some ((s.tenantWord t 0).toNat + 32 * i) else none

/-- The handle is valid: its entry is LIVE or RELEASED and of its generation (R314). -/
def State.handleValid (s : State) (t : Nat) (h : Word) : Option Nat :=
  match s.entryAddr t h with
  | none => none
  | some a =>
    let w := s.mem64 (a + 8)
    if (fld w 0 2 = 1 ∨ fld w 0 2 = 2) ∧ fld w 32 8 = handleGen h then some a else none

/-- Word 1 of an entry written, as one update at the entry's home. -/
def State.putEntry (s : State) (a : Nat) (w : Word) : State := s.agentPut (a + 8) w

/-- The reclaim of an entry with word 1 as given (R328): the generation advances, or the entry retires; a residual's arena space
is freed. -/
def State.reclaimEntry (s : State) (t : Nat) (h : Word) (a : Nat) (w : Word) : State :=
  let w' := if fld w 32 8 = 255 then setFld w 0 2 3 else setFld (setFld w 32 8 (BitVec.ofNat 64 (fld w 32 8 + 1))) 0 2 0
  (s.putEntry a w').modHub fun x => { x with arenas := x.arenas.filter fun r => !(r.ten == t && r.idx == handleIdx h) }

/-- An unpin of an entry, without the release of a generic residual's source. -/
def State.unpin1 (s : State) (t : Nat) (h : Word) : State :=
  match s.entryAddr t h with
  | none => s
  | some a =>
    let w := s.mem64 (a + 8)
    let n := fld w 40 24
    let w := setFld w 40 24 (BitVec.ofNat 64 (n - 1))
    if n - 1 = 0 ∧ fld w 0 2 = 2 then s.reclaimEntry t h a w else s.putEntry a w

/-- The reclaim with the release of the pin that a generic residual keeps on its source (R324, R328). -/
def State.reclaim (s : State) (t : Nat) (h : Word) (a : Nat) (w : Word) : State :=
  let src := BitVec.ofNat 64 (fld (s.mem64 (a + 16)) 32 32)
  let generic := w.getLsbD 4 && fld w 10 2 == 1
  let s := s.reclaimEntry t h a w
  if generic then s.unpin1 t src else s

/-- An unpin (R328). -/
def State.unpin (s : State) (t : Nat) (h : Word) : State :=
  match s.entryAddr t h with
  | none => s
  | some a =>
    let w := s.mem64 (a + 8)
    let n := fld w 40 24
    let w := setFld w 40 24 (BitVec.ofNat 64 (n - 1))
    if n - 1 = 0 ∧ fld w 0 2 = 2 then s.reclaim t h a w else s.putEntry a w

/-- A pin (R328): the entry's CODE, or the fault with the handle in auxiliary word 0. -/
def State.pin (s : State) (t : Nat) (h : Word) : State × Except FaultInfo Word :=
  let h0 := zextW h 32
  match s.handleValid t h with
  | none => (s, .error { code := 0x0A, aux0 := h0 })
  | some a =>
    let w := s.mem64 (a + 8)
    if fld w 0 2 = 2 then (s, .error { code := 0x0B, aux0 := h0 })
    else if fld w 40 24 = 2 ^ 24 - 1 then (s, .error { code := 0x0D, aux0 := h0, aux1 := 4 })
    else (s.putEntry a (setFld w 40 24 (BitVec.ofNat 64 (fld w 40 24 + 1))), .ok (s.mem64 a))

/-- A release (R328): the fault of a stale handle, or the state. -/
def State.releaseHandle (s : State) (t : Nat) (h : Word) : State × Option FaultInfo :=
  match s.handleValid t h with
  | none => (s, some { code := 0x0A, aux0 := zextW h 32 })
  | some a =>
    let w := s.mem64 (a + 8)
    if fld w 0 2 = 2 then (s, none)
    else
      let w := setFld w 0 2 2
      if fld w 40 24 = 0 then (s.reclaim t h a w, none) else (s.putEntry a w, none)

/-- The home slice of a handle's entry, where its updates are performed (R328). -/
def State.entryHome (s : State) (t : Nat) (h : Word) : Nat :=
  let a := (s.tenantWord t 0).toNat + 32 * handleIdx h
  let d := a / Config.dieBytes
  (s.homeOf (s.fat d (a % Config.dieBytes / Config.frameBytes)) a).getD (4096 * (d % 4))

/-! ### The start and the end of a thread -/

/-- A task is bound to a slot (R31, R379): the start state; with HK the thread starts as by callh with return address 0, and a
handle that may not be pinned is its fault before the first bundle (R32), behind the fault of an argument read (R379). The model's choices: the rotation key is the cycle of
binding (DESIGN CHOICE, assumption log 64); bits [63:57] of an ENTRY stay in the program counter, so that the first fetch meets the
access fault (DEDUCED, assumption log 66). -/
def State.startThread (s : State) (c k : Nat) (tk : Task) (link : Option Nat) : State :=
  let l := s.launchRec tk.bind
  let top := BitVec.ofNat 64 (0x01F0000000000000 + l.lmem - l.sstk * k)
  let ft := l.ftgt
  let g : Vector Word 16 := ((((Vector.replicate 16 (0 : Word)).set 1 tk.a0).set 2 tk.a1).set 3 tk.a2).set 4 tk.a3
  let t : Thread := {
    uid := s.fresh, g := g.set 14 top, pc := tk.entry, tsw := tswStart, bind := tk.bind, root := tk.root, ftgt := ft,
    link := link, key := s.cycle, entered := s.fresh, startFault := tk.argFault.map fun f => (f, true) }
  let s := s.bump
  if bindHk tk.bind then
    match s.pin (bindTen tk.bind) tk.entry with
    | (s, .ok code) => s.setThr c k { t with pc := zextW code 57, hs := [{ handle := zextW tk.entry 32, ret := 0 }] }
    | (s, .error f) => s.setThr c k { t with pc := 0, startFault := some (tk.argFault.getD f, true) }
  else s.setThr c k t

/-- A message of an unpin to the entry's home (R328). -/
def State.sendUnpin (s : State) (o : Origin) (h : Word) : State :=
  s.send { id := 0, src := o.core, dst := s.entryHome (bindTen o.bind) h, dmod := s.modid, ten := bindTen o.bind, org := o,
           body := .handle h 1 }

/-- A pending reply link sends 0 (R236, R242). -/
def State.replyNone (s : State) (c k : Nat) : State :=
  match s.thr c k with
  | none => s
  | some t =>
    match t.link with
    | none => s
    | some l =>
      let o : Origin := { core := c, slot := k, uid := t.uid, pc := t.pc, bind := t.bind, root := t.root, ftgt := t.ftgt }
      (s.release { org := o, eff := .reply l 0 }).modThr c k fun t => { t with link := none }

/-- The end of a thread (R242, R236, R329): a pending reply link sends 0, the handles still stacked are unpinned from the top down,
and then the slot frees; its root may be finished, and the grant of the core and of those it was routed from free (R45, R378). -/
def State.endThread (s : State) (c k : Nat) : State :=
  match s.thr c k with
  | none => s
  | some t =>
    let s := s.replyNone c k
    let s := t.hs.reverse.foldl (fun s e => s.unpin (bindTen t.bind) e.handle) s
    let s := s.dropToken c k
    t.homes.foldl State.checkGrant (((s.delThr c k).checkRoot t.bind t.root).checkGrant c)

/-- An update of a handle's entry at its home slice (R328), a step with release at MODULE, whose answer the thread waits for; an
index outside the table is stale at once. op is 0 pin, 1 unpin, 2 release. -/
def State.update (s : State) (h : Word) (op : Nat) (k : State → Word → State) : State :=
  s.asStep fun s => s.answered fun s a =>
    match a with
    | some v => k s (BitVec.ofNat 64 v)
    | none =>
      s.fenced 7 fun s =>
        match s.entryAddr (bindTen s.cur.bind) h with
        | none => s.takeFault { code := 0x0A, aux0 := zextW h 32 }
        | some _ => s.await (s.entryHome (bindTen s.cur.bind) h) (.handle h op) 0

/-- The issuing thread ends (R32, R242): the chunk before commits, a pending reply link sends 0, each stacked handle is unpinned from
the top down, one update after the other, and the slot frees when the last is performed. -/
def State.endSelf (s : State) : State :=
  s.asStep fun s =>
    let s := s.replyNone s.ctx.core s.ctx.slot
    match s.cur.hs.getLast? with
    | none => (s.endThread s.ctx.core s.ctx.slot).withRes .left
    | some e => s.update e.handle 1 fun s _ => (s.modCur fun t => { t with hs := t.hs.dropLast }).withRes .again

end Sys2Proof.Machine
end

