-- ==== Sys2Proof/Machine/Scalar.lean ====
section
/-! DEFINITION. Integer, address and control instructions (R181 to R201, R204); rdsys and wtsw (R202, R203). -/

namespace Sys2Proof.Machine

/-- A two-source instruction (R183): g[RD] := op a b. -/
def alu2 (f : AR) (op : Word → Word → Word) (s : State) : Host.Outcome State Fault Refusal :=
  half f.pn f.pg s fun s => s.wg f.rd (op (s.rg f.ra) (s.rg f.rb))

/-- A single-source instruction (R183). -/
def alu1 (f : AR) (op : Word → Word) (s : State) : Host.Outcome State Fault Refusal :=
  half f.pn f.pg s fun s => s.wg f.rd (op (s.rg f.ra))

/-- An instruction with a 32-bit immediate (R186, R187, R188). -/
def aluI (f : AI) (op : Word → BitVec 32 → Word) (s : State) : Host.Outcome State Fault Refusal :=
  half f.pn f.pg s fun s => s.wg f.rd (op (s.rg f.ra) f.imm)

/-- The signed quotient truncated toward zero; the most negative number by -1 gives itself (R185). -/
def divS (a b : Word) : Word := BitVec.ofInt 64 (a.toInt.tdiv b.toInt)
/-- The signed remainder, with the sign of a (R185). -/
def remS (a b : Word) : Word := BitVec.ofInt 64 (a.toInt.tmod b.toInt)

/-- A division (R185): a divisor of zero is the integer divide fault with the dividend in auxiliary word 0. -/
def divide (f : AR) (op : Word → Word → Word) (s : State) : Host.Outcome State Fault Refusal :=
  half f.pn f.pg s fun s =>
    if s.rg f.rb = 0 then s.takeFault { code := 0x05, aux0 := s.rg f.ra }
    else s.wg f.rd (op (s.rg f.ra) (s.rg f.rb))

/-- NOP of slot A (R158): no effect, guard ignored. -/
def execNop (s : State) : Host.Outcome State Fault Refusal := .next s

def execAdd (f : AR) (s : State) : Host.Outcome State Fault Refusal := alu2 f (· + ·) s
def execSub (f : AR) (s : State) : Host.Outcome State Fault Refusal := alu2 f (· - ·) s
def execMul (f : AR) (s : State) : Host.Outcome State Fault Refusal := alu2 f (· * ·) s
/-- mulh (R184): the high half of the signed product. -/
def execMulh (f : AR) (s : State) : Host.Outcome State Fault Refusal :=
  alu2 f (fun a b => BitVec.ofInt 64 (a.toInt * b.toInt / 2 ^ 64)) s
/-- mulhu (R184): the high half of the unsigned product. -/
def execMulhu (f : AR) (s : State) : Host.Outcome State Fault Refusal :=
  alu2 f (fun a b => BitVec.ofNat 64 (a.toNat * b.toNat / 2 ^ 64)) s
def execDiv (f : AR) (s : State) : Host.Outcome State Fault Refusal := divide f divS s
def execDivu (f : AR) (s : State) : Host.Outcome State Fault Refusal := divide f (fun a b => a / b) s
def execRem (f : AR) (s : State) : Host.Outcome State Fault Refusal := divide f remS s
def execRemu (f : AR) (s : State) : Host.Outcome State Fault Refusal := divide f (fun a b => a % b) s
def execAnd (f : AR) (s : State) : Host.Outcome State Fault Refusal := alu2 f (· &&& ·) s
def execOr (f : AR) (s : State) : Host.Outcome State Fault Refusal := alu2 f (· ||| ·) s
def execXor (f : AR) (s : State) : Host.Outcome State Fault Refusal := alu2 f (· ^^^ ·) s
def execAndn (f : AR) (s : State) : Host.Outcome State Fault Refusal := alu2 f (fun a b => a &&& ~~~b) s
/-- The shift amount: bits [5:0] of b (R183). -/
def shAmt (b : Word) : Nat := fld b 0 6
def execShl (f : AR) (s : State) : Host.Outcome State Fault Refusal := alu2 f (fun a b => a <<< shAmt b) s
def execShr (f : AR) (s : State) : Host.Outcome State Fault Refusal := alu2 f (fun a b => a >>> shAmt b) s
def execSar (f : AR) (s : State) : Host.Outcome State Fault Refusal := alu2 f (fun a b => a.sshiftRight (shAmt b)) s
/-- rot (R183): left by sh. -/
def execRot (f : AR) (s : State) : Host.Outcome State Fault Refusal := alu2 f (fun a b => a.rotateLeft (shAmt b)) s
def execMin (f : AR) (s : State) : Host.Outcome State Fault Refusal := alu2 f (fun a b => if a.slt b then a else b) s
def execMax (f : AR) (s : State) : Host.Outcome State Fault Refusal := alu2 f (fun a b => if a.slt b then b else a) s
def execMinu (f : AR) (s : State) : Host.Outcome State Fault Refusal := alu2 f (fun a b => if a.ult b then a else b) s
def execMaxu (f : AR) (s : State) : Host.Outcome State Fault Refusal := alu2 f (fun a b => if a.ult b then b else a) s
def execClz (f : AR) (s : State) : Host.Outcome State Fault Refusal := alu1 f (fun a => BitVec.ofNat 64 (clzW a)) s
def execCtz (f : AR) (s : State) : Host.Outcome State Fault Refusal := alu1 f (fun a => BitVec.ofNat 64 (ctzW a)) s
def execPopc (f : AR) (s : State) : Host.Outcome State Fault Refusal := alu1 f (fun a => BitVec.ofNat 64 (popcW a)) s
def execSext (f : AI) (s : State) : Host.Outcome State Fault Refusal := aluI f (fun a i => sextW a i.toNat) s
def execZext (f : AI) (s : State) : Host.Outcome State Fault Refusal := aluI f (fun a i => zextW a i.toNat) s

/-- The mask 2^LEN - 1 of a field immediate (R188). -/
def fieldMask (i : BitVec 32) : Word := BitVec.ofNat 64 (2 ^ fld i 6 7 - 1)

/-- bfx (R188): FN bit 0 sign-extends. -/
def execBfx (f : AI) (s : State) : Host.Outcome State Fault Refusal :=
  aluI f (fun a i =>
    let x := (a >>> fld i 0 6) &&& fieldMask i
    if f.fn.getLsbD 0 then sextW x (fld i 6 7) else x) s
/-- bfi (R188): g[RD] is both source and destination. -/
def execBfi (f : AI) (s : State) : Host.Outcome State Fault Refusal :=
  aluI f (fun a i =>
    let m := fieldMask i <<< fld i 0 6
    (s.rg f.rd &&& ~~~m) ||| ((a <<< fld i 0 6) &&& m)) s

def execAddi (f : AI) (s : State) : Host.Outcome State Fault Refusal := aluI f (fun a i => a + i.signExtend 64) s
def execMuli (f : AI) (s : State) : Host.Outcome State Fault Refusal := aluI f (fun a i => a * i.signExtend 64) s
def execAndi (f : AI) (s : State) : Host.Outcome State Fault Refusal := aluI f (fun a i => a &&& i.signExtend 64) s
def execOri (f : AI) (s : State) : Host.Outcome State Fault Refusal := aluI f (fun a i => a ||| i.signExtend 64) s
def execXori (f : AI) (s : State) : Host.Outcome State Fault Refusal := aluI f (fun a i => a ^^^ i.signExtend 64) s
def execShli (f : AI) (s : State) : Host.Outcome State Fault Refusal := aluI f (fun a i => a <<< i.toNat) s
def execShri (f : AI) (s : State) : Host.Outcome State Fault Refusal := aluI f (fun a i => a >>> i.toNat) s
def execSari (f : AI) (s : State) : Host.Outcome State Fault Refusal := aluI f (fun a i => a.sshiftRight i.toNat) s

/-- li (R189). -/
def execLi (f : AX) (s : State) : Host.Outcome State Fault Refusal :=
  half f.pn f.pg s fun s => s.wg f.rd (f.imm.signExtend 64)
/-- lih (R189): reads g[RD] as it stands before the bundle. -/
def execLih (f : AX) (s : State) : Host.Outcome State Fault Refusal :=
  half f.pn f.pg s fun s => s.wg f.rd (zextW (s.rg f.rd) 48 ||| (f.imm.setWidth 64 <<< 48))
/-- lx (R190). -/
def execLx (f : AX) (s : State) : Host.Outcome State Fault Refusal :=
  half f.pn f.pg s fun s => s.wg f.rd (zextW (s.ctx.pre.pc + f.imm.signExtend 64) 57)

/-- cmp (R191). -/
def execCmp (f : AR) (s : State) : Host.Outcome State Fault Refusal :=
  half f.pn f.pg s fun s => s.wp f.rd.toNat (condHolds f.fn.toNat (s.rg f.ra) (s.rg f.rb))
/-- cmpi (R191). -/
def execCmpi (f : AI) (s : State) : Host.Outcome State Fault Refusal :=
  half f.pn f.pg s fun s => s.wp f.rd.toNat (condHolds f.fn.toNat (s.rg f.ra) (f.imm.signExtend 64))

/-- A predicate instruction (R192). -/
def predOp (f : AR) (op : Bool → Bool → Bool) (s : State) : Host.Outcome State Fault Refusal :=
  half f.pn f.pg s fun s => s.wp f.rd.toNat (op (s.rp f.ra.toNat) (s.rp f.rb.toNat))
def execPand (f : AR) (s : State) : Host.Outcome State Fault Refusal := predOp f (fun a b => a && b) s
def execPor (f : AR) (s : State) : Host.Outcome State Fault Refusal := predOp f (fun a b => a || b) s
def execPxor (f : AR) (s : State) : Host.Outcome State Fault Refusal := predOp f (fun a b => a != b) s
def execPandn (f : AR) (s : State) : Host.Outcome State Fault Refusal := predOp f (fun a b => a && !b) s
def execPtog (f : AR) (s : State) : Host.Outcome State Fault Refusal := predOp f (fun a _ => !a) s
/-- gtop (R192): RA names a general register. -/
def execGtop (f : AR) (s : State) : Host.Outcome State Fault Refusal :=
  half f.pn f.pg s fun s => s.wp f.rd.toNat (s.rg f.ra != 0)

/-- csel (R193): the predicate FN [2:0], inverted by FN [3]. -/
def execCsel (f : AR) (s : State) : Host.Outcome State Fault Refusal :=
  half f.pn f.pg s fun s =>
    s.wg f.rd (if s.rp (fld f.fn 0 3) != f.fn.getLsbD 3 then s.rg f.ra else s.rg f.rb)

/-- addp (R194). -/
def execAddp (f : AR) (s : State) : Host.Outcome State Fault Refusal := alu2 f addPtr s

/-- Block bytes of a block format at block length 16, or 32 for the MX formats (R48, R195). -/
def blockBytes (fmt : Nat) : Nat :=
  match fmt with
  | 9 => 8
  | 10 => 12
  | 11 => 18
  | 12 => 17
  | 13 => 33
  | 14 => 6
  | _ => 0

/-- The step of pidx (R195): none where the count breaks the condition. -/
def pidxStep (p n : Word) : Option Word :=
  let f := ptrFmt p
  if f < 9 then
    some (match f with
      | 2 => n * 2
      | 6 => n * 2
      | 7 => n * 2
      | 3 => n * 4
      | 8 => n * 4
      | _ => n)
  else
    let k := f != 12 && f != 13
    let l : Nat := if k then (if fmtBlkOk f (ptrBlk p) then 2 ^ ptrBlk p else 16) else 32
    let g : Nat := if k && l == 32 then 2 * blockBytes f else blockBytes f
    if n.toInt % (l : Int) = 0 then some (BitVec.ofInt 64 (n.toInt / (l : Int) * (g : Int))) else none

/-- pidx (R195): format 15 is the reserved-code fault; a count that breaks the condition the alignment fault. -/
def execPidx (f : AR) (s : State) : Host.Outcome State Fault Refusal :=
  half f.pn f.pg s fun s =>
    let p := s.rg f.ra
    if ptrFmt p = 15 then s.faultCode 0x01
    else
      match pidxStep p (s.rg f.rb) with
      | none => s.takeFault { code := 0x02, addr := p }
      | some d => s.wg f.rd (addPtr p d)

/-- pfmt (R196). -/
def execPfmt (f : AI) (s : State) : Host.Outcome State Fault Refusal :=
  half f.pn f.pg s fun s =>
    s.wg f.rd ((BitVec.ofNat 64 (fld f.imm 0 4) <<< 60) ||| (BitVec.ofNat 64 (fld f.imm 4 3) <<< 57) ||| zextW (s.rg f.ra) 57)

/-- The fault of pchk for a pointer and a length (R197). -/
def State.pchk (s : State) (a : Word) (n : Nat) : Option Nat :=
  if !fmtBlkOk (ptrFmt a) (ptrBlk a) then some 0x01
  else
    match s.space a with
    | .error c => some c
    | .ok (.virt _) => none
    | .ok sp => if n = 0 ∨ sp.off + n ≤ s.reach a sp then none else some 0x03

/-- pchk (R197): a check with no other effect. -/
def execPchk (f : AR) (s : State) : Host.Outcome State Fault Refusal :=
  half f.pn f.pg s fun s =>
    match s.pchk (s.rg f.ra) (s.rg f.rb).toNat with
    | none => s
    | some c => s.faultCode c

/-- A transfer to a target (R198): not bundle-aligned is the alignment fault at the transferring bundle (R159). -/
def State.transfer (s : State) (t : Word) (body : State → State) : State :=
  if fld t 0 4 ≠ 0 then s.faultCode 0x02 else body (s.goto t)

/-- An entry into code for the fetch rule of R159. -/
def State.entering (s : State) : State := { s with ctx := { s.ctx with enter := true } }

/-- br (R199). -/
def execBr (f : AB) (s : State) : Host.Outcome State Fault Refusal :=
  half f.pn f.pg s fun s => s.goto (s.target f.off)
/-- bcmp (R199). -/
def execBcmp (f : AB) (s : State) : Host.Outcome State Fault Refusal :=
  half f.pn f.pg s fun s =>
    if condHolds f.cc.toNat (s.rg f.ra) (s.rg f.rb) then s.goto (s.target f.off) else s
/-- call (R200). -/
def execCall (f : AB) (s : State) : Host.Outcome State Fault Refusal :=
  half f.pn f.pg s fun s => ((s.goto (s.target f.off)).wg 15 s.fallthrough).entering
/-- loop (R201). -/
def execLoop (f : AB) (s : State) : Host.Outcome State Fault Refusal :=
  half f.pn f.pg s fun s =>
    let n := s.rg f.rd - 1
    let s := s.wg f.rd n
    if n ≠ 0 then s.goto (s.target f.off) else s
/-- jalr (R200): a null target is the access fault. -/
def execJalr (f : AR) (s : State) : Host.Outcome State Fault Refusal :=
  half f.pn f.pg s fun s =>
    let t := s.rg f.ra
    if ptrAddr t = 0 then s.faultCode 0x03
    else s.transfer t fun s => (s.wg f.rd s.fallthrough).entering

/-- The value of a system selector (R202). -/
def State.sysValue (s : State) (sel : Nat) : Word :=
  let t := s.ctx.pre
  match sel with
  | 0 => tswOf s s.ctx.core t
  | 1 => BitVec.ofNat 64 (s.ctx.core + 16384 * s.modid)
  | 2 => BitVec.ofNat 64 s.ctx.slot
  | 3 => BitVec.ofNat 64 s.cycle
  | 4 => t.bind &&& ~~~(BitVec.ofNat 64 (2 ^ 25))
  | 5 => BitVec.ofNat 64 t.root
  | 6 => BitVec.ofNat 64 t.budget
  | 7 => s.own.tags
  | _ => BitVec.ofNat 64 t.squash

/-- rdsys (R202). -/
def execRdsys (f : AI) (s : State) : Host.Outcome State Fault Refusal :=
  half f.pn f.pg s fun s => s.wg f.rd (s.sysValue f.imm.toNat)

/-- The bits of tsw that wtsw writes: p1 to p7, the flags, SUBST, ASAT, AOT, DRM and CSC (R170). -/
def tswMask : Word := BitVec.ofNat 64 0x7FFFFE

/-- A word that wtsw accepts (R170). -/
def tswOk (x : Word) : Bool := fld x 32 32 == 0 && fld x 27 3 == 0 && decide (fld x 19 4 < 8)

/-- wtsw (R170, R203): a change of CSC ends the chunk after the bundle. -/
def execWtsw (f : AR) (s : State) : Host.Outcome State Fault Refusal :=
  half f.pn f.pg s fun s =>
    let x := s.rg f.ra
    if tswOk x then
      let s := if fld x 19 4 ≠ s.ctx.pre.csc then { s with ctx := { s.ctx with ends := true } } else s
      s.modCur fun t => { t with tsw := x &&& tswMask }
    else s.faultCode 0x01

/-- trap (R204): parks with code 0x0F. -/
def execTrap (f : AI) (s : State) : Host.Outcome State Fault Refusal :=
  half f.pn f.pg s fun s => s.takeFault { code := 0x0F, aux0 := f.imm.setWidth 64, aux1 := s.rg f.ra }

/-- brk (R204, R372): parks with code 0x14; with DBG set the thread halts instead, and the record goes to the own core's record
queue whatever the fault target is. -/
def execBrk (f : AI) (s : State) : Host.Outcome State Fault Refusal :=
  half f.pn f.pg s fun s =>
    let fi : FaultInfo := { code := 0x14, aux0 := f.imm.setWidth 64, aux1 := s.rg f.ra }
    if s.own.dbgs.contains s.ctx.slot then s.faultBy fi fun s r => s.haltOn s.ctx.core s.ctx.slot { r with ftgt := 0 }
    else s.takeFault fi

end Sys2Proof.Machine
end

