-- ==== Sys2Proof/Machine/Shapes.lean ====
section
/-! DEFINITION. Shape records (R114, R115), footprints (R117, R118, R120), tags (R116), and what every engine command shares:
its issue, its accesses, its halt and its completion (R262, R263, R287, R302, R310). -/

namespace Sys2Proof.Machine

/-! ### Records -/

/-- BASE. -/
def shBase (h : Shape) : Word := h.extractLsb' 0 64
/-- The format of BASE. -/
def shFmt (h : Shape) : Nat := fld h 60 4
/-- The block field of BASE. -/
def shBlk (h : Shape) : Nat := fld h 57 3
/-- Extent n. -/
def shE (h : Shape) (n : Nat) : Nat := fld h (64 + 16 * n) 16
/-- Stride of dimension n, 1 to 3, signed. -/
def shS (h : Shape) (n : Nat) : Int := (h.extractLsb' (128 + 32 * (n - 1)) 32).toInt
/-- KIND. -/
def shKind (h : Shape) : Nat := fld h 224 2
/-- DM. -/
def shDm (h : Shape) : Nat := fld h 226 2
/-- HN. -/
def shHn (h : Shape) : Nat := fld h 228 2
/-- CNT. -/
def shCnt (h : Shape) : Bool := h.getLsbD 230

/-- Elements of the region. -/
def shCount (h : Shape) : Nat := shE h 0 * shE h 1 * shE h 2 * shE h 3
/-- The four extents of two records agree. -/
def sameExt (a b : Shape) : Bool := (List.range 4).all fun n => shE a n == shE b n
/-- The record's extents. -/
def extIs (h : Shape) (e0 e1 e2 e3 : Nat) : Bool := shE h 0 == e0 && shE h 1 == e1 && shE h 2 == e2 && shE h 3 == e3

/-- Block length L of a block format (R61). -/
def shLen (h : Shape) : Nat := if isBlock (shFmt h) then 2 ^ shBlk h else 1
/-- Bytes of an element or of a block group (R48, R61); with k4 a K3 region counts as K4 (R62). -/
def groupBytes (fmt l : Nat) : Nat :=
  if isBlock fmt then (if l = 32 ∧ fmt ≠ 12 ∧ fmt ≠ 13 then 2 else 1) * blockBytes fmt else elemBytes fmt
/-- The unit's bytes of a region. -/
def shUnit (h : Shape) : Nat := groupBytes (shFmt h) (shLen h)

/-- A record whose format is K3, as the K4 region that a vcvt destination becomes (R62). -/
def asK4 (h : Shape) : Shape := if shFmt h = 14 then setFld h 60 4 9 else h

/-- Offset of the unit that holds element (i0, i1, i2, i3) from ADDR (R114). -/
def shOff (h : Shape) (i0 i1 i2 i3 : Nat) : Int :=
  ((i0 / shLen h * shUnit h : Nat) : Int) + (i1 : Int) * shS h 1 + (i2 : Int) * shS h 2 + (i3 : Int) * shS h 3

/-- Offset of flat element k, i0 fastest (R261, R267). -/
def shOffFlat (h : Shape) (k : Nat) : Int :=
  let e0 := shE h 0
  let e1 := shE h 1
  let e2 := shE h 2
  shOff h (k % e0) (k / e0 % e1) (k / (e0 * e1) % e2) (k / (e0 * e1 * e2))

/-- The reserved fields and codes of a memory region (R114, R115), for the region's role: written, and counted where CNT and DM
act. DM 2 and 3 are code 0x01 on a region that is only read as well: DESIGN CHOICE (assumption log 71). -/
def shLegal (h : Shape) (wr counted : Bool) : Bool :=
  shKind h == 0 && fld h 240 16 == 0 && fld h 231 9 == 0 && decide (shDm h < 2) && fmtBlkOk (shFmt h) (shBlk h) &&
    (counted || !wr || (!shCnt h && shDm h == 0))

/-! ### Footprints -/

/-- A region checked at issue: where it lies, its footprint (none for an empty region), the place of its count word. -/
structure Reg where
  sp : Space
  foot : Option Foot := none
  count : Option Space := none
deriving DecidableEq, Repr

/-- A space moved to another offset. -/
def Space.moved (sp : Space) (off : Int) : Space :=
  match sp with
  | .virt a => .virt ((a : Int) + off).toNat
  | .loc c o => .loc c ((o : Int) + off).toNat
  | .acc c o => .acc c ((o : Int) + off).toNat
  | .window c o => .window c ((o : Int) + off).toNat
  | .durable o => .durable ((o : Int) + off).toNat

/-- A region's checks for a core and a tenant, in the order of R261, R114, R115, R120: the fault's code, or the region. dur admits
the durable window (R113). -/
def State.regionOn (s : State) (c ten : Nat) (h : Shape) (wr counted dur : Bool) : Except Nat Reg :=
  if !shLegal h wr counted then .error 0x01
  else
    match s.spaceOf c ten (shBase h) with
    | .error c => .error c
    | .ok sp =>
      let bad := match sp with
        | .window _ _ => true
        | .durable _ => !dur
        | _ => false
      if bad then .error 0x03
      else if shCount h = 0 then .ok { sp := sp }
      else
        let span : Int := ((ceilDiv (shE h 0) (shLen h) * shUnit h : Nat) : Int)
        let d := fun (n : Nat) => ((shE h n : Int) - 1) * shS h n
        let lo := (sp.off : Int) + min 0 (d 1) + min 0 (d 2) + min 0 (d 3)
        let hi := (sp.off : Int) + span - 1 + max 0 (d 1) + max 0 (d 2) + max 0 (d 3)
        let size : Int := s.reachOf c ten (shBase h) sp
        if lo < 0 ∨ size ≤ hi then .error 0x11
        else
          let f : Foot := { (sp.foot 1 wr) with lo := lo.toNat, hi := hi.toNat }
          if counted ∧ wr ∧ shCnt h then
            let cw : Nat := (hi.toNat + 8) / 8 * 8
            match sp with
            | .loc k _ =>
              if s.reachOf c ten (shBase h) sp < cw + 8 then .error 0x11
              else .ok { sp := sp, foot := some { f with hi := cw + 7 }, count := some (.loc k cw) }
            | _ => .error 0x11
          else .ok { sp := sp, foot := some f }

/-- A region of the issuing thread's command. -/
def State.region (s : State) (h : Shape) (wr counted dur : Bool) : Except Nat Reg :=
  s.regionOn s.ctx.core (bindTen s.cur.bind) h wr counted dur

/-! ### Accesses of an engine -/

/-- What an engine's accesses come to: the state goes on with a value; a page to request on a die; a fault, with the number of the
element that met it counted from the item's first; or lines that have to come over the fabric first (R413). The accesses before any of
these have been performed (R263). -/
inductive Eng (α : Type) where
  | ok (s : State) (x : α)
  | page (s : State) (die va : Nat) (k : Kind)
  | fault (s : State) (i : Nat) (f : FaultInfo)
  | far (s : State) (lines : List Ask)

/-- The next access after one that went well. -/
def Eng.then {α β : Type} (e : Eng α) (k : State → α → Eng β) : Eng β :=
  match e with
  | .ok s x => k s x
  | .page s d va k => .page s d va k
  | .fault s i f => .fault s i f
  | .far s l => .far s l

/-- An access for the element that lies i after its item's first. -/
def Eng.atElem {α : Type} (e : Eng α) (i : Nat) : Eng α :=
  match e with
  | .fault s j f => .fault s (i + j) f
  | e => e

/-- For whom an engine accesses memory: the core, the tenant, the waiter of a page request, a page already refused; and the hint of
the region (R115), and whether shared virtual memory must be device memory (R298). -/
structure EngCtx where
  org : Origin
  core : Nat
  ten : Nat
  waiter : Waiter
  refused : Option Nat := none
  hint : Nat := 0
  devOnly : Bool := false
deriving DecidableEq, Repr

/-- A translation for an engine (R107, R392): a miss is walked at once; a page fault is a page to request, and the access that waited for a
page now refused is code 0x04 (R263, R399). -/
def State.engPa (s : State) (x : EngCtx) (va : Nat) (k : Kind) : Eng Nat :=
  let addr := BitVec.ofNat 64 va
  let found := fun (s : State) (pa : Nat) => if x.devOnly && !isDevice pa then .fault s 0 { code := 0x03, addr := addr } else .ok s pa
  if x.refused = some (va / 4096) then .fault s 0 { code := 0x04, addr := addr } else
  match s.translate x.core x.ten va k with
  | .pa pa => found s pa
  | .fault f => .fault s 0 { f with addr := addr }
  | .walk =>
    let slice := s.firstSlice x.core va
    let s := s.walkTouch slice x.ten va
    match s.walkDone slice x.ten va k with
    | .ok s =>
      match s.translate x.core x.ten va k with
      | .pa pa => found s pa
      | .fault f => .fault s 0 { f with addr := addr }
      | .walk => .page s (dieOf slice) va k
    | .error (some f) => .fault s 0 { f with addr := addr }
    | .error none => .page s (dieOf slice) va k

/-- The physical addresses of n bytes of a space. -/
def State.engPas (s : State) (x : EngCtx) (k : Kind) : Nat → Nat → Eng (List Nat)
  | _, 0 => .ok s []
  | va, n + 1 =>
    if va % 4096 = 4095 ∨ n = 0 then
      (s.engPa x va k).then fun s pa => (State.engPas s x k (va + 1) n).then fun s l => .ok s (pa :: l)
    else
      (State.engPas s x k (va + 1) n).then fun s l =>
        match l with
        | pa :: _ => .ok s ((pa - 1) :: l)
        | [] => .ok s l

/-- The physical addresses of n bytes from a place of a space. -/
def State.engAddrs (s : State) (x : EngCtx) (sp : Space) (n : Nat) (k : Kind) : Eng (List Nat) :=
  match sp with
  | .virt va => s.engPas x k va n
  | .loc c o => .ok s ((List.range n).map fun i => s.locAddr c (o + i))
  | .acc c o => .ok s ((List.range n).map fun i => accAddr c (o + i))
  | .durable o => .ok s ((List.range n).map fun i => Config.durBase + x.ten * 2 ^ 48 + o + i)
  | .window _ _ => .fault s 0 { code := 0x03 }

/-- The fat pointer to a byte of a space, of format 0, for a command of a core (R97). -/
def Space.pointer (sp : Space) (own : Nat) : Word :=
  BitVec.ofNat 64 (match sp with
    | .virt va => va
    | .loc c o => if c = own then 0x1F0 * 2 ^ 48 + o else 0x1F2 * 2 ^ 48 + c * 2 ^ 18 + o
    | .acc c o => if c = own then 0x1F1 * 2 ^ 48 + o else 0x1F3 * 2 ^ 48 + c * 2 ^ 18 + o
    | .window c o => 0x1F4 * 2 ^ 48 + c * 2 ^ 18 + o
    | .durable o => 0x1F8 * 2 ^ 48 + o)

/-- Runs of consecutive addresses with their bytes. -/
def cellsOf : List Nat → List Byte → List Host.Cell
  | a :: r, b :: q => (a, b) :: cellsOf r q
  | _, _ => []

/-- The command that an engine's accesses are for; a folding unit's transfers have numbers of their own. -/
def Waiter.who : Waiter → Nat
  | .command _ id => id
  | .fold cl => 2 ^ 60 + cl
  | .thread _ _ uid => uid
  | .intake _ _ => 0
  | .submit m => m

/-- The lines of an engine's access that have to come over the fabric, or to be carried there, and have not yet (R19, R107, R413). -/
def State.missing (s : State) (x : EngCtx) (sp : Space) (wr : Bool) (runs : List (Nat × List Byte)) : List Ask :=
  (runs.foldl (fun (y : List Ask × Nat) r =>
    let first := match sp with
      | .virt va => s.firstSlice x.core (va + y.2)
      | _ => x.core
    let line := r.1 / 64
    (match s.lineRoute x.core first r.1 r.2.length x.hint wr with
      | [] => y.1
      | w => if s.atHand x.waiter.who line then y.1 else y.1 ++ [{ line := line, wr := wr, stops := w }],
     y.2 + r.2.length)) ([], 0)).1

/-- The bulk transfers that an engine's access waits for are asked for (R413). -/
def State.askFor (s : State) (x : EngCtx) (l : List Ask) : State :=
  l.foldl (fun s a => s.askLine x.waiter.who { x.org with core := x.core } x.ten a) s

/-- The treatment of an engine's access to shared virtual memory by the region's hint, at its first slice, its home and its bank (R107,
R109, R304): line by line. -/
def State.engTouch (s : State) (x : EngCtx) (sp : Space) (wr : Bool) (runs : List (Nat × List Byte)) : State :=
  match sp with
  | .virt va => (runs.foldl (fun (y : State × Nat) r =>
      (if isDevice r.1 then y.1.devTouch (y.1.firstSlice x.core y.2) r.1 r.2.length x.hint wr else y.1, y.2 + r.2.length)) (s, va)).1
  | _ => s

/-- n bytes read by an engine from a memory that stands as given (R135), once the lines of other clusters have come; poison, of memory
or of a flit, is code 0x12 (R263, R418). -/
def State.engReadIn (s : State) (m : List Host.Cell) (x : EngCtx) (sp : Space) (n : Nat) : Eng (List Byte) :=
  (s.engAddrs x sp n .read).then fun s pas =>
    let bs := pas.map (Mem.read m)
    let runs := runsOf (cellsOf pas bs)
    match s.missing x sp false runs with
    | [] =>
      if pas.any fun a => s.poisoned a 1 || s.spoilt x.waiter.who (a / 64) then .fault s 0 { code := 0x12, addr := sp.pointer x.core }
      else .ok (s.engTouch x sp false runs) bs
    | l => .far s l

/-- n bytes read by an engine. -/
def State.engRead (s : State) (x : EngCtx) (sp : Space) (n : Nat) : Eng (List Byte) := s.engReadIn s.mem x sp n

/-- Bytes written by an engine, at their homes (R107, R135), once their bulk writes are through; a poisoned one stores poison (R418). -/
def State.engWrite (s : State) (x : EngCtx) (sp : Space) (bytes : List Byte) : Eng Unit :=
  (s.engAddrs x sp bytes.length .write).then fun s pas =>
    let runs := runsOf (cellsOf pas bytes)
    match s.missing x sp true runs with
    | [] =>
      .ok (runs.foldl (fun s (a, bs) => (s.performLine x.org (some (dieOf x.core)) false a bs).spoil x.waiter.who a bs.length)
        (s.engTouch x sp true runs)) ()
    | l => .far s l

/-- A count word written and set full as stf does, its waiters served (R115). -/
def State.writeCount (s : State) (x : EngCtx) (sp : Space) (v : Nat) : Eng Unit :=
  match sp with
  | .loc c o =>
    let pa := s.locAddr c o
    (s.engWrite x sp (bytesOfNat 8 v)).then fun s _ => .ok ((s.setBit pa true).served c pa) ()
  | _ => .ok s ()

/-! ### Commands -/

/-- A command of a core. -/
def State.cmd (s : State) (c id : Nat) : Option Cmd := (s.core c).cmds.find? fun x => x.id == id
/-- The state with a command changed. -/
def State.modCmd (s : State) (c id : Nat) (f : Cmd → Cmd) : State :=
  s.modCore c fun k => { k with cmds := k.cmds.map fun x => if x.id = id then f x else x }

/-- The number of an engine's queue in a wait (R254). -/
def Engine.num : Engine → Nat
  | .vector => 0
  | .matrix => 1
  | .latch => 1
  | .copy => 3

/-- The queue an engine's commands stand in: the matrix engine and its latch path share one (R287, R288). -/
def Engine.queue : Engine → Nat
  | .vector => 0
  | .matrix => 1
  | .latch => 1
  | .copy => 2

/-- The entries of a queue of a core in use: halted commands have left it, an mmar that was refused or halted among them: DESIGN CHOICE
(assumption log 94), R287 frees an entry at a halt and keeps an mmar's until its notice; a command accepted from another core has its own
(R297). -/
def Core.queued (k : Core) (q : Nat) : Nat := (k.cmds.filter fun c => c.eng.queue == q && c.halted.isNone && c.from_.isNone).length

/-- A queue of a core has no free entry for a thread: two entries, of which the bundles of other threads keep those that their slot V
takes with slot A's answer (R156, R287). -/
def State.queueFull (s : State) (c q uid : Nat) : Bool :=
  let kept := s.threads.filter fun x => x.1 / 16 == c && x.2.uid != uid && x.2.acc.any fun a => a.queue == some q
  decide (2 ≤ (s.core c).queued q + kept.length)

/-- A command issued by the thread (R116, R130, R156, R287): it waits for a queue entry, takes its tag, and is held by the chunk,
which ends after its bundle (R123). -/
def State.issue (s : State) (cmd : Cmd) (regs : List (Option Foot)) : State :=
  let c := s.ctx.core
  if s.queueFull c cmd.eng.queue s.cur.uid then s.retry (.queue cmd.eng.num) 0
  else
    let id := s.fresh
    let cmd := { cmd with
      id := id, org := s.origin, tsw := s.ctx.pre.tsw, foots := regs.filterMap fun x => x, held := true }
    let s := s.bump.modCore c fun k => { k with tags := k.tags &&& ~~~((1 : Word) <<< cmd.tag), cmds := k.cmds ++ [cmd] }
    let s := s.effect (.cmd id)
    { s with ctx := { s.ctx with ends := true } }

/-- The commands of a core issued before one. -/
def olderThan (l : List Cmd) (id : Nat) : List Cmd := l.takeWhile fun c => c.id != id

/-- Two commands conflict by their footprints (R117, R118). -/
def Cmd.conflicts (a b : Cmd) : Bool := a.foots.any fun f => b.foots.any fun g => f.conflicts g

/-- A command may start: released, with no conflicting older command incomplete (R118). -/
def State.mayStart (s : State) (c : Nat) (x : Cmd) : Bool :=
  !x.held && !x.started && !x.done && x.halted.isNone && !x.paged &&
    (olderThan (s.core c).cmds x.id).all fun o => !o.conflicts x

/-- A command may start, or go on from its cursor. -/
def State.mayRun (s : State) (c : Nat) (x : Cmd) : Bool :=
  s.mayStart c x || (x.started && !x.done && x.halted.isNone && !x.paged)

/-- A command's context for its accesses. -/
def Cmd.ctx (x : Cmd) (c : Nat) : EngCtx :=
  { org := x.org, core := c, ten := bindTen x.org.bind, waiter := .command c x.id, refused := x.refused }

/-- Its context for accesses to one of its regions. -/
def Cmd.ctxFor (x : Cmd) (c : Nat) (h : Shape) : EngCtx := { x.ctx c with hint := shHn h }

/-- Flag bits set in a thread, and in the checkpoint of its open chunk (R126). -/
def Thread.orTsw (t : Thread) (w : Word) : Thread :=
  { t with tsw := t.tsw ||| w, chunk := t.chunk.map fun ck => { ck with tsw := ck.tsw ||| w } }

/-- Flags but SUBST ORed into a thread's tsw and into the checkpoint of its open chunk, where it is still bound (R94, R126, R262). -/
def State.orInto (s : State) (o : Origin) (fl : Nat) : State :=
  match s.bound o with
  | none => s
  | some _ => s.modThr o.core o.slot fun t => t.orTsw (BitVec.ofNat 64 (fl % 128 - fl / 32 % 2 * 32) <<< 8)

/-- tsw.SUBST set by an engine that reads or writes a K3 region (R62): in the thread that issued the command, wherever it is bound or on
its way, and in the checkpoint of its open chunk, so that only wtsw and a thread start clear it. -/
def State.markSubst (s : State) (o : Origin) : State :=
  let w : Word := BitVec.ofNat 64 flSUBST <<< 8
  let cx := fun (c : Context) => if c.uid = o.uid then { c with tsw := c.tsw ||| w } else c
  { s with
    threads := s.threads.map fun x => if x.2.uid = o.uid then (x.1, x.2.orTsw w) else x
    cores := s.cores.map fun (x : Nat × Core) => (x.1, { x.2 with frames := x.2.frames.map cx })
    net := s.net.map fun m => { m with body := m.body.onContext cx }
    dies := s.dies.map fun (x : Nat × Die) => (x.1, { x.2 with txns := x.2.txns.map fun (y : Nat × Txn) =>
      (y.1, { y.2 with lists := y.2.lists.map (fun l => (l.1, l.2.1.map cx, l.2.2)), out := y.2.out.map fun (b : Batch) => { b with toks := b.toks.map cx } }) })
    hub := { s.hub with launches := s.hub.launches.map fun (l : Launch) => { l with saved := l.saved.map fun v => { v with
      threads := v.threads.map fun x => if x.2.uid = o.uid then (x.1, x.2.orTsw w) else x
      img := { v.img with frames := v.img.frames.map cx }
      port := v.port.map fun m => { m with body := m.body.onContext cx } } } } }

/-- The tag of a command leaves with it: its bit is set when no other command of the core holds the tag (R116). -/
def State.freeTag (s : State) (c tag : Nat) : State :=
  s.modCore c fun k =>
    if k.cmds.any fun d => d.tag == tag && d.from_.isNone then k else { k with tags := k.tags ||| ((1 : Word) <<< tag) }

/-- A command retires: it leaves the core, its flags are delivered, its tag is freed; its root may be finished and the core's
grant free (R45, R94, R116, R262, R378). -/
def State.retire (s : State) (c : Nat) (x : Cmd) : State :=
  let s := (s.modCore c fun k => { k with cmds := k.cmds.filter fun d => d.id != x.id }).usedUp x.id
  let s := if x.flags / 32 % 2 = 1 then s.markSubst x.org else s
  let s := (s.orInto x.org x.flags).freeTag c x.tag
  (s.checkRoot x.org.bind x.org.root).checkGrant c

/-- A command halts on a fault (R90, R263, R302): it keeps its footprints and its tag, and the thread parks at its next
instruction boundary with the record. While no place for a record is free, it does not halt (R370). -/
def State.haltCmd (s : State) (c id : Nat) (f : FaultInfo) : State :=
  match s.cmd c id with
  | none => s
  | some x => ((s.modCmd c id fun y => { y with halted := some f, started := false, paged := false }).usedUp id).parkLater x.org f

/-- The halted commands of a thread are abandoned at RESUME or END (R263): they retire with the flags they have. -/
def State.abandon (s : State) (c : Nat) (uid : Nat) (keep : Cmd → Bool) : State :=
  ((s.core c).cmds.filter fun x => x.org.uid == uid && x.halted.isSome && !keep x).foldl (fun s x => s.retire c x) s

end Sys2Proof.Machine
end

