-- ==== Sys2Proof/Machine/Vector.lean ====
section
/-! DEFINITION. The vector instructions (R256 to R284): register form, the issue of shape form, and the work of a command on the
vector engine. -/

namespace Sys2Proof.Machine

/-! ### Register form -/

/-- Lane i of width w bits. -/
def laneOf (v : VReg) (w i : Nat) : Nat := fld v (w * i) w

/-- A register from lanes of width w bits. -/
def packLanes (w : Nat) (l : List Nat) : VReg := BitVec.ofNat 512 (l.foldr (fun x a => x % 2 ^ w + 2 ^ w * a) 0)

/-- The rounding mode of an instruction (R63): RM, or DRM of tsw for 5. -/
def rmOf (f : VF) (tsw : Word) : Nat := if f.rm = 5 then fld tsw 16 3 else f.rm.toNat

/-- RM 5 with a DRM of 5 to 7 is the reserved-code fault (R64); RM 6 and 7 are refused at decode. -/
def rmBad (f : VF) (tsw : Word) : Bool := decide (4 < rmOf f tsw)

/-- FN bit 0 is the scalar bit S for this opcode (R258). -/
def hasScalar (opc : Nat) : Bool := (decide (opc ≤ 0x0D) && opc != 0x07) || opc == 0x0F

/-- The scalar replaces the second operand (R258). -/
def usesScalar (opc : Nat) (f : VF) : Bool := hasScalar opc && f.fn.getLsbD 0

/-- The values of a register as a row. -/
def regRow (f : VF) (v : VReg) : List Val :=
  let ty := f.ty.toNat
  (List.range (lanesOf ty)).map fun i => srcVal ty f.u f.na f.xa (laneOf v (8 * elemBytes ty) i)

/-- A result in lane 0, zero elsewhere (R277). -/
def lane0 (w x : Nat) : VReg := BitVec.ofNat 512 (x % 2 ^ w)

/-- The new VD and the flags of a register-form instruction. -/
def vregOp (opc : Nat) (f : VF) (rm : Nat) (gs : Word) (va vb vd : VReg) : VReg × Nat :=
  let ty := f.ty.toNat
  let w := 8 * elemBytes ty
  let n := lanesOf ty
  let all := fun (g : Nat → Nat × Nat) =>
    let l := (List.range n).map g
    (packLanes w (l.map fun x => x.1), l.foldl (fun fl x => orFl fl x.2) 0)
  match opc with
  | 0x30 =>
    let sw := 8 * elemBytes (srcType f)
    let l := (List.range (512 / max sw w)).map fun i =>
      cvtElem f rm (cvtSrc f (elemVal (srcType f) f.u (laneOf va sw i)))
    (packLanes w (l.map fun x => x.1), l.foldl (fun fl x => orFl fl x.2) 0)
  | 0x13 =>
    let L := f.vb.toNat + 32 * f.fn.toNat % 64
    (packLanes w ((List.range n).map fun i => if i = L then gs.toNat else laneOf vd w i), 0)
  | 0x15 => (packLanes w ((List.range n).map fun i => laneOf va w (laneOf vb w i % n)), 0)
  | 0x43 =>
    let l := (scanRow ty rm (f.fn.getLsbD 0) 0 (redIdent 0x40 ty f.u) (regRow f va)).map (formed f rm)
    (packLanes w (l.map fun x => x.1), l.foldl (fun fl x => orFl fl x.2) 0)
  | 0x46 => (lane0 32 (argmaxRow (regRow f va)), if isFloat ty then sigNV (regRow f va) else 0)
  | 0x47 =>
    let (r, nv) := softRow (f.fn.getLsbD 0) (regRow f va)
    let l := r.map fun x => formed f rm (x, 0)
    (packLanes w (l.map fun x => x.1), l.foldl (fun fl x => orFl fl x.2) nv)
  | _ =>
    if 0x40 ≤ opc then
      let (x, fl) := formed f rm (redRow opc ty f.u rm (regRow f va))
      (lane0 w x, fl)
    else
      all fun i => elemOp opc f rm gs i (laneOf va w i) (if usesScalar opc f then gs.toNat % 2 ^ w else laneOf vb w i)
        (laneOf vd w i)

/-- A vector source with its gang offset (R44): the register of the same slot on the core at POS + n of the gang, as it stood at
the start of the cycle; zero where no thread is bound. -/
def State.vsrc (s : State) (r : Nat) (g : Nat) : VReg :=
  if g = 0 then s.rv r
  else
    let c := s.ctx.core
    match Tab.find s.gangV (slotKey (c / 4 * 4 + (c % 4 + g) % 4) s.ctx.slot) with
    | none => 0
    | some v => v[r % 16]'(Nat.mod_lt _ (by decide))

/-- A gang offset outside gang mode (R44). -/
def State.gangBad (s : State) (f : VF) : Bool :=
  (f.ga != 0 || f.gb != 0) && !s.gangs.contains (gangOf s.ctx.core)

/-- A register-form instruction. -/
def State.vreg (s : State) (opc : Nat) (f : VF) : State :=
  if s.gangBad f then s.faultCode 0x01
  else
    let (x, fl) := vregOp opc f (rmOf f s.ctx.pre.tsw) (s.rg f.gs) (s.vsrc f.va.toNat f.ga.toNat) (s.vsrc f.vb.toNat f.gb.toNat)
      (s.rv f.vd.toNat)
    (s.wv f.vd.toNat x).orFlags fl

/-! ### The issue of shape form -/

/-- What an opcode does with its operands in shape form: which it reads, which must be regions, the formats (none: any element
format), whether CNT and DM act on VD. -/
structure VShape where
  useA : Bool := true
  useB : Bool := false
  needA : Bool := false
  needB : Bool := false
  fmtD : Nat
  fmtA : Option Nat
  fmtB : Option Nat := none
  counted : Bool := false
deriving DecidableEq, Repr

/-- The table of R261, R264 to R267, R273 to R277, R282, R283. -/
def vshape (opc : Nat) (f : VF) : VShape :=
  let ty := f.ty.toNat
  match opc with
  | 0x10 => { useA := false, fmtD := ty, fmtA := none }
  | 0x14 => { useA := false, fmtD := ty, fmtA := none }
  | 0x30 => { needA := true, fmtD := ty, fmtA := some (srcType f) }
  | 0x31 => { needA := decide (9 ≤ ty), fmtD := ty, fmtA := some ty }
  | 0x32 => { useB := true, needA := true, fmtD := ty, fmtA := some ty, fmtB := some 3 }
  | 0x33 => { useB := true, needA := true, fmtD := ty, fmtA := some ty, fmtB := some 3 }
  | 0x34 => { useA := false, fmtD := ty, fmtA := none }
  | 0x44 => { needA := true, fmtD := 3, fmtA := some ty, counted := true }
  | 0x45 => { useB := true, needA := true, needB := true, fmtD := ty, fmtA := some ty, counted := true }
  | 0x46 => { fmtD := 3, fmtA := some ty }
  | _ =>
    let two := decide (opc ≤ 0x0F) && !usesScalar opc f
    { useB := two, fmtD := ty, fmtA := some ty, fmtB := some ty }

/-- An operand's record has the format asked for. -/
def fmtIs (h : Shape) (want : Option Nat) : Bool :=
  match want with
  | some x => shFmt h == x
  | none => decide (1 ≤ shFmt h) && decide (shFmt h ≤ 8)

/-- The extents of an instruction's regions agree (R261, R273, R275, R277, R282, R283). -/
def extentsOk (opc : Nat) (d : Shape) (a b : Option Shape) : Bool :=
  let eqTo := fun (x : Option Shape) (y : Shape) =>
    match x with
    | some x => sameExt x y
    | none => true
  let whole := fun (h : Shape) => shE h 0 % shLen h == 0
  match opc with
  | 0x32 => eqTo b d
  | 0x33 =>
    match a with
    | some a => eqTo b a
    | none => true
  | 0x44 =>
    match a with
    | some a => extIs d (shE d 0) 1 1 1 && decide (shCount a ≤ 2 ^ 31)
    | none => false
  | 0x45 =>
    match a, b with
    | some a, some b =>
      extIs a (shE a 0) (shE a 1) 1 1 && extIs b 1 (shE a 1) 1 1 && extIs d (shE a 0) (shE d 1) 1 1
    | _, _ => false
  | 0x43 => eqTo a d
  | 0x47 => eqTo a d
  | _ =>
    if 0x40 ≤ opc then
      match a with
      | some a => extIs d 1 (shE a 1) (shE a 2) (shE a 3)
      | none => shE d 0 == 1
    else eqTo a d && eqTo b d && whole d && (match a with
      | some a => whole a
      | none => true)

/-- The record of an operand code, or none for a v register. -/
def State.opndShape (s : State) (code : BitVec 5) : Option Shape :=
  if 16 ≤ code.toNat then some (s.rh (code.toNat - 16)) else none

/-- A region that may be absent. -/
def State.regionOf (s : State) (h : Option Shape) (wr counted : Bool) : Except Nat (Option Reg) :=
  match h with
  | none => .ok none
  | some h =>
    match s.region h wr counted false with
    | .ok r => .ok (some r)
    | .error c => .error c

/-- The space of an operand's region. -/
def regSpace (r : Option Reg) : Space :=
  match r with
  | some r => r.sp
  | none => .virt 0

/-- The issue of a shape-form instruction (R261): its checks, each failure a fault of the bundle, then the command. -/
def State.vissue (s : State) (i : Instr) (opc : Nat) (f : VF) : State :=
  let v := vshape opc f
  let d0 := s.rh (f.vd.toNat - 16)
  let a := if v.useA then s.opndShape f.va else none
  let b := if v.useB then s.opndShape f.vb else none
  let badFmt := fun (x : Option Shape) (want : Option Nat) => (show Bool from
    match x with
    | some h => shKind h != 0 || !fmtIs h want
    | none => false)
  if f.vd.toNat < 16 ∨ f.ga ≠ 0 ∨ f.gb ≠ 0 ∨ (v.needA && a.isNone) ∨ (v.needB && b.isNone) ∨ badFmt (some d0) (some v.fmtD) ∨
      badFmt a v.fmtA ∨ badFmt b v.fmtB then s.faultCode 0x01
  else
    let d := if opc = 0x30 then asK4 d0 else d0
    match s.region d true v.counted false, s.regionOf a false false, s.regionOf b false false with
    | .error c, _, _ => s.faultCode c
    | _, .error c, _ => s.faultCode c
    | _, _, .error c => s.faultCode c
    | .ok rd, .ok ra, .ok rb =>
      let far : Bool := match rd.sp with
        | .loc _ _ => false
        | _ => true
      if !extentsOk opc d a b then s.faultCode 0x11
      else if opc = 0x34 ∧ f.fn ≠ 0 ∧ far then s.faultCode 0x03
      else
        let subst := opc == 0x30 && (f.ty == 14 || srcType f == 14) && shCount d != 0
        s.issue {
          id := 0, org := {}, instr := i, eng := .vector, sd := d, sa := a.getD 0, sb := b.getD 0,
          pd := rd.sp, pa := regSpace ra, pb := regSpace rb, pc := rd.count,
          va := s.rv f.va.toNat, vb := s.rv f.vb.toNat, gs := s.rg f.gs, tag := f.tag.toNat,
          k3 := subst }
          [rd.foot, ra.bind fun r => r.foot, rb.bind fun r => r.foot]

/-- A vector instruction (R167): register form where all its operands are v registers, otherwise shape form; a rounding mode
that R64 forbids is the reserved-code fault before either. -/
def vexec (i : Instr) (opc : Nat) (f : VF) (s : State) : Host.Outcome State Fault Refusal :=
  half f.pn f.pg s fun s =>
    let v := vshape opc f
    let only := (decide (0x32 ≤ opc) && decide (opc ≤ 0x34)) || opc == 0x44 || opc == 0x45
    if rmBad f s.ctx.pre.tsw then s.faultCode 0x01
    else if !only ∧ f.vd.toNat < 16 ∧ (!v.useA ∨ f.va.toNat < 16) ∧ (!v.useB ∨ f.vb.toNat < 16) then s.vreg opc f
    else s.vissue i opc f

/-- NOP of slot V (R158): no effect, guard ignored. -/
def execNopV (s : State) : Host.Outcome State Fault Refusal := .next s

def execVadd (f : VF) (s : State) : Host.Outcome State Fault Refusal := vexec (.vadd f) 0x01 f s
def execVsub (f : VF) (s : State) : Host.Outcome State Fault Refusal := vexec (.vsub f) 0x02 f s
def execVmul (f : VF) (s : State) : Host.Outcome State Fault Refusal := vexec (.vmul f) 0x03 f s
def execVfma (f : VF) (s : State) : Host.Outcome State Fault Refusal := vexec (.vfma f) 0x04 f s
def execVmin (f : VF) (s : State) : Host.Outcome State Fault Refusal := vexec (.vmin f) 0x05 f s
def execVmax (f : VF) (s : State) : Host.Outcome State Fault Refusal := vexec (.vmax f) 0x06 f s
def execVand (f : VF) (s : State) : Host.Outcome State Fault Refusal := vexec (.vand f) 0x08 f s
def execVor (f : VF) (s : State) : Host.Outcome State Fault Refusal := vexec (.vor f) 0x09 f s
def execVxor (f : VF) (s : State) : Host.Outcome State Fault Refusal := vexec (.vxor f) 0x0A f s
def execVshl (f : VF) (s : State) : Host.Outcome State Fault Refusal := vexec (.vshl f) 0x0B f s
def execVshr (f : VF) (s : State) : Host.Outcome State Fault Refusal := vexec (.vshr f) 0x0C f s
def execVsar (f : VF) (s : State) : Host.Outcome State Fault Refusal := vexec (.vsar f) 0x0D f s
def execVcmp (f : VF) (s : State) : Host.Outcome State Fault Refusal := vexec (.vcmp f) 0x0E f s
def execVsel (f : VF) (s : State) : Host.Outcome State Fault Refusal := vexec (.vsel f) 0x0F f s
def execVsplat (f : VF) (s : State) : Host.Outcome State Fault Refusal := vexec (.vsplat f) 0x10 f s
def execVmov (f : VF) (s : State) : Host.Outcome State Fault Refusal := vexec (.vmov f) 0x11 f s
def execViota (f : VF) (s : State) : Host.Outcome State Fault Refusal := vexec (.viota f) 0x14 f s
def execVrcp (f : VF) (s : State) : Host.Outcome State Fault Refusal := vexec (.vrcp f) 0x20 f s
def execVrsqrt (f : VF) (s : State) : Host.Outcome State Fault Refusal := vexec (.vrsqrt f) 0x21 f s
def execVexp2 (f : VF) (s : State) : Host.Outcome State Fault Refusal := vexec (.vexp2 f) 0x22 f s
def execVlog2 (f : VF) (s : State) : Host.Outcome State Fault Refusal := vexec (.vlog2 f) 0x23 f s
def execVtanh (f : VF) (s : State) : Host.Outcome State Fault Refusal := vexec (.vtanh f) 0x24 f s
def execVsigm (f : VF) (s : State) : Host.Outcome State Fault Refusal := vexec (.vsigm f) 0x25 f s
def execVsqrt (f : VF) (s : State) : Host.Outcome State Fault Refusal := vexec (.vsqrt f) 0x26 f s
def execVcvt (f : VF) (s : State) : Host.Outcome State Fault Refusal := vexec (.vcvt f) 0x30 f s
def execVscale (f : VF) (s : State) : Host.Outcome State Fault Refusal := vexec (.vscale f) 0x31 f s
def execVgath (f : VF) (s : State) : Host.Outcome State Fault Refusal := vexec (.vgath f) 0x32 f s
def execVscat (f : VF) (s : State) : Host.Outcome State Fault Refusal := vexec (.vscat f) 0x33 f s
def execVfill (f : VF) (s : State) : Host.Outcome State Fault Refusal := vexec (.vfill f) 0x34 f s
def execVredadd (f : VF) (s : State) : Host.Outcome State Fault Refusal := vexec (.vredadd f) 0x40 f s
def execVredmax (f : VF) (s : State) : Host.Outcome State Fault Refusal := vexec (.vredmax f) 0x41 f s
def execVredmin (f : VF) (s : State) : Host.Outcome State Fault Refusal := vexec (.vredmin f) 0x42 f s
def execVscan (f : VF) (s : State) : Host.Outcome State Fault Refusal := vexec (.vscan f) 0x43 f s
def execVnz (f : VF) (s : State) : Host.Outcome State Fault Refusal := vexec (.vnz f) 0x44 f s
def execVcompact (f : VF) (s : State) : Host.Outcome State Fault Refusal := vexec (.vcompact f) 0x45 f s
def execVargmax (f : VF) (s : State) : Host.Outcome State Fault Refusal := vexec (.vargmax f) 0x46 f s
def execVsoftmax (f : VF) (s : State) : Host.Outcome State Fault Refusal := vexec (.vsoftmax f) 0x47 f s

/-- vext (R268): lane L of VA into g[GS], sign-extended for signed integers. -/
def execVext (f : VF) (s : State) : Host.Outcome State Fault Refusal :=
  half f.pn f.pg s fun s =>
    if s.gangBad f then s.faultCode 0x01
    else
      let w := 8 * elemBytes f.ty.toNat
      let x := BitVec.ofNat 64 (laneOf (s.vsrc f.va.toNat f.ga.toNat) w (f.vb.toNat + 32 * f.fn.toNat % 64))
      s.wg f.gs (if isInt f.ty.toNat ∧ !f.u then sextW x w else x)
/-- vins (R268). -/
def execVins (f : VF) (s : State) : Host.Outcome State Fault Refusal :=
  half f.pn f.pg s fun s => s.vreg 0x13 f
/-- vperm (R269). -/
def execVperm (f : VF) (s : State) : Host.Outcome State Fault Refusal :=
  half f.pn f.pg s fun s => s.vreg 0x15 f

/-! ### The work of a command and its cursor -/

/-- The work of an engine command: its items in order, each given the state, its number and the count so far; then the positions that
DM = 1 zeroes; then its count word (R115, R284, R306). -/
structure Job where
  main : Nat
  item : State → Nat → Nat → Eng (Nat × Nat)
  /-- elements of an item -/
  elem : Nat := 1
  /-- items of a run, and of a row, which no run crosses (R261) -/
  run : Nat := 1
  row : Nat := 1
  /-- positions to zero and the first of them, by the final count -/
  zeros : Nat → Nat := fun _ => 0
  first : Nat → Nat := fun cnt => cnt
  zero : State → Nat → Eng Unit := fun s _ => .ok s ()
  finish : State → Nat → Eng Unit := fun s _ => .ok s ()

/-- The work of a command on an empty region (R114): none. -/
def Job.nothing : Job := { main := 0, item := fun s _ cnt => .ok s (0, cnt) }

/-- The items of the run at a cursor: at most those of a run, within a row, and within the items or the positions to zero. -/
def Job.runLen (w : Job) (pos cnt : Nat) : Nat :=
  if pos < w.main then min (min w.run (w.row - pos % w.row)) (w.main - pos)
  else min w.run (w.main + w.zeros cnt - pos)

/-- The item, or the position to zero, at a cursor. -/
def Job.at_ (w : Job) (s : State) (pos cnt : Nat) : Eng (Nat × Nat) :=
  if pos < w.main then w.item s pos cnt
  else (w.zero s (w.first cnt + (pos - w.main))).then fun s _ => .ok s (0, cnt)

/-- The number of an element for a record (R263, R310): i past the first one of the item at a cursor. -/
def Job.element (w : Job) (pos cnt i : Nat) : Nat :=
  (if pos < w.main then pos * w.elem else w.first cnt + (pos - w.main)) + i

/-- What a run comes to: flags, the count and the cursor; with a page to wait for, a fault, or lines to come. -/
inductive RunEnd where
  | ran (s : State) (fl cnt pos : Nat)
  | page (s : State) (fl cnt pos die va : Nat) (k : Kind)
  | fault (s : State) (fl cnt pos i : Nat) (f : FaultInfo)
  | far (s : State) (fl cnt pos : Nat) (lines : List Ask)

/-- n items from a cursor on. -/
def Job.items (w : Job) : Nat → State → Nat → Nat → Nat → RunEnd
  | 0, s, fl, cnt, pos => .ran s fl cnt pos
  | n + 1, s, fl, cnt, pos =>
    match w.at_ s pos cnt with
    | .ok s (f1, cnt) => Job.items w n s (orFl fl f1) cnt (pos + 1)
    | .page s d va k => .page s fl cnt pos d va k
    | .fault s i f => .fault s fl cnt pos i f
    | .far s l => .far s fl cnt pos l

/-- A command waits for a page (R263, R302, R310, R398): the request is entered, or held while the table is full. -/
def State.pageFor (s : State) (c : Nat) (x : Cmd) (d va : Nat) (k : Kind) : State :=
  let t := bindTen x.org.bind
  ((s.pageRequest d t c va k (.command c x.id)).getD (s.holdRequest d t c va k (.command c x.id))).modCmd c x.id fun y =>
    { y with paged := true }

/-- A command goes on by one run of its work from its cursor, which it leaves after the run (R262, R303, R310). After the last item it is
done. At a page it waits with the items before it done, and so it does for lines that come over the fabric (R413); on a fault it halts, with
the accesses before it performed (R263). -/
def State.runWork (s : State) (c : Nat) (x : Cmd) (w : Job) (halt : State → Cmd → Nat → FaultInfo → State) : State :=
  let stand := fun (s : State) (fl cnt pos : Nat) => s.modCmd c x.id fun y =>
    { y with started := true, old := x.old, lim := x.lim, flags := fl, cnt := cnt, pos := pos }
  match w.items (w.runLen x.pos x.cnt) s x.flags x.cnt x.pos with
  | .ran s fl cnt pos =>
    if pos < w.main + w.zeros cnt then (stand s fl cnt pos).usedUp x.id
    else
      match w.finish s cnt with
      | .ok s _ => ((stand s fl cnt pos).modCmd c x.id fun y => { y with done := true }).usedUp x.id
      | .far s l => (stand s fl cnt pos).askFor (x.ctx c) l
      | .page s d va k => (stand s fl cnt pos).pageFor c x d va k
      | .fault s i f =>
        let s := stand s fl cnt pos
        if s.recordsFull x.org.core then s else halt s { x with flags := fl } i f
  | .far s fl cnt pos l => (stand s fl cnt pos).askFor (x.ctx c) l
  | .page s fl cnt pos d va k => (stand s fl cnt pos).pageFor c x d va k
  | .fault s fl cnt pos i f =>
    let s := stand s fl cnt pos
    if s.recordsFull x.org.core then s else halt s { x with flags := fl } (w.element pos cnt i) f

/-- A vector or copy command halts with its record's element number (R263, R310). -/
def State.haltAtElem (c : Nat) (s : State) (x : Cmd) (k : Nat) (f : FaultInfo) : State :=
  s.haltCmd c x.id { f with aux0 := BitVec.ofNat 64 (x.tag + k % 2 ^ 32 * 2 ^ 32) }

/-! ### Sources and overlap (R261) -/

/-- The command may write what it still reads: a write footprint meets another one of its own, or it reads what it writes. -/
def Cmd.selfReads (x : Cmd) : Bool :=
  (x.foots.any fun a => a.wr && x.foots.any fun b => !b.wr && a.conflicts b) || (match x.instr with
    | .vfma _ => true
    | .vsel _ => true
    | .macc _ => (match x.pd with
      | .acc _ _ => true
      | _ => false)
    | _ => false)

/-- A command's first run: the memory before it is kept where it may read it (R261), and a command with K3 blocks to read or to write sets
SUBST (R62), before it reads the first: DESIGN CHOICE (assumption log 80). lim is its index count. -/
def State.beginCmd (s : State) (x : Cmd) (lim : Nat) : State × Cmd :=
  if x.started then (s, x)
  else (if x.k3 then s.markSubst x.org else s, { x with old := if x.selfReads then some s.mem else none, lim := lim })

/-- Two regions coincide exactly: every element lies at the same bytes in both, with the same four numbers; regions of other extents do
not, even where their elements follow one another over the same bytes: DESIGN CHOICE (assumption log 83). -/
def coincide (a b : Shape) (pa pb : Space) : Bool :=
  pa == pb && shUnit a == shUnit b && shLen a == shLen b && sameExt a b &&
    (List.range 3).all fun n => shE a (n + 1) == 1 || shS a (n + 1) == shS b (n + 1)

/-- The memory that bytes of a source element are read from (R261): where the write region coincides exactly with the read region, as it
stood before the command; where the bytes lie in the write region otherwise, either that or the present one, freely for each element k. -/
def State.srcMem (s : State) (x : Cmd) (r : Shape) (sp at_ : Space) (k : Nat) : List Host.Cell :=
  match x.old with
  | none => s.mem
  | some m =>
    if coincide r x.sd sp x.pd then m
    else if (x.foots.any fun g => g.wr && (at_.foot (shUnit r) false).conflicts g) && Config.overlapOld x.id k then m
    else s.mem

/-- The unit of a source region at an offset, which holds element k. -/
def State.unitBytes (s : State) (x : Cmd) (c : Nat) (r : Shape) (sp : Space) (k : Nat) (off : Int) : Eng (List Byte) :=
  s.engReadIn (s.srcMem x r sp (sp.moved off) k) (x.ctxFor c r) (sp.moved off) (shUnit r)

/-- Lane i0 of a v operand. -/
def lanePat (v : VReg) (ty i0 : Nat) : Nat := laneOf v (8 * elemBytes ty) (i0 % lanesOf ty)

/-! ### The items of the vector commands -/

/-- The pattern of element k of a source: of a region, or of a v register repeated along dimension 0 (R261). -/
def State.srcPat (s : State) (x : Cmd) (c : Nat) (isH : Bool) (r : Shape) (sp : Space) (v : VReg) (ty k : Nat) : Eng Nat :=
  if isH then (s.unitBytes x c r sp k (shOffFlat r k)).then fun s bs => .ok s (natOfBytes bs)
  else .ok s (lanePat v ty (k % shE x.sd 0))

/-- A unit of VD written at an offset. -/
def State.putUnit (s : State) (x : Cmd) (c : Nat) (off : Int) (bs : List Byte) : Eng Unit :=
  s.engWrite (x.ctxFor c x.sd) (x.pd.moved off) bs

/-- Flat element k of VD written. -/
def State.putElem (s : State) (x : Cmd) (c k v : Nat) : Eng Unit := s.putUnit x c (shOffFlat x.sd k) (bytesOfNat (shUnit x.sd) v)

/-- An elementwise command, element k. -/
def State.vElem (s : State) (x : Cmd) (c : Nat) (opc : Nat) (f : VF) (k : Nat) : Eng (Nat × Nat) :=
  let v := vshape opc f
  let ty := f.ty.toNat
  (if v.useA then s.srcPat x c (decide (16 ≤ f.va.toNat)) x.sa x.pa x.va ty k else .ok s 0).then fun s a =>
  (if v.useB then s.srcPat x c (decide (16 ≤ f.vb.toNat)) x.sb x.pb x.vb ty k
    else .ok s (x.gs.toNat % 2 ^ (8 * elemBytes ty))).then fun s b =>
  (if opc = 0x04 ∨ opc = 0x0F then s.srcPat x c true x.sd x.pd 0 ty k else .ok s 0).then fun s d =>
  let (r, fl) := elemOp opc f (rmOf f x.tsw) x.gs k a b d
  (s.putElem x c k r).then fun s _ => .ok s (fl, 0)

/-- The values of a unit of a region: one element, or a block group (R57, R60). -/
def unitVals (fmt : Nat) (u : Bool) (bs : List Byte) : List Val :=
  if isBlock fmt then
    let g := blockBytes fmt
    if g < bs.length then decodeBlock fmt (bs.take g) ++ decodeBlock fmt (bs.drop g) else decodeBlock fmt bs
  else [elemVal fmt u (natOfBytes bs)]

/-- A unit of a block format from its values, one block or a group of two (R61, R73, R74). -/
def encodeGroup (fmt rm : Nat) (sat : Bool) (vs : List Val) : List Byte × Nat :=
  if vs.length ≤ blockLen fmt then encodeBlock fmt rm sat vs
  else
    let (a, f1) := encodeBlock fmt rm sat (vs.take (blockLen fmt))
    let (b, f2) := encodeBlock fmt rm sat (vs.drop (blockLen fmt))
    (a ++ b, orFl f1 f2)

/-- The values of n units of a row from unit i of it on; off gives a unit's offset, k the item's first element. -/
def State.rowVals (s : State) (x : Cmd) (c : Nat) (r : Shape) (sp : Space) (u : Bool) (k : Nat) (off : Nat → Int) : Nat → Nat → Eng (List Val)
  | 0, _ => .ok s []
  | n + 1, i =>
    ((s.unitBytes x c r sp (k + i * shLen r) (off i)).atElem (i * shLen r)).then fun s bs =>
      (State.rowVals s x c r sp u k off n (i + 1)).then fun s l => .ok s (unitVals (shFmt r) u bs ++ l)

/-- Row j of a region: its first element's flat number is j × E0. -/
def rowOff (r : Shape) (j i0 : Nat) : Int :=
  shOff r i0 (j % shE r 1) (j / shE r 1 % shE r 2) (j / (shE r 1 * shE r 2))

/-- Rows of a region. -/
def shRows (r : Shape) : Nat := shE r 1 * shE r 2 * shE r 3

/-- A list of units written to a row of VD from unit i on; i0 is the unit of the item's first element. -/
def State.putRow (s : State) (x : Cmd) (c j i0 : Nat) : Nat → List (List Byte) → Eng Unit
  | _, [] => .ok s ()
  | i, b :: r =>
    ((s.putUnit x c (rowOff x.sd j (i * shLen x.sd)) b).atElem ((i - i0) * shLen x.sd)).then fun s _ => State.putRow s x c j i0 (i + 1) r

/-- vcvt in shape form (R273): a group of values that both formats hold whole, group k. -/
def State.vCvt (s : State) (x : Cmd) (c : Nat) (f : VF) (k : Nat) : Eng (Nat × Nat) :=
  let g := max (shLen x.sa) (shLen x.sd)
  let per := shE x.sd 0 / g
  let j := k / per
  let i0 := k % per * g
  (s.rowVals x c x.sa x.pa f.u (j * shE x.sd 0 + i0) (fun i => rowOff x.sa j (i0 + i * shLen x.sa)) (g / shLen x.sa) 0).then fun s vs =>
    let vs := vs.map (cvtSrc f)
    let rm := rmOf f x.tsw
    let u0 := i0 / shLen x.sd
    if isBlock (shFmt x.sd) then
      let n := shLen x.sd
      let gs := (List.range (g / n)).map fun i =>
        encodeGroup f.ty.toNat rm (f.dcl == 1) (((vs.drop (n * i)).take n).map fun v => v.scale (dscOf f))
      (s.putRow x c j u0 u0 (gs.map fun y => y.1)).then fun s _ =>
        .ok s (gs.foldl (fun fl y => orFl fl y.2) 0, 0)
    else
      let es := vs.map (cvtElem f rm)
      (s.putRow x c j u0 u0 (es.map fun y => bytesOfNat (shUnit x.sd) y.1)).then fun s _ =>
        .ok s (es.foldl (fun fl y => orFl fl y.2) 0, 0)

/-- One stored block times 2^k (R274). Where only E changes the other fields are copied as they stand, also one with sign 1 and magnitude 0,
which the device forms nowhere else (R58): DESIGN CHOICE (assumption log 81). -/
def scaleBlock (fmt rm : Nat) (k : Int) (b : List Byte) : List Byte × Nat :=
  let E : Int := ((b.getD 0 0).toNat : Int)
  if E = 255 then (0xFF :: List.replicate (b.length - 1) 0, 0)
  else if 0 ≤ E + k ∧ E + k ≤ 254 then (BitVec.ofInt 8 (E + k) :: b.drop 1, 0)
  else
    let k := max (-4096) (min 4096 k)
    encodeBlock fmt rm false ((decodeBlock fmt b).map fun v => v.scale k)

/-- A list cut into pieces of n, at most m of them. -/
def pieces {α : Type} (n : Nat) : Nat → List α → List (List α)
  | 0, _ => []
  | m + 1, l => if l = [] then [] else l.take n :: pieces n m (l.drop n)

/-- The bytes of n units of a row of VA from unit i of it on. -/
def State.rowBytes (s : State) (x : Cmd) (c : Nat) (k : Nat) (off : Nat → Int) : Nat → Nat → Eng (List Byte)
  | 0, _ => .ok s []
  | n + 1, i =>
    ((s.unitBytes x c x.sa x.pa (k + i * shLen x.sa) (off i)).atElem (i * shLen x.sa)).then fun s bs =>
      (State.rowBytes s x c k off n (i + 1)).then fun s l => .ok s (bs ++ l)

/-- vscale of blocks (R274): group k of whole units of both regions, whose block lengths may differ, block by block. -/
def State.vBlockScale (s : State) (x : Cmd) (c : Nat) (f : VF) (k : Nat) : Eng (Nat × Nat) :=
  let g := max (shLen x.sa) (shLen x.sd)
  let per := shE x.sd 0 / g
  let j := k / per
  let i0 := k % per * g
  let b := blockBytes (shFmt x.sd)
  (s.rowBytes x c (k * g) (fun i => rowOff x.sa j (i0 + i * shLen x.sa)) (g / shLen x.sa) 0).then fun s bs =>
    let out := (pieces b 2 bs).map (scaleBlock (shFmt x.sd) (rmOf f x.tsw) x.gs.toInt)
    let u0 := i0 / shLen x.sd
    (s.putRow x c j u0 u0 (pieces (shUnit x.sd) 2 (out.flatMap fun y => y.1))).then fun s _ =>
      .ok s (out.foldl (fun fl y => orFl fl y.2) 0, 0)

/-- vscan along row j, element by element (R263, R279): n elements from the i-th on, the running sum so far. -/
def State.vScan (s : State) (x : Cmd) (c : Nat) (f : VF) (j : Nat) : Nat → Nat → Val → Eng Nat
  | 0, _, _ => .ok s 0
  | n + 1, i, acc =>
    let ty := f.ty.toNat
    let rm := rmOf f x.tsw
    let src : Eng Val :=
      if 16 ≤ f.va.toNat then
        ((s.unitBytes x c x.sa x.pa (j * shE x.sa 0 + i) (rowOff x.sa j i)).atElem i).then fun s bs =>
          .ok s (elemVal (shFmt x.sa) f.u (natOfBytes bs))
      else .ok s (elemVal ty f.u (lanePat x.va ty i))
    src.then fun s v =>
      let (sum, fl) := redComb 0x40 ty rm acc (withMods (isInt ty) f.na f.xa v)
      let (y, f2) := formed f rm (if f.fn.getLsbD 0 then (if i = 0 then .zero else acc) else sum, fl)
      ((s.putUnit x c (rowOff x.sd j i) (bytesOfNat (shUnit x.sd) y)).atElem i).then fun s _ =>
        (State.vScan s x c f j n (i + 1) sum).then fun s f3 => .ok s (orFl f2 f3)

/-- A row operation, row j (R277 to R281). -/
def State.vRow (s : State) (x : Cmd) (c : Nat) (opc : Nat) (f : VF) (j : Nat) : Eng (Nat × Nat) :=
  let ty := f.ty.toNat
  let rm := rmOf f x.tsw
  let isH := decide (16 ≤ f.va.toNat)
  if opc = 0x43 then (s.vScan x c f j (shE x.sd 0) 0 (redIdent 0x40 ty f.u)).then fun s fl => .ok s (fl, 0) else
  let n := if opc = 0x47 then shE x.sd 0 else lanesOf ty
  let src : Eng (List Val) :=
    if isH then s.rowVals x c x.sa x.pa f.u (j * shE x.sa 0) (fun i => rowOff x.sa j i) (shE x.sa 0) 0
    else .ok s ((List.range n).map fun i => elemVal ty f.u (lanePat x.va ty i))
  src.then fun s vs =>
    let vs := vs.map (withMods (isInt ty) f.na f.xa)
    let out : List Nat × Nat :=
      match opc with
      | 0x46 => ([argmaxRow vs], if isFloat ty then sigNV vs else 0)
      | 0x47 =>
        let (r, nv) := softRow (f.fn.getLsbD 0) vs
        let l := r.map fun v => formed f rm (v, 0)
        (l.map fun y => y.1, l.foldl (fun fl y => orFl fl y.2) nv)
      | _ =>
        let (y, fl) := formed f rm (redRow opc ty f.u rm vs)
        ([y], fl)
    (s.putRow x c j 0 0 (out.1.map fun y => bytesOfNat (shUnit x.sd) y)).then fun s _ => .ok s (out.2, 0)

/-- The element that an index names in a table region of n: an access fault below 0 or beyond it (R275, R306). -/
def tableIndex (s : State) (tbl : Shape) (n i : Nat) : Eng Nat :=
  let i := (BitVec.ofNat 32 i).toInt
  if i < 0 ∨ (n : Int) ≤ i then .fault s 0 { code := 0x03, addr := shBase tbl, aux1 := BitVec.ofInt 64 i } else .ok s i.toNat

/-- vgath and vscat, element k (R275). -/
def State.vIndex (s : State) (x : Cmd) (c : Nat) (gath : Bool) (f : VF) (k : Nat) : Eng (Nat × Nat) :=
  let tbl := if gath then x.sa else x.sd
  let run := if gath then x.sd else x.sa
  let idx : Eng Nat :=
    if 16 ≤ f.vb.toNat then (s.unitBytes x c x.sb x.pb k (shOffFlat x.sb k)).then fun s bs => .ok s (natOfBytes bs)
    else .ok s (lanePat x.vb 3 (k % shE run 0))
  idx.then fun s i => (tableIndex s tbl (shCount tbl) i).then fun s i =>
    let (from_, dest) := if gath then (i, k) else (k, i)
    (s.unitBytes x c x.sa x.pa k (shOffFlat x.sa from_)).then fun s bs =>
      (s.putUnit x c (shOffFlat x.sd dest) bs).then fun s _ => .ok s (0, 0)

/-- The 64-bit words that element k of VD touches. -/
def State.fillWords (s : State) (x : Cmd) (k : Nat) : List Nat :=
  match x.pd.moved (shOffFlat x.sd k) with
  | .loc c o =>
    let pa := s.locAddr c o
    (List.range ((pa + shUnit x.sd - 1) / 8 - pa / 8 + 1)).map fun i => 8 * (pa / 8 + i)
  | _ => []

/-- A later element of VD than the k-th touches a word. -/
def State.touchedLater (s : State) (x : Cmd) (k w : Nat) : Bool :=
  (List.range (shCount x.sd - (k + 1))).any fun i => (s.fillWords x (k + 1 + i)).contains w

/-- vfill, element k (R276): with a mode, each word takes its bit with its last element's write and is served at once. -/
def State.vFill (s : State) (x : Cmd) (c : Nat) (f : VF) (k : Nat) : Eng (Nat × Nat) :=
  (s.putElem x c k (x.gs.toNat % 2 ^ (8 * elemBytes f.ty.toNat))).then fun s _ =>
    let mode := f.fn.toNat % 4
    if mode = 0 then .ok s (0, 0)
    else
      let owner := match x.pd with
        | .loc o _ => o
        | _ => c
      let s := (s.fillWords x k).foldl (fun s w =>
        if s.touchedLater x k w then s else (s.setBit w (mode == 2)).served owner w) s
      .ok s (0, 0)

/-- An element's pattern is no zero (R282). -/
def patNonzero (fmt v : Nat) : Bool := if isFloat fmt then v % (ffmt fmt).sign != 0 else v != 0

/-- vnz, element k of VA (R282); the count goes on past C. -/
def State.vNz (s : State) (x : Cmd) (c : Nat) (k cnt : Nat) : Eng (Nat × Nat) :=
  (s.unitBytes x c x.sa x.pa k (shOffFlat x.sa k)).then fun s bs =>
    if patNonzero (shFmt x.sa) (natOfBytes bs) then
      if cnt < shE x.sd 0 then (s.putElem x c cnt k).then fun s _ => .ok s (0, cnt + 1) else .ok s (0, cnt + 1)
    else .ok s (0, cnt)

/-- A row copied bit for bit, element i of n. -/
def State.copyRow (s : State) (x : Cmd) (c : Nat) (from_ dest : Nat) : Nat → Nat → Eng Unit
  | 0, _ => .ok s ()
  | n + 1, i =>
    ((s.unitBytes x c x.sa x.pa (from_ * shE x.sa 0 + i) (shOff x.sa i from_ 0 0)).atElem i).then fun s bs =>
      ((s.putUnit x c (shOff x.sd i dest 0 0) bs).atElem i).then fun s _ => State.copyRow s x c from_ dest n (i + 1)

/-- vcompact, row k of VA (R283). -/
def State.vCompact (s : State) (x : Cmd) (c : Nat) (k cnt : Nat) : Eng (Nat × Nat) :=
  (s.unitBytes x c x.sb x.pb k (shOff x.sb 0 k 0 0)).then fun s bs =>
    if patNonzero (shFmt x.sb) (natOfBytes bs) then
      if cnt < shE x.sd 1 then (s.copyRow x c k cnt (shE x.sa 0) 0).then fun s _ => .ok s (0, cnt + 1)
      else .ok s (0, cnt + 1)
    else .ok s (0, cnt)

/-- The count word of a region, where it has one, written after the data and set full (R115, R284, R306): the count, and in bit 63 whether
more qualified than the capacity. -/
def State.putCount (s : State) (x : Cmd) (c total cap : Nat) : Eng Unit :=
  match x.pc with
  | some sp => s.writeCount (x.ctx c) sp (min total cap + (if cap < total then 2 ^ 63 else 0))
  | none => .ok s ()

/-- A counted output (R115, R284): the work with its zeros and its count word. cap and per are the items that VD holds and the elements of
each. -/
def Job.counted (w : Job) (x : Cmd) (c cap per : Nat) : Job :=
  { w with
    zeros := fun cnt => if shDm x.sd = 1 then shCount x.sd - min cnt cap * per else 0
    first := fun cnt => min cnt cap * per
    zero := fun s k => s.putElem x c k 0
    finish := fun s cnt => s.putCount x c cnt cap }

/-- The fields of a vector instruction with its opcode. -/
def vfOf : Instr → Option (Nat × VF)
  | .vadd f => some (0x01, f)
  | .vsub f => some (0x02, f)
  | .vmul f => some (0x03, f)
  | .vfma f => some (0x04, f)
  | .vmin f => some (0x05, f)
  | .vmax f => some (0x06, f)
  | .vand f => some (0x08, f)
  | .vor f => some (0x09, f)
  | .vxor f => some (0x0A, f)
  | .vshl f => some (0x0B, f)
  | .vshr f => some (0x0C, f)
  | .vsar f => some (0x0D, f)
  | .vcmp f => some (0x0E, f)
  | .vsel f => some (0x0F, f)
  | .vsplat f => some (0x10, f)
  | .vmov f => some (0x11, f)
  | .viota f => some (0x14, f)
  | .vrcp f => some (0x20, f)
  | .vrsqrt f => some (0x21, f)
  | .vexp2 f => some (0x22, f)
  | .vlog2 f => some (0x23, f)
  | .vtanh f => some (0x24, f)
  | .vsigm f => some (0x25, f)
  | .vsqrt f => some (0x26, f)
  | .vcvt f => some (0x30, f)
  | .vscale f => some (0x31, f)
  | .vgath f => some (0x32, f)
  | .vscat f => some (0x33, f)
  | .vfill f => some (0x34, f)
  | .vredadd f => some (0x40, f)
  | .vredmax f => some (0x41, f)
  | .vredmin f => some (0x42, f)
  | .vscan f => some (0x43, f)
  | .vnz f => some (0x44, f)
  | .vcompact f => some (0x45, f)
  | .vargmax f => some (0x46, f)
  | .vsoftmax f => some (0x47, f)
  | _ => none

/-- The fields of a slot V half that reads v registers, whose gang offsets R44 and R168 limit. -/
def gangForm : Instr → Option VF
  | .vext f => some f
  | .vins f => some f
  | .vperm f => some f
  | i => (vfOf i).map fun x => x.2

/-- A region of a command is empty: it makes no access (R114). -/
def anyEmpty (h : List Shape) : Bool := h.any fun r => shCount r == 0

/-- The work of a vector command (R261, R262, R272, R284). -/
def vWork (c : Nat) (x : Cmd) : Job :=
  match vfOf x.instr with
  | none => .nothing
  | some (opc, f) =>
    let v := vshape opc f
    let ty := f.ty.toNat
    let regs := [x.sd] ++ (if v.useA ∧ 16 ≤ f.va.toNat then [x.sa] else []) ++ (if v.useB ∧ 16 ≤ f.vb.toNat then [x.sb] else [])
    let n := lanesOf ty
    let each := fun (r : Shape) (b : State → Nat → Nat → Eng (Nat × Nat)) =>
      ({ main := shCount r, item := b, run := n, row := shE r 0 } : Job)
    let g := max (shLen x.sa) (shLen x.sd)
    let groups := fun (b : State → Nat → Nat → Eng (Nat × Nat)) =>
      ({ main := shCount x.sd / g, item := b, elem := g, run := if g = 1 then n else 1, row := shE x.sd 0 / g } : Job)
    if anyEmpty regs then .nothing
    else
      match opc with
      | 0x30 => groups fun s k _ => s.vCvt x c f k
      | 0x31 => if isBlock ty then groups fun s k _ => s.vBlockScale x c f k else each x.sd fun s k _ => s.vElem x c opc f k
      | 0x32 => each x.sd fun s k _ => s.vIndex x c true f k
      | 0x33 => each x.sa fun s k _ => s.vIndex x c false f k
      | 0x34 => each x.sd fun s k _ => s.vFill x c f k
      | 0x44 => (each x.sa fun s k cnt => s.vNz x c k cnt).counted x c (shE x.sd 0) 1
      | 0x45 =>
        ({ main := shE x.sa 1, item := fun s k cnt => s.vCompact x c k cnt, elem := shE x.sa 0 } : Job).counted x c (shE x.sd 1) (shE x.sa 0)
      | _ =>
        if 0x40 ≤ opc then
          { main := shRows x.sd, item := fun s j _ => s.vRow x c opc f j, elem := if 16 ≤ f.va.toNat then shE x.sa 0 else shE x.sd 0 }
        else each x.sd fun s k _ => s.vElem x c opc f k

end Sys2Proof.Machine
end

