-- ==== Sys2Proof/Machine/Copy.lean ====
section
/-! DEFINITION. The copy engine's instructions (R304 to R310): their issue and their work. -/

namespace Sys2Proof.Machine

/-! ### Issue -/

/-- Two regions of a pair have the same format and block code (R304). -/
def samePair (a b : Shape) : Bool := shFmt a == shFmt b && (shBlk a == shBlk b)

/-- Whole groups along dimension 0 (R304). -/
def wholeGroups (h : Shape) : Bool := shE h 0 % shLen h == 0

/-- cp (R305). -/
def execCp (f : VF) (s : State) : Host.Outcome State Fault Refusal :=
  half f.pn f.pg s fun s =>
    let hd := s.rh (f.vd.toNat - 16)
    let ha := s.rh (f.va.toNat - 16)
    match s.region hd true false false, s.region ha false false false with
    | .error e, _ => s.faultCode e
    | _, .error e => s.faultCode e
    | .ok rd, .ok ra =>
      if !samePair hd ha then s.faultCode 0x01
      else if !wholeGroups hd || !wholeGroups ha || !sameExt hd ha then s.faultCode 0x11
      else
        s.issue { id := 0, org := {}, instr := .cp f, eng := .copy, sd := hd, sa := ha, pd := rd.sp, pa := ra.sp,
                  tag := f.tag.toNat } [rd.foot, ra.foot]

/-- The count pointer of cpg and cps (R306): absent, or the word's place in own local memory with its footprint. -/
def State.countPtr (s : State) (f : VF) : Except Nat (Option Space) :=
  if f.gs = 0 then .ok none
  else
    let p := s.rg f.gs
    match s.space p with
    | .error e => .error e
    | .ok (.loc c o) =>
      if c ≠ s.ctx.core then .error 0x03
      else if o % 8 ≠ 0 then .error 0x02
      else if s.objectSize (.loc c o) < o + 8 then .error 0x03
      else .ok (some (.loc c o))
    | .ok _ => .error 0x03

/-- A record whose CNT and DM are ignored, as those of a table region are (R306). -/
def uncounted (h : Shape) : Shape := setFld (setFld h 230 1 0) 226 2 (if shDm h < 2 then 0 else h.extractLsb' 226 2 |>.setWidth 256)

/-- The checks and the issue of cpg and cps (R306). -/
def State.gather (s : State) (i : Instr) (f : VF) (cpg : Bool) : State :=
  let h0 := s.rh (f.vd.toNat - 16)
  let hd := if cpg then h0 else uncounted h0
  let ha := s.rh (f.va.toNat - 16)
  let hb := if 16 ≤ f.vb.toNat then some (s.rh (f.vb.toNat - 16)) else none
  match s.region hd true cpg false, s.region ha false false false, s.regionOf hb false false with
  | .error e, _, _ => s.faultCode e
  | _, .error e, _ => s.faultCode e
  | _, _, .error e => s.faultCode e
  | .ok rd, .ok ra, .ok rb =>
    let flat := fun (h : Shape) => shE h 2 == 1 && shE h 3 == 1
    let badIdx := match hb with
      | some h => shFmt h != 3
      | none => false
    let badIx := match hb with
      | some h => !(flat h && shE h 1 == 1)
      | none => false
    if !samePair hd ha || badIdx then s.faultCode 0x01
    else if !wholeGroups hd || !wholeGroups ha || shE hd 0 != shE ha 0 || !flat hd || !flat ha || badIx then s.faultCode 0x11
    else
      match s.countPtr f with
      | .error e => s.faultCode e
      | .ok cp =>
        s.issue {
          id := 0, org := {}, instr := i, eng := .copy, sd := hd, sa := ha, sb := hb.getD 0, pd := rd.sp, pa := ra.sp,
          pb := regSpace rb, pc := rd.count, vb := s.rv f.vb.toNat, gs := s.rg f.gs,
          gt := match cp with
            | some sp => BitVec.ofNat 64 sp.off
            | none => 0,
          tag := f.tag.toNat }
          [rd.foot, ra.foot, rb.bind fun r => r.foot, cp.map fun sp => sp.foot 8 false]

/-- cpg (R306). -/
def execCpg (f : VF) (s : State) : Host.Outcome State Fault Refusal := half f.pn f.pg s fun s => s.gather (.cpg f) f true
/-- cps (R306). -/
def execCps (f : VF) (s : State) : Host.Outcome State Fault Refusal := half f.pn f.pg s fun s => s.gather (.cps f) f false

/-- cpfill (R307). -/
def execCpfill (f : VF) (s : State) : Host.Outcome State Fault Refusal :=
  half f.pn f.pg s fun s =>
    let hd := s.rh (f.vd.toNat - 16)
    match s.region hd true false false with
    | .error e => s.faultCode e
    | .ok rd =>
      if 8 < shFmt hd then s.faultCode 0x01
      else
        s.issue { id := 0, org := {}, instr := .cpfill f, eng := .copy, sd := hd, pd := rd.sp, gs := s.rg f.gs, tag := f.tag.toNat }
          [rd.foot]

/-- The peer-side region's space at issue (R308): the rest is checked at the peer. -/
def peerOk (h : Shape) : Except Nat Unit :=
  let a := ptrAddr (shBase h)
  if a < 2 ^ 56 then .ok ()
  else
    match a / 2 ^ 48 % 256 with
    | 0xF0 => .error 0x03
    | 0xF1 => .error 0x03
    | 0xF2 => .ok ()
    | 0xF3 => .ok ()
    | 0xF4 => .error 0x03
    | 0xF8 => .error 0x03
    | _ => .error 0x01

/-- The issue of cpr (R308): only the local side has a footprint. -/
def State.cprIssue (s : State) (i : Instr) (f : VF) (pull : Bool) : State :=
  let hd := s.rh (f.vd.toNat - 16)
  let ha := s.rh (f.va.toNat - 16)
  let w := s.rg f.gs
  if !shLegal (if pull then ha else hd) (!pull) false then s.faultCode 0x01
  else
    match s.region (if pull then hd else ha) pull false false with
    | .error e => s.faultCode e
    | .ok r =>
      if !samePair hd ha then s.faultCode 0x01
      else if 64 ≤ w.toNat ∨ w.toNat = s.modid then s.faultCode 0x03
      else
        match peerOk (if pull then ha else hd) with
        | .error e => s.faultCode e
        | .ok _ =>
          if !wholeGroups hd || !wholeGroups ha || !sameExt hd ha then s.faultCode 0x11
          else
            s.issue { id := 0, org := {}, instr := i, eng := .copy, sd := hd, sa := ha, pd := r.sp, pa := r.sp, gs := w,
                      tag := f.tag.toNat } [r.foot]

/-- cpr, a push (R308). -/
def execCpr (f : VF) (s : State) : Host.Outcome State Fault Refusal := half f.pn f.pg s fun s => s.cprIssue (.cpr f) f false
/-- cpr.pull (R308). -/
def execCprPull (f : VF) (s : State) : Host.Outcome State Fault Refusal := half f.pn f.pg s fun s => s.cprIssue (.cprPull f) f true

/-- A region lies in the durable window. -/
def inDurable (h : Shape) : Bool := ptrAddr (shBase h) / 2 ^ 48 == 0x1F8

/-- The alignment of a durable side (R309): the offset, the bytes of a row and every stride. -/
def durAligned (h : Shape) : Bool :=
  ptrAddr (shBase h) % 64 == 0 && ceilDiv (shE h 0) (shLen h) * shUnit h % 64 == 0 &&
    shS h 1 % 64 == 0 && shS h 2 % 64 == 0 && shS h 3 % 64 == 0

/-- A region of cpdur: beyond the durable area is the access fault (R309). -/
def State.durRegion (s : State) (h : Shape) (wr : Bool) : Except Nat Reg :=
  match s.region h wr false true with
  | .error 0x11 => .error (if inDurable h then 0x03 else 0x11)
  | r => r

/-- cpdur (R309). -/
def execCpdur (f : VF) (s : State) : Host.Outcome State Fault Refusal :=
  half f.pn f.pg s fun s =>
    let hd := s.rh (f.vd.toNat - 16)
    let ha := s.rh (f.va.toNat - 16)
    match s.durRegion hd true, s.durRegion ha false with
    | .error e, _ => s.faultCode e
    | _, .error e => s.faultCode e
    | .ok rd, .ok ra =>
      if !samePair hd ha then s.faultCode 0x01
      else if inDurable hd == inDurable ha then s.faultCode 0x03
      else if !durAligned (if inDurable hd then hd else ha) then s.faultCode 0x02
      else if !wholeGroups hd || !wholeGroups ha || !sameExt hd ha then s.faultCode 0x11
      else
        s.issue { id := 0, org := {}, instr := .cpdur f, eng := .copy, sd := hd, sa := ha, pd := rd.sp, pa := ra.sp,
                  tag := f.tag.toNat } [rd.foot, ra.foot]

/-! ### The work of a copy command -/

/-- A unit of the source, which holds element k of it, copied to VD. -/
def State.copyUnit (s : State) (x : Cmd) (c : Nat) (k : Nat) (from_ dest : Int) : Eng Unit :=
  (s.unitBytes x c x.sa x.pa k from_).then fun s bs => s.putUnit x c dest bs

/-- Row i of VA copied to row j of VD, n units from unit u on. -/
def State.copyUnits (s : State) (x : Cmd) (c : Nat) (i j : Nat) : Nat → Nat → Eng Unit
  | 0, _ => .ok s ()
  | n + 1, u =>
    let e := u * shLen x.sd
    (s.copyUnit x c (i * shE x.sa 0 + e) (shOff x.sa e i 0 0) (shOff x.sd e j 0 0)).then fun s _ => State.copyUnits s x c i j n (u + 1)

/-- Units of a row of VD. -/
def rowUnits (h : Shape) : Nat := shE h 0 / shLen h

/-- A row of VD written as zero bytes. -/
def State.zeroUnits (s : State) (x : Cmd) (c j : Nat) : Nat → Nat → Eng Unit
  | 0, _ => .ok s ()
  | n + 1, u =>
    (s.putUnit x c (shOff x.sd (u * shLen x.sd) j 0 0) (List.replicate (shUnit x.sd) 0)).then fun s _ => State.zeroUnits s x c j n (u + 1)

/-- The index k of cpg and cps: an access fault beyond the table's rows (R306, R310). -/
def State.copyIndex (s : State) (x : Cmd) (c : Nat) (f : VF) (tbl : Shape) (k : Nat) : Eng Nat :=
  let idx : Eng Nat :=
    if 16 ≤ f.vb.toNat then (s.unitBytes x c x.sb x.pb k (shOff x.sb k 0 0 0)).then fun s bs => .ok s (natOfBytes bs)
    else .ok s (lanePat x.vb 3 k)
  idx.then fun s i => tableIndex s tbl (shE tbl 1) i

/-- The index count n of R306: the count word is read when the command starts. -/
def State.indexCount (s : State) (c : Nat) (x : Cmd) (f : VF) : Eng Nat :=
  let n := if 16 ≤ f.vb.toNat then shE x.sb 0 else 16
  if f.gs = 0 then .ok s n
  else (s.engRead (x.ctx c) (.loc c x.gt.toNat) 8).then fun s bs => .ok s (min n (natOfBytes (bs.take 4)))

/-- The module that a link which is up leads to (R432): some link of the module's entry carries flits to it. -/
def State.routable (s : State) (m : Nat) : Bool :=
  let r := Tab.findD s.hub.reach m (0 : Word)
  r.getLsbD 16 && (List.range 16).any fun l => r.getLsbD l && (Tab.findD s.hub.links l (0 : Word)).getLsbD 6

/-- The core at the peer that a region's flits name: the owner of a core memory; for shared virtual memory, whose home only the peer knows,
core 0 (assumption log 9). -/
def peerCore (h : Shape) : Nat :=
  let a := ptrAddr (shBase h)
  if a / 2 ^ 48 % 256 = 0xF2 ∨ a / 2 ^ 48 % 256 = 0xF3 then a / 2 ^ 18 % 16384 else 0

/-- The number under which unit k of a cpr crosses a peer link. -/
def peerLine (k : Nat) : Nat := 2 ^ 80 + k

/-- Bytes that a peer's memory answers: free values (R308; assumption log 9). -/
def freeBytes (n seed : Nat) : List Byte :=
  (List.range n).map fun i => (Config.freeWord (seed + i / 8)).extractLsb' (8 * (i % 8)) 8

/-- A unit of cpr (R308, R310, R432): its bulk transfer crosses a peer link first; an unroutable module and a peer's refusal are access
faults, a poisoned flit of the peer's data an uncorrected error (R418). -/
def State.peerUnit (s : State) (x : Cmd) (c : Nat) (pull : Bool) (k : Nat) : Eng (Nat × Nat) :=
  let far := if pull then x.sa else x.sd
  let line := peerLine k
  let crossed := fun (s : State) (go : State → Eng (Nat × Nat)) =>
    match s.fetched.find? fun y => y.who == x.id && y.line == line with
    | none => .far s [{ line := line, wr := !pull, stops := [peerCore far], dmod := some x.gs.toNat }]
    | some y =>
      if !y.ok then .fault s 0 { code := 0x03, addr := shBase far }
      else if pull ∧ y.bad then .fault s 0 { code := 0x12, addr := shBase far }
      else go s
  if !s.routable x.gs.toNat then .fault s 0 { code := 0x03, addr := shBase far }
  else if pull then
    crossed s fun s =>
      let bs := freeBytes (shUnit x.sd) s.fresh
      let s := { s with fresh := s.fresh + bs.length / 8 + 1 }
      (s.putUnit x c (shOffFlat x.sd (k * shLen x.sd)) bs).then fun s _ => .ok s (0, 0)
  else
    (s.unitBytes x c x.sa x.pa (k * shLen x.sa) (shOffFlat x.sa (k * shLen x.sa))).then fun s _ => crossed s fun s => .ok s (0, 0)

/-- The durable areas with the stores on their way to the depot that a command of core c sees: those of its own core, which are visible to
it from their completion on (R116), and of the others those that the free choice takes (R113). -/
def State.durableView (s : State) (c : Nat) (others : Bool) : List Host.Cell :=
  s.net.foldl (fun m x =>
    match x.body with
    | .durable pa bs _ => if others || x.org.core == c then Mem.writeN m pa bs else m
    | _ => m) s.mem

/-- A unit of cpdur (R113, R309): a store to the window goes to the depot's write path; a load from it sees the core's own stores, and
sees those of others that are not fenced or does not see them, freely. -/
def State.durUnit (s : State) (x : Cmd) (c : Nat) (k : Nat) : Eng (Nat × Nat) :=
  let m := if inDurable x.sa then s.durableView c (Config.overlapOld x.id k) else s.mem
  (s.engReadIn m (x.ctxFor c x.sa) (x.pa.moved (shOffFlat x.sa (k * shLen x.sa))) (shUnit x.sa)).then fun s bs =>
    match x.pd.moved (shOffFlat x.sd (k * shLen x.sd)) with
    | .durable o =>
      match s.missing (x.ctx c) (.durable o) true (runsOf (cellsOf ((List.range bs.length).map fun i =>
          Config.durBase + bindTen x.org.bind * 2 ^ 48 + o + i) bs)) with
      | a :: l => .far s (a :: l)
      | [] =>
      .ok { s.bump with net := s.net ++ [{
        id := s.fresh, src := c, dst := 16384, dmod := s.modid, ten := bindTen x.org.bind, org := x.org,
        body := .durable (Config.durBase + bindTen x.org.bind * 2 ^ 48 + o) bs 0, stage := .arrived, born := s.cycle }] } (0, 0)
    | sp => (s.engWrite (x.ctxFor c x.sd) sp bs).then fun s _ => .ok s (0, 0)

/-- The work of a copy command (R304 to R310): element by element or unit by unit in region order, a line at most in a run (R18); cpg and
cps row by row, by index. -/
def copyWork (c : Nat) (x : Cmd) : Job :=
  let units := fun (b : State → Nat → Nat → Eng (Nat × Nat)) =>
    ({ main := shCount x.sd / shLen x.sd, item := b, elem := shLen x.sd, run := max 1 (64 / max 1 (shUnit x.sd)), row := rowUnits x.sd } : Job)
  let withIndex := fun (f : VF) => [x.sd, x.sa] ++ (if 16 ≤ f.vb.toNat then [x.sb] else [])
  match x.instr with
  | .cp _ =>
    if anyEmpty [x.sd, x.sa] then .nothing
    else units fun s k _ =>
      (s.copyUnit x c (k * shLen x.sa) (shOffFlat x.sa (k * shLen x.sa)) (shOffFlat x.sd (k * shLen x.sd))).then fun s _ => .ok s (0, 0)
  | .cpg f =>
    if anyEmpty (withIndex f) then .nothing
    else
      let rows := shE x.sd 1
      { main := min x.lim rows
        item := fun s k _ =>
          (s.copyIndex x c f x.sa k).then fun s i => (s.copyUnits x c i k (rowUnits x.sd) 0).then fun s _ => .ok s (0, 0)
        zeros := fun _ => if shDm x.sd = 1 then rows - min x.lim rows else 0
        first := fun _ => min x.lim rows
        zero := fun s j => s.zeroUnits x c j (rowUnits x.sd) 0
        finish := fun s _ => s.putCount x c x.lim rows }
  | .cps f =>
    if anyEmpty (withIndex f) then .nothing
    else
      { main := min x.lim (shE x.sa 1)
        item := fun s k _ =>
          (s.copyIndex x c f x.sd k).then fun s i => (s.copyUnits x c k i (rowUnits x.sd) 0).then fun s _ => .ok s (0, 0) }
  | .cpfill _ =>
    if anyEmpty [x.sd] then .nothing
    else units fun s k _ => (s.putElem x c k (x.gs.toNat % 2 ^ (8 * shUnit x.sd))).then fun s _ => .ok s (0, 0)
  | .cpr _ => if anyEmpty [x.sd, x.sa] then .nothing else units fun s k _ => s.peerUnit x c false k
  | .cprPull _ => if anyEmpty [x.sd, x.sa] then .nothing else units fun s k _ => s.peerUnit x c true k
  | .cpdur _ => if anyEmpty [x.sd, x.sa] then .nothing else units fun s k _ => s.durUnit x c k
  | _ => .nothing

/-- A copy command starts: with cpg and cps its index count is read, unless a region of it is empty (R114, R306). -/
def State.copyStart (s : State) (c : Nat) (x : Cmd) : Eng Nat :=
  let count := fun (f : VF) =>
    if anyEmpty ([x.sd, x.sa] ++ (if 16 ≤ f.vb.toNat then [x.sb] else [])) then Eng.ok s 0 else s.indexCount c x f
  match x.instr with
  | .cpg f => count f
  | .cps f => count f
  | _ => .ok s 0

end Sys2Proof.Machine
end

