-- ==== Sys2Proof/Machine/Handles.lean ====
section
/-! DEFINITION. Code handles as a thread uses them: spec, callh, reth, hrel, hinfo, hkeep (R311 to R315, R326 to R330). -/

namespace Sys2Proof.Machine

/-- A fault with the handle in auxiliary word 0 and a reason in auxiliary word 1 (R326, R328). -/
def handleFault (code : Nat) (h : Word) (reason : Nat) : FaultInfo :=
  { code := code, aux0 := zextW h 32, aux1 := BitVec.ofNat 64 reason }

/-- The fault of spec before the fold, from the source's entry (R314, R315, R326). -/
def State.specFault (s : State) (h m : Word) : Option FaultInfo :=
  match s.handleValid (bindTen s.cur.bind) h with
  | none => some (handleFault 0x0A h 0)
  | some a =>
    let w := s.mem64 (a + 8)
    let em := BitVec.ofNat 8 (fld m 0 8)
    if fld w 0 2 = 2 then some (handleFault 0x0B h 0)
    else if fld w 10 2 = 1 then some (handleFault 0x0C h 1)
    else if fld m 19 45 ≠ 0 ∨ 1024 < fld m 8 11 ∨ em &&& ~~~BitVec.ofNat 8 (fld w 12 8) ≠ 0 then some (handleFault 0x0C h 2)
    else none

/-- A wait of spec before its request is sent, for the fence or for the answer of the pin: KIND 5 from issue to reply (R327). -/
def State.foldWait (s : State) : State :=
  match s.ctx.res with
  | .retry (.fence _) => s.retry (.fold 1) 0
  | .retry .reply => s.retry (.fold 2) 0
  | _ => s

/-- spec (R327): the source is pinned, the request goes to the cluster's folding unit, and the thread waits with KIND 5; the
unit's answer is the new handle or a fault. -/
def execSpec (f : AR) (s : State) : Host.Outcome State Fault Refusal :=
  half f.pn f.pg s fun s =>
    let h := zextW (s.rg f.ra) 32
    let m := s.rg f.rb
    let wait := fun (s : State) => s.retry (.fold 0) 0
    s.asStep fun s =>
      match s.cur.foldAns with
      | some (.ok x) => (s.modCur fun t => { t with foldAns := none }).wg f.rd x
      | some (.fault e) => (s.modCur fun t => { t with foldAns := none }).takeFault e
      | some .clean => (s.modCur fun t => { t with foldAns := none }).withRes .again
      | none =>
        match s.cur.acc with
        | none =>
          match s.specFault h m with
          | some e => s.takeFault e
          | none => (s.update h 0 fun s _ => s).foldWait
        | some _ => State.foldWait (s.update h 0 fun s _ =>
            let q : FoldReq := {
              org := s.origin, handle := h, em := fld m 0 8, ub := fld m 8 11,
              g := (List.range 8).map fun i => s.rg (BitVec.ofNat 4 (i + 1)) }
            wait (s.modCluster (clusterOf s.ctx.core) fun c => { c with folds := c.folds ++ [q] }))

/-- callh (R329): the handle is pinned and stacked, and the thread goes on at CODE; g15 is untouched. -/
def execCallh (f : AR) (s : State) : Host.Outcome State Fault Refusal :=
  half f.pn f.pg s fun s =>
    let h := zextW (s.rg f.ra) 32
    if 4 ≤ s.cur.hs.length then s.takeFault (handleFault 0x13 h 0)
    else s.update h 0 fun s code =>
      if fld code 0 4 ≠ 0 then (s.sendUnpin s.origin h).faultCode 0x02
      else
        ((s.modCur fun t => { t with hs := t.hs ++ [{ handle := h, ret := s.fallthrough }] }).goto code).entering

/-- reth (R329): the top entry is unpinned and taken off, and the thread goes on at its return address; a null one ends the
thread (R32), which unwinds what is stacked below it. -/
def execReth (f : AR) (s : State) : Host.Outcome State Fault Refusal :=
  half f.pn f.pg s fun s =>
    match s.cur.hs.getLast? with
    | none => s.faultCode 0x13
    | some e => s.update e.handle 1 fun s _ =>
        let s := s.modCur fun t => { t with hs := t.hs.dropLast }
        if ptrAddr e.ret = 0 then (s.modCur fun t => { t with hs := t.hs.map fun x => { x with ret := 0 } }).endSelf
        else s.goto e.ret

/-- hrel (R330). -/
def execHrel (f : AR) (s : State) : Host.Outcome State Fault Refusal :=
  half f.pn f.pg s fun s => s.update (zextW (s.rg f.ra) 32) 2 fun s _ => s

/-- The word hinfo writes (R330): a word of the entry that IDX names, valid or not, index 0 included; 0 beyond the table. -/
def State.hinfoWord (s : State) (h : Word) (sel : Nat) : Word :=
  let t := bindTen s.cur.bind
  let a := (s.tenantWord t 0).toNat + 32 * handleIdx h
  if handleIdx h < fld (s.tenantWord t 1) 0 24 then
    match sel with
    | 0 => setFld (s.mem64 (a + 8)) 7 1 (if (s.handleValid t h).isSome then 1 else 0)
    | 1 => s.mem64 a
    | 2 => s.mem64 (a + 16)
    | _ => s.mem64 (a + 24)
  else 0

/-- hinfo (R330): reads the entry as it stands, without waiting. -/
def execHinfo (f : AR) (s : State) : Host.Outcome State Fault Refusal :=
  half f.pn f.pg s fun s => s.wg f.rd (s.hinfoWord (zextW (s.rg f.ra) 32) (fld f.fn 0 2))

/-- hkeep (R330): the image goes to the depot behind the thread's durable stores; a generic residual or one with ELOAD is not
kept. -/
def execHkeep (f : AR) (s : State) : Host.Outcome State Fault Refusal :=
  half f.pn f.pg s fun s =>
    let h := zextW (s.rg f.ra) 32
    s.asStep fun s =>
      match s.handleValid (bindTen s.cur.bind) h with
      | none => s.takeFault (handleFault 0x0A h 0)
      | some a =>
        let w := s.mem64 (a + 8)
        if fld w 10 2 = 0 then s.takeFault (handleFault 0x0C h 1)
        else if w.getLsbD 4 ∨ w.getLsbD 9 then s
        else { s.bump with net := s.net ++ [{
            id := s.fresh, src := s.ctx.core, dst := 16384, dmod := s.modid, ten := bindTen s.cur.bind, org := s.origin,
            body := .depot h, stage := .arrived, born := s.cycle }] }

end Sys2Proof.Machine
end

