-- ==== Sys2Proof/Machine/Matrix.lean ====
section
/-! DEFINITION. The matrix instructions (R285 to R303): their issue, the slices, the scales and the check (R77 to R95), macc, mclr,
manchor, the latches. -/

namespace Sys2Proof.Machine

/-! ### Accumulator regions (R81, R82, R85, R289, R290) -/

/-- AF: 0 ACC16, 1 ACC32, 2 F32. -/
def accAF (h : Shape) : Nat := fld h 228 2
/-- The anchor X. -/
def accX (h : Shape) : Int := (h.extractLsb' 230 10).toInt
/-- The element's bytes. -/
def accZ (h : Shape) : Nat := if accAF h = 0 then 2 else 4
/-- The width W. -/
def accW (h : Shape) : Nat := 8 * accZ h
/-- The reserved fields and codes of an accumulator region (R114, R115, R289). -/
def accFields (h : Shape) : Bool :=
  shKind h == 1 && fld h 240 16 == 0 && fld h 226 2 == 0 && decide (accAF h < 3) && fmtBlkOk (shFmt h) (shBlk h)

/-- The format and the anchor that AF asks for (R290, first row). -/
def accLegal (h : Shape) : Bool :=
  match accAF h with
  | 0 => shFmt h == 2
  | 1 => shFmt h == 3
  | _ => shFmt h == 8 && accX h == 0

/-- An accumulator region's checks of R101, R113, R114, R115 and R120 for a core: where it lies with its footprint (none for an empty region), or the
fault's code. -/
def State.accRegion (s : State) (c ten : Nat) (h : Shape) (wr : Bool) : Except Nat Reg :=
  if !accFields h then .error 0x01
  else
    match s.spaceOf c ten (shBase h) with
    | .error e => .error e
    | .ok sp =>
      let bad := match sp with
        | .window _ _ => true
        | .durable _ => true
        | _ => false
      if bad then .error 0x03
      else if shCount h = 0 then .ok { sp := sp }
      else
        let d := fun (n : Nat) => ((shE h n : Int) - 1) * shS h n
        let lo := (sp.off : Int) + min 0 (d 1) + min 0 (d 2) + min 0 (d 3)
        let hi := (sp.off : Int) + ((shE h 0 * accZ h : Nat) : Int) - 1 + max 0 (d 1) + max 0 (d 2) + max 0 (d 3)
        if lo < 0 ∨ (s.objectSizeOf c ten sp : Int) ≤ hi then .error 0x11
        else .ok { sp := sp, foot := some { (sp.foot 1 wr) with lo := lo.toNat, hi := hi.toNat } }

/-- The conditions of R290 on such a region, in the order of its table: its offset, or the fault's code. own says that only 0xF1 is
admitted (R296). -/
def accRule (c : Nat) (h : Shape) (r : Reg) (own : Bool) : Except Nat Nat :=
  if !accLegal h then .error 0x01
  else
    match r.sp with
    | .acc k o =>
      if k ≠ c ∨ (own ∧ ptrAddr (shBase h) / 2 ^ 48 % 256 ≠ 0xF1) then .error 0x03
      else if o % accZ h ≠ 0 ∨ shS h 1 % accZ h ≠ 0 then .error 0x02
      else if shE h 2 ≠ 1 ∨ shE h 3 ≠ 1 then .error 0x11
      else .ok o
    | _ => .error 0x03

/-- The accumulator offset of element (i, j). -/
def accOff (h : Shape) (o i j : Nat) : Nat := ((o : Int) + ((j * accZ h : Nat) : Int) + (i : Int) * shS h 1).toNat

/-- A lean (R85). -/
inductive Lean where
  | zero
  | plus
  | minus
  | lost
deriving DecidableEq, Repr

/-- The code of a lean (R85). -/
def Lean.code : Lean → Nat
  | .zero => 0
  | .plus => 1
  | .minus => 3
  | .lost => 2
/-- The lean of a code. -/
def leanOf (n : Nat) : Lean :=
  match n with
  | 0 => .zero
  | 1 => .plus
  | 3 => .minus
  | _ => .lost
/-- The lean as the number that R84 adds to. -/
def Lean.num : Lean → Int
  | .plus => 1
  | .minus => -1
  | _ => 0

/-- The lean of an element at an accumulator address. -/
def State.leanAt (s : State) (pa : Nat) : Lean := leanOf (Tab.findD s.lean (pa / 2) 0)

/-- The stored bits and the lean of an element at an accumulator address. -/
def State.accGet (s : State) (pa z : Nat) : Nat × Lean := (s.memNat pa z, s.leanAt pa)

/-- An element and its lean written; the odd entry after a 32-bit element is 0b00 (R85, R301). -/
def State.accPut (s : State) (pa z n : Nat) (l : Lean) : State :=
  let t := if l.code = 0 then Tab.del s.lean (pa / 2) else Tab.put s.lean (pa / 2) l.code
  { s with mem := Mem.writeN s.mem pa (bytesOfNat z n), lean := if z = 4 then Tab.del t (pa / 2 + 1) else t }

/-! ### Operand formats (R77, R78) -/

/-- A and B formats of ACC16 and ACC32. -/
def accFmtOk (f : Nat) : Bool := f == 1 || f == 4 || f == 5 || (decide (9 ≤ f) && decide (f ≤ 14))
/-- A and B formats of F32. -/
def f32FmtOk (f : Nat) : Bool := f == 6 || f == 7
/-- The pairing that R78 allows. -/
def pairOk (af fa fb : Nat) : Bool := if af = 2 then f32FmtOk fa && f32FmtOk fb else accFmtOk fa && accFmtOk fb
/-- The depth of one format. -/
def depthOf (f : Nat) : Nat :=
  match f with
  | 9 => 16
  | 12 => 16
  | 14 => 16
  | 6 => 4
  | 7 => 4
  | _ => 8
/-- The slice depth D. -/
def sliceD (fa fb : Nat) : Nat := min (depthOf fa) (depthOf fb)

/-! ### Issue -/

/-- A code names a shape register. -/
def isH (c : BitVec 5) : Bool := decide (16 ≤ c.toNat)
/-- The shape register of an operand code. -/
def State.hOf (s : State) (c : BitVec 5) : Shape := s.rh (c.toNat - 16)

/-- The footprint of a latch (R287). -/
def latchFoot (core l : Nat) (wr : Bool) : Foot := { space := 5, core := core, lo := l, hi := l, wr := wr }

/-- A region in a core's own local memory (R291). -/
def localTo (r : Reg) (core : Nat) : Bool :=
  match r.sp with
  | .loc c _ => c == core
  | _ => false

/-- Whole blocks along dimension 0 (R61, R291). -/
def wholeBlocks (h : Shape) : Bool := shE h 0 % shLen h == 0

/-- What an mma's operands come to at issue, for the core that runs it: the fault's code, or the regions' places and footprints. -/
structure MmaRegs where
  c : Nat
  a : Space
  b : Space
  foots : List (Option Foot)

/-- The regions of an mma on a core for records C, A and B, checked by R114, R115 and R120 (R287): C's, A's, and B's where it is in memory;
seg says that B's base is a template (R298). -/
def State.mmaRegions (s : State) (core ten : Nat) (hc ha hb : Shape) (mem seg : Bool) : Except Nat (Reg × Reg × Option Reg) :=
  let rb : Except Nat (Option Reg) :=
    if !mem then .ok none
    else if seg then (if shLegal hb false false then .ok none else .error 0x01)
    else
      match s.regionOn core ten hb false false false with
      | .error e => .error e
      | .ok r => .ok (some r)
  match s.accRegion core ten hc true, s.regionOn core ten ha false false false, rb with
  | .error e, _, _ => .error e
  | _, .error e, _ => .error e
  | _, _, .error e => .error e
  | .ok rc, .ok ra, .ok rb => .ok (rc, ra, rb)

/-- The rules of R290 and R291 for such regions (a latch's number instead of B where latch is given); far says that only 0xF0 and 0xF1 are
admitted (R296). -/
def mmaRules (core : Nat) (hc ha hb : Shape) (r : Reg × Reg × Option Reg) (latch : Option Nat) (u far : Bool) : Except Nat MmaRegs :=
  let (rc, ra, rb) := r
  let mem := latch.isNone
  match accRule core hc rc far with
  | .error e => .error e
  | .ok o =>
    let away := fun (r : Reg) (h : Shape) => !localTo r core || (far && ptrAddr (shBase h) / 2 ^ 48 % 256 != 0xF0)
    let awayB := match rb with
      | some r => away r hb
      | none => false
    let fb := if mem then shFmt hb else shFmt ha
    let flat := fun (h : Shape) => shE h 2 == 1 && shE h 3 == 1
    if away ra ha || awayB then .error 0x03
    else if !pairOk (accAF hc) (shFmt ha) fb then .error 0x01
    else if mem && u && shFmt ha != 1 && shFmt hb != 1 then .error 0x01
    else if !flat ha || shE hc 1 != shE ha 1 || !wholeBlocks ha then .error 0x11
    else if mem && (!flat hb || shE ha 0 != shE hb 0 || shE hc 0 != shE hb 1 || !wholeBlocks hb) then .error 0x11
    else
      .ok { c := o, a := ra.sp, b := regSpace rb,
            foots := [rc.foot, ra.foot, rb.bind fun r => r.foot, latch.map fun l => latchFoot core l false] }

/-- The checks of an mma or mseg of the issuing thread (R287). -/
def State.mmaCheck (s : State) (hc ha hb : Shape) (latch : Option Nat) (u seg : Bool) : Except Nat MmaRegs :=
  match s.mmaRegions s.ctx.core (bindTen s.cur.bind) hc ha hb latch.isNone seg with
  | .error e => .error e
  | .ok r => mmaRules s.ctx.core hc ha hb r latch u false

/-- The command of an mma, mmar or mseg. -/
def State.mmaCmd (s : State) (i : Instr) (f : VF) (hc ha hb : Shape) (r : MmaRegs) (core : Nat) : Cmd :=
  let subst := shFmt ha == 14 || (f.fn.getLsbD 1 == false && shFmt hb == 14)
  { id := 0, org := {}, instr := i, eng := .matrix, sd := hc, sa := ha, sb := hb,
    pd := .acc core r.c, pa := r.a, pb := r.b, gs := s.rg f.gs, tag := f.tag.toNat, k3 := subst }

/-- The latch an mma names, where FN bit 1 is set. -/
def latchSrc (f : VF) : Option Nat := if f.fn.getLsbD 1 then some f.vb.toNat else none

/-- Operand codes that an mma may have (R286). -/
def mmaCodes (f : VF) : Bool :=
  isH f.vd && isH f.va && (match latchSrc f with
    | some l => decide (l < 2)
    | none => isH f.vb)

/-- mma (R291). -/
def execMma (f : VF) (s : State) : Host.Outcome State Fault Refusal :=
  half f.pn f.pg s fun s =>
    let hb := if isH f.vb then s.hOf f.vb else 0
    if !mmaCodes f then s.faultCode 0x01
    else
      match s.mmaCheck (s.hOf f.vd) (s.hOf f.va) hb (latchSrc f) f.u false with
      | .error e => s.faultCode e
      | .ok r => s.issue (s.mmaCmd (.mma f) f (s.hOf f.vd) (s.hOf f.va) hb r s.ctx.core) r.foots

/-- mmar (R296): the checks are made as at the target, or at the own core while the target may not be named; the command's footprints are
the target's. -/
def execMmar (f : VF) (s : State) : Host.Outcome State Fault Refusal :=
  half f.pn f.pg s fun s =>
    let hb := if isH f.vb then s.hOf f.vb else 0
    let w := s.rg f.gs
    let core := fld w 0 14
    let named := fld w 48 16 = 0 ∧ fld w 14 2 = 0 ∧ s.mayName core
    if !mmaCodes f then s.faultCode 0x01
    else
      match s.mmaRegions (if named then core else s.ctx.core) (bindTen s.cur.bind) (s.hOf f.vd) (s.hOf f.va) hb (latchSrc f).isNone false with
      | .error e => s.faultCode e
      | .ok r =>
        if !named then s.faultCode 0x03
        else
          match mmaRules core (s.hOf f.vd) (s.hOf f.va) hb r (latchSrc f) f.u true with
          | .error e => s.faultCode e
          | .ok r =>
            s.issue { s.mmaCmd (.mmar f) f (s.hOf f.vd) (s.hOf f.va) hb r core with tfoots := r.foots.filterMap fun x => x } []

/-- mseg (R298): the segment table's 4,112 bytes are a read footprint. -/
def execMseg (f : VF) (s : State) : Host.Outcome State Fault Refusal :=
  half f.pn f.pg s fun s =>
    let p := s.rg f.gs
    if !(isH f.vd && isH f.va && isH f.vb) ∨ f.fn.getLsbD 1 then s.faultCode 0x01
    else
      match s.mmaCheck (s.hOf f.vd) (s.hOf f.va) (s.hOf f.vb) none f.u true with
      | .error e => s.faultCode e
      | .ok r =>
        match s.space p with
        | .error e => s.faultCode e
        | .ok sp =>
          if ptrAddr p % 16 ≠ 0 then s.faultCode 0x02
          else
            match sp with
            | .loc c o =>
              if c ≠ s.ctx.core then s.faultCode 0x03
              else if s.reach p sp < o + 4112 then s.faultCode 0x11
              else
                let cmd := s.mmaCmd (.mseg f) f (s.hOf f.vd) (s.hOf f.va) (s.hOf f.vb) r s.ctx.core
                s.issue { cmd with pb := sp } (r.foots ++ [some { (sp.foot 4112 false) with hi := o + 4111 }])
            | _ => s.faultCode 0x03

/-- manchor (R299): the word is the only write footprint. -/
def execManchor (f : VF) (s : State) : Host.Outcome State Fault Refusal :=
  half f.pn f.pg s fun s =>
    let p := s.rg f.gs
    let ha := s.hOf f.va
    let hb := s.hOf f.vb
    if !(isH f.va && isH f.vb) then s.faultCode 0x01
    else
      match s.region ha false false false, s.region hb false false false with
      | .error e, _ => s.faultCode e
      | _, .error e => s.faultCode e
      | .ok ra, .ok rb =>
        if !accFmtOk (shFmt ha) || !accFmtOk (shFmt hb) || (f.u && shFmt ha != 1 && shFmt hb != 1) then s.faultCode 0x01
        else if !localTo ra s.ctx.core || !localTo rb s.ctx.core then s.faultCode 0x03
        else
          match s.space p with
          | .error e => s.faultCode e
          | .ok (.loc c o) =>
            let sp := Space.loc c o
            if o % 8 ≠ 0 then s.faultCode 0x02
            else if c ≠ s.ctx.core then s.faultCode 0x03
            else if s.objectSize sp < o + 8 then s.faultCode 0x03
            else if !wholeBlocks ha || !wholeBlocks hb then s.faultCode 0x11
            else
              let subst := (shFmt ha == 14 || shFmt hb == 14) && !anyEmpty [ha, hb]
              s.issue {
                id := 0, org := {}, instr := .manchor f, eng := .matrix, sa := ha, sb := hb, pd := sp, pa := ra.sp, pb := rb.sp,
                tag := f.tag.toNat, k3 := subst }
                [ra.foot, rb.foot, some (sp.foot 8 true)]
          | .ok _ => s.faultCode 0x03

/-- macc (R300). -/
def execMacc (f : VF) (s : State) : Host.Outcome State Fault Refusal :=
  half f.pn f.pg s fun s =>
    let hd := s.hOf f.vd
    let ha := s.hOf f.va
    let bias := f.fn.getLsbD 0
    let hb := if bias && isH f.vb then some (s.hOf f.vb) else none
    let badBias := match hb with
      | some h => shKind h != 0 || !fmtIs h none
      | none => false
    if rmBad f s.ctx.pre.tsw || !(isH f.vd && isH f.va) then s.faultCode 0x01
    else
      match s.region hd true false false, s.accRegion s.ctx.core (bindTen s.cur.bind) ha (f.fn.getLsbD 1), s.regionOf hb false false with
      | .error e, _, _ => s.faultCode e
      | _, .error e, _ => s.faultCode e
      | _, _, .error e => s.faultCode e
      | .ok rd, .ok ra, .ok rb =>
        match accRule s.ctx.core ha ra false with
        | .error e => s.faultCode e
        | .ok o =>
          let badExt := match hb with
            | some h => !extIs h (shE ha 0) 1 1 1
            | none => false
          if shFmt hd != f.ty.toNat || badBias then s.faultCode 0x01
          else if !sameExt ha hd || badExt then s.faultCode 0x11
          else
            s.issue {
              id := 0, org := {}, instr := .macc f, eng := .matrix, sd := hd, sa := ha, sb := hb.getD 0, pd := rd.sp,
              pa := .acc s.ctx.core o, pb := regSpace rb, vb := s.rv f.vb.toNat, tag := f.tag.toNat }
              [ra.foot, rd.foot, rb.bind fun r => r.foot]

/-- mclr (R301). -/
def execMclr (f : VF) (s : State) : Host.Outcome State Fault Refusal :=
  half f.pn f.pg s fun s =>
    if !isH f.vd then s.faultCode 0x01
    else
      match s.accRegion s.ctx.core (bindTen s.cur.bind) (s.hOf f.vd) true with
      | .error e => s.faultCode e
      | .ok r =>
        match accRule s.ctx.core (s.hOf f.vd) r false with
        | .error e => s.faultCode e
        | .ok o =>
          s.issue { id := 0, org := {}, instr := .mclr f, eng := .matrix, sd := s.hOf f.vd, pd := .acc s.ctx.core o, tag := f.tag.toNat }
            [r.foot]

/-- The bytes of a column of a B tile. -/
def colBytes (h : Shape) : Nat := ceilDiv (shE h 0) (shLen h) * shUnit h

/-- mld (R294). -/
def execMld (f : VF) (s : State) : Host.Outcome State Fault Refusal :=
  half f.pn f.pg s fun s =>
    let h := s.hOf f.va
    if 1 < f.vd.toNat ∨ !isH f.va then s.faultCode 0x01
    else
      match s.region h false false false with
      | .error e => s.faultCode e
      | .ok r =>
        if !(accFmtOk (shFmt h) || f32FmtOk (shFmt h)) then s.faultCode 0x01
        else if !localTo r s.ctx.core then s.faultCode 0x03
        else if shE h 2 ≠ 1 ∨ shE h 3 ≠ 1 ∨ 256 < shE h 0 ∨ 24 < shE h 1 ∨ 12288 < colBytes h * shE h 1 ∨ !wholeBlocks h then
          s.faultCode 0x11
        else
          s.issue { id := 0, org := {}, instr := .mld f, eng := .latch, sa := h, pa := r.sp, tag := f.tag.toNat }
            [r.foot, some (latchFoot s.ctx.core f.vd.toNat true)]

/-- The next core of the carousel (R14, R295). -/
def carouselNext (c : Nat) : Nat := c / 16 * 16 + (c % 16 + 1) % 16

/-- mrot (R295): a neighbour that is an office core or outside the partition is the access fault. -/
def execMrot (f : VF) (s : State) : Host.Outcome State Fault Refusal :=
  half f.pn f.pg s fun s =>
    if 1 < f.va.toNat then s.faultCode 0x01
    else if !s.mayName (carouselNext s.ctx.core) then s.faultCode 0x03
    else s.issue { id := 0, org := {}, instr := .mrot f, eng := .latch, tag := f.tag.toNat }
          [some (latchFoot s.ctx.core f.va.toNat true)]
/-- mrot.drop (R295). -/
def execMrotDrop (f : VF) (s : State) : Host.Outcome State Fault Refusal :=
  half f.pn f.pg s fun s =>
    if 1 < f.va.toNat then s.faultCode 0x01
    else s.issue { id := 0, org := {}, instr := .mrotDrop f, eng := .latch, tag := f.tag.toNat }
          [some (latchFoot s.ctx.core f.va.toNat true)]

/-! ### Latches -/

/-- A latch of a core. -/
def State.latch (s : State) (c l : Nat) : Latch := if l = 0 then (s.core c).latch0 else (s.core c).latch1
/-- The state with a latch replaced. -/
def State.setLatch (s : State) (c l : Nat) (x : Latch) : State :=
  s.modCore c fun k => if l = 0 then { k with latch0 := x } else { k with latch1 := x }

/-! ### Slices (R83, R92, R93) -/

/-- Values k0 to k0 + d − 1 of row i along K of a memory operand, zeros past K (R93). -/
def State.sliceMem (s : State) (x : EngCtx) (h : Shape) (sp : Space) (u : Bool) (i k0 d : Nat) : Eng (List Val) :=
  let n := min d (shE h 0 - k0)
  let pad := List.replicate (d - n) Val.zero
  if isBlock (shFmt h) then
    (s.engRead x (sp.moved (shOff h k0 i 0 0)) (shUnit h)).then fun s bs =>
      .ok s (((unitVals (shFmt h) u bs).drop (k0 % shLen h)).take n ++ pad)
  else
    let z := elemBytes (shFmt h)
    (s.engRead x (sp.moved (shOff h k0 i 0 0)) (n * z)).then fun s bs =>
      .ok s ((List.range n).map (fun t => elemVal (shFmt h) u (natOfBytes ((bs.drop (t * z)).take z))) ++ pad)

/-- The same of column j of a latch's tile. -/
def sliceLatch (l : Latch) (u : Bool) (j k0 d : Nat) : List Val :=
  let h := l.recd
  let n := min d (shE h 0 - k0)
  let pad := List.replicate (d - n) Val.zero
  let col := l.tile.drop (j * colBytes h)
  if isBlock (shFmt h) then
    ((unitVals (shFmt h) u ((col.drop (k0 / shLen h * shUnit h)).take (shUnit h))).drop (k0 % shLen h)).take n ++ pad
  else
    let z := elemBytes (shFmt h)
    (List.range n).map (fun t => elemVal (shFmt h) u (natOfBytes ((col.drop ((k0 + t) * z)).take z))) ++ pad

/-- A slice term (R83): the sum of the aligned products, the flags, whether an infinite product is lost. -/
def sliceTerm (X : Int) : List Val → List Val → Int × Nat × Bool
  | a :: r, b :: q =>
    let (t, fl, lost) := sliceTerm X r q
    let p := (mulVal a b).1
    if p.isNan then (t, orFl fl flNV, lost)
    else if p.isInf then (t, orFl fl flOF, true)
    else
      let (v, inexact) := (p.scale (-X)).toInt 0
      (t + v, orFl fl (if inexact then (if v = 0 then orFl flNX flUF else flNX) else 0), lost)
  | _, _ => (0, 0, false)

/-- The exact sum of a slice's products for F32 (R92), in order, with the flags of R54. -/
def sliceSum : List Val → List Val → Option Val → Val × Nat
  | a :: r, b :: q, acc =>
    let (p, f1) := mulVal a b
    let (x, f2) := match acc with
      | none => (p, 0)
      | some y => addVal 0 y p
    let (z, f3) := sliceSum r q (some x)
    (z, orFl f1 (orFl f2 f3))
  | _, _, acc => (acc.getD .zero, 0)

/-! ### The scales (R84, R87) -/

/-- The sign of the true running sum: whether it is at least 0 (R84). -/
def sumNonneg (n : Int) (l : Lean) : Bool :=
  match l with
  | .plus => true
  | .minus => false
  | _ => decide (0 ≤ n)

/-- bump (R84). -/
def Lean.bump (l : Lean) (up : Bool) : Lean :=
  match l, up with
  | .lost, _ => .lost
  | .zero, true => .plus
  | .zero, false => .minus
  | .plus, true => .lost
  | .plus, false => .zero
  | .minus, true => .zero
  | .minus, false => .lost

/-- release (R84) of a term into a value of width w. -/
def releaseTerm (w : Nat) (n : Int) (l : Lean) (x : Int) : Int × Lean :=
  let h : Int := ((2 ^ (w - 1) : Nat) : Int) - 1
  let m : Int := ((2 ^ w : Nat) : Int)
  let t := n + x
  if h < t then (t - m, l.bump true) else if t < -h - 1 then (t + m, l.bump false) else (t, l)

/-- One cycle of a lane (R84): the release first, then the arrival of a term; 0 is no term. -/
def laneCycle (w : Nat) (ended : Bool) (p : Lane) (n : Int) (l : Lean) (t : Int) : Lane × Int × Lean :=
  let fullP := p.pos.length = 4
  let fullN := p.neg.length = 4
  let popP := fun (_ : Unit) =>
    match p.pos with
    | x :: r => let (n, l) := releaseTerm w n l x; ({ p with pos := r }, n, l)
    | [] => (p, n, l)
  let popN := fun (_ : Unit) =>
    match p.neg with
    | x :: r => let (n, l) := releaseTerm w n l x; ({ p with neg := r }, n, l)
    | [] => (p, n, l)
  let (p', n', l') :=
    if 0 < t ∧ fullP then popP ()
    else if t < 0 ∧ fullN then popN ()
    else if p.pos ≠ [] ∧ p.neg ≠ [] then (if sumNonneg n l then popN () else popP ())
    else if p.pos ≠ [] ∧ (fullP ∨ ended) then popP ()
    else if p.neg ≠ [] ∧ (fullN ∨ ended) then popN ()
    else (p, n, l)
  let p'' : Lane := if 0 < t then { p' with pos := p'.pos ++ [t] } else if t < 0 then { p' with neg := p'.neg ++ [t] } else p'
  (p'', n', l')

/-- A stored pattern as a signed value. -/
def signedOf (w n : Nat) : Int := (BitVec.ofNat w n).toInt

/-- A lane's cycle on the store: the lost mark of its term (R83), the release, the new pans. -/
def State.laneAt (s : State) (z pa : Nat) (ended : Bool) (p : Lane) (t : Int) (lost : Bool) : State × Lane :=
  let w := 8 * z
  let (bits, l) := s.accGet pa z
  let (p, n, l) := laneCycle w ended p (signedOf w bits) (if lost then .lost else l) t
  (s.accPut pa z (BitVec.ofInt w n).toNat l, p)

/-- The rule of R84 calls for a release in a lane while a term arrives, or none (0). -/
def Lane.wants (p : Lane) (t : Int) : Bool :=
  (decide (0 < t) && p.pos.length == 4) || (decide (t < 0) && p.neg.length == 4) ||
    (!p.pos.isEmpty && !p.neg.isEmpty) || p.pos.length == 4 || p.neg.length == 4

/-- A term put into its pan. -/
def Lane.arrive (p : Lane) (t : Int) : Lane :=
  if 0 < t then { p with pos := p.pos ++ [t] } else if t < 0 then { p with neg := p.neg ++ [t] } else p

/-! ### An mma, mmar or mseg in progress -/

/-- The fields of a matrix command's instruction. -/
def mfOf : Instr → Option VF
  | .mma f => some f
  | .mmar f => some f
  | .mseg f => some f
  | _ => none

/-- The segment in hand: its first row, its rows, its B record; an mma is one segment. -/
structure Seg where
  row0 : Nat
  rows : Nat
  hb : Shape
deriving DecidableEq, Repr

/-- The segment of a command. -/
def Cmd.segment (x : Cmd) : Seg :=
  match x.segs with
  | [] => { row0 := 0, rows := shE x.sa 1, hb := x.sb }
  | l =>
    let (b, n) := l.getD x.seg (0, 0)
    { row0 := (l.take x.seg).foldl (fun a y => a + y.2) 0, rows := n, hb := setFld x.sb 0 64 (b.setWidth 256) }

/-- Columns of blocks. -/
def Cmd.blockCols (x : Cmd) : Nat := ceilDiv (shE x.sd 0) 24
/-- Blocks of the segment in hand. -/
def Cmd.blocks (x : Cmd) : Nat := ceilDiv x.segment.rows 16 * x.blockCols
/-- Rows of the block in hand, as row numbers of A. -/
def Cmd.blockRows (x : Cmd) : List Nat :=
  let g := x.segment
  let r0 := 16 * (x.cur / x.blockCols)
  (List.range (min 16 (g.rows - r0))).map fun i => g.row0 + r0 + i
/-- Columns of the block in hand. -/
def Cmd.blockColumns (x : Cmd) : List Nat :=
  let c0 := 24 * (x.cur % x.blockCols)
  (List.range (min 24 (shE x.sd 0 - c0))).map fun j => c0 + j
/-- The accumulator offset of the command's region. -/
def Cmd.accBase (x : Cmd) : Nat := x.pd.off

/-- The latch of an mma, its number. -/
def Cmd.latchNo (x : Cmd) : Option Nat := (mfOf x.instr).bind fun f => latchSrc f
/-- B's record: the latch's, or the segment's. -/
def State.recB (s : State) (c : Nat) (x : Cmd) : Shape :=
  match x.latchNo with
  | some l => (s.latch c l).recd
  | none => x.segment.hb
/-- Slices along K. -/
def State.slices (s : State) (c : Nat) (x : Cmd) : Nat := ceilDiv (shE x.sa 0) (sliceD (shFmt x.sa) (shFmt (s.recB c x)))

/-- A list of slices read one after another. -/
def engAll (read : State → Nat → Eng (List Val)) : State → List Nat → Eng (List (List Val))
  | s, [] => .ok s []
  | s, i :: r => (read s i).then fun s v => (engAll read s r).then fun s l => .ok s (v :: l)

/-- The slices of the block's rows of A and columns of B. -/
def State.blockSlices (s : State) (c : Nat) (x : Cmd) (u : Bool) : Eng (List (List Val) × List (List Val)) :=
  let hb := s.recB c x
  let d := sliceD (shFmt x.sa) (shFmt hb)
  let k0 := d * x.slice
  (engAll (fun s i => s.sliceMem (x.ctxFor c x.sa) x.sa x.pa u i k0 d) s x.blockRows).then fun s as =>
    match x.latchNo with
    | some l => .ok s (as, x.blockColumns.map fun j => sliceLatch (s.latch c l) u j k0 d)
    | none =>
      let seg := x.segs != []
      match (if seg then s.spaceOf c (bindTen x.org.bind) (shBase hb) else .ok x.pb) with
      | .error e => .fault s 0 { code := e, addr := shBase hb }
      | .ok sp =>
        (engAll (fun s j => s.sliceMem { x.ctxFor c hb with devOnly := seg } hb sp u j k0 d) s x.blockColumns).then fun s bs => .ok s (as, bs)

/-- The block's positions: the lane's number, the row and the column of C with their places in the slices. -/
def Cmd.positions (x : Cmd) : List (Nat × Nat × Nat × Nat × Nat) :=
  let rs := x.blockRows
  let cs := x.blockColumns
  (List.range rs.length).flatMap fun a => (List.range cs.length).map fun b => (24 * a + b, rs.getD a 0, cs.getD b 0, a, b)

/-- The physical address of element (i, j) of the command's region. -/
def Cmd.accPa (x : Cmd) (c i j : Nat) : Nat := accAddr c (accOff x.sd x.accBase i j)

/-- The block's elements zeroed (R292), which rewrites the sectors that a row covers. -/
def State.zeroBlock (s : State) (c : Nat) (x : Cmd) : State :=
  let s := x.positions.foldl (fun s (_, i, j, _, _) => s.accPut (x.accPa c i j) (accZ x.sd) 0 .zero) s
  { s with poison := x.blockRows.foldl (fun p i =>
      clearPoison p (x.accPa c i (x.blockColumns.headD 0)) (x.blockColumns.length * accZ x.sd)) s.poison }

/-- An element of the block that holds an uncorrected error (R302, R451). -/
def State.badElement (s : State) (c : Nat) (x : Cmd) : Option Nat :=
  (x.positions.map fun (_, i, j, _, _) => x.accPa c i j).find? fun pa => s.poisoned pa (accZ x.sd)

/-- The term that a slice gives a lane, reduced into the range of W bits, with its flags and whether it sets the lean to LOST (R83). -/
def Cmd.laneTerm (x : Cmd) (as bs : List (List Val)) (a b : Nat) : Int × Nat × Bool :=
  let w := accW x.sd
  let (t, fl, lost) := sliceTerm (accX x.sd) (as.getD a []) (bs.getD b [])
  let h : Int := ((2 ^ (w - 1) : Nat) : Int) - 1
  if h < t ∨ t < -h - 1 then ((BitVec.ofInt w t).toInt, fl, true) else (t, fl, lost)

/-- One lane fed with its slice. -/
def State.feedLane (s : State) (c : Nat) (x : Cmd) (as bs : List (List Val)) (pos : Nat × Nat × Nat × Nat × Nat)
    (acc : Tab Lane × Nat) : State × Tab Lane × Nat :=
  let (ln, i, j, a, b) := pos
  let pa := x.accPa c i j
  if accAF x.sd = 2 then
    let (sum, f1) := sliceSum (as.getD a []) (bs.getD b []) none
    let (v, f2) := addVal 0 (fFP32.value (s.memNat pa 4)) sum
    let (bits, f3) := fFP32.deliver 0 false v
    (s.accPut pa 4 bits .zero, acc.1, orFl acc.2 (orFl f1 (orFl f2 f3)))
  else
    let (t, fl, lost) := x.laneTerm as bs a b
    let (s, p) := s.laneAt (accZ x.sd) pa false (Tab.findD acc.1 ln {}) t lost
    (s, Tab.put acc.1 ln p, orFl acc.2 fl)

/-- A slice fed to every lane of the block in hand (R80, R83, R84, R92). -/
def State.feedSlice (s : State) (c : Nat) (x : Cmd) (as bs : List (List Val)) : State × Cmd :=
  let (s, l, fl) := x.positions.foldl (fun (y : State × Tab Lane × Nat) p => y.1.feedLane c x as bs p y.2) (s, x.lanes, x.flags)
  (s, { x with lanes := l, flags := fl, slice := x.slice + 1 })

/-- A slice's terms collected in the pans of a block that may not be written yet; none where a lane calls for a release, so that the feed
of the whole block waits (R334). -/
def Cmd.collect (x : Cmd) (as bs : List (List Val)) : Option Cmd :=
  let terms := x.positions.map fun (ln, _, _, a, b) => (ln, x.laneTerm as bs a b)
  if terms.any fun y => (Tab.findD x.lanes y.1 {}).wants y.2.1 then none
  else
    some { x with
      slice := x.slice + 1, flags := terms.foldl (fun fl y => orFl fl y.2.2.1) x.flags
      lanes := terms.foldl (fun l y =>
        let p := Tab.findD l y.1 ({} : Lane)
        Tab.put l y.1 { p.arrive y.2.1 with lost := p.lost || y.2.2.2 }) x.lanes }

/-- A cycle without a term for the lanes of a block (R84); ended once the streams of its elements have ended (R87). -/
def State.cycleLanes (s : State) (c : Nat) (x : Cmd) (ended : Bool) (lanes : Tab Lane) : State × Tab Lane :=
  x.positions.foldl (fun (s, l) (ln, i, j, _, _) =>
    match Tab.find l ln with
    | none => (s, l)
    | some p =>
      let (s, p) := s.laneAt (accZ x.sd) (x.accPa c i j) ended p 0 false
      (s, Tab.put l ln p)) (s, lanes)

/-- Every pan is empty, and no lost mark waits. -/
def lanesEmpty (l : Tab Lane) : Bool := l.all fun p => p.2.pos.isEmpty && p.2.neg.isEmpty && !p.2.lost

/-- The pans of the block in hand drained to the end: at most eight terms stand in a lane's pans (R84, R87). -/
def State.drainAll (s : State) (c : Nat) : Cmd → Nat → State × Cmd
  | x, 0 => (s, x)
  | x, n + 1 =>
    if lanesEmpty x.lanes then (s, { x with lanes := [] })
    else
      let (s, l) := s.cycleLanes c x true x.lanes
      State.drainAll s c { x with lanes := l } n

/-- The block in hand is reached and may be written (R292, R334): it is zeroed where Z asks for it, and the terms collected before that
set their leans to LOST where they must (R83). -/
def State.beginBlock (s : State) (c : Nat) (x : Cmd) (f : VF) : State × Cmd :=
  if x.begun then (s, x)
  else
    let s := if f.fn.getLsbD 2 then s.zeroBlock c x else s
    let (s, l) := x.positions.foldl (fun (y : State × Tab Lane) (ln, i, j, _, _) =>
      let p := Tab.findD y.2 ln {}
      if p.lost then
        let pa := x.accPa c i j
        (y.1.accPut pa (accZ x.sd) (y.1.memNat pa (accZ x.sd)) .lost, Tab.put y.2 ln { p with lost := false })
      else y) (s, x.lanes)
    (s, { x with begun := true, lanes := l })

/-- The command on a block behind the one in hand. -/
def Cmd.onBack (x : Cmd) (b : Back) : Cmd := { x with seg := b.seg, cur := b.cur, nblk := b.idx }

/-- A LAST command whose blocks are checked (R89, R92). -/
def Cmd.checks (x : Cmd) (f : VF) : Bool := f.fn.getLsbD 0 && accAF x.sd != 2

/-- The stream of the block in hand has ended (R80): it drains behind the next block, if there is one (R298). -/
def Cmd.nextBlock (x : Cmd) : Cmd :=
  let y := { x with
    back := some { seg := x.seg, cur := x.cur, idx := x.nblk, lanes := x.lanes }
    lanes := [], slice := 0, begun := false, nblk := x.nblk + 1 }
  if x.cur + 1 < x.blocks then { y with cur := x.cur + 1 }
  else if x.seg + 1 < x.segs.length then { y with cur := 0, seg := x.seg + 1 }
  else { y with spent := true }

/-- The block behind goes on draining by a cycle (R87); once drained it waits for its check in a LAST command, and is finished otherwise. -/
def State.drainBack (s : State) (c : Nat) (x : Cmd) (f : VF) : State × Cmd :=
  match x.back with
  | none => (s, x)
  | some b =>
    if x.fed then (s, x)
    else
      let (s, l) := s.cycleLanes c (x.onBack b) true b.lanes
      if !lanesEmpty l then (s, { x with back := some { b with lanes := l } })
      else if x.checks f then (s, { x with back := some { b with lanes := [] }, fed := true })
      else (s, { x with back := none })

/-- The record fields of a matrix command's halt (R302): the tag and the block index. -/
def Cmd.matrixFault (x : Cmd) (f : FaultInfo) : FaultInfo :=
  { f with aux0 := BitVec.ofNat 64 (x.tag + x.nblk % 65536 * 65536) }

/-- A matrix command halts on the core that runs it; one accepted from another core tells its issuer (R90, R297, R302). -/
def State.haltMatrix (s : State) (c : Nat) (x : Cmd) (f : FaultInfo) : State :=
  let f := x.matrixFault f
  match x.from_ with
  | none => s.haltCmd c x.id f
  | some o =>
    (s.modCmd c x.id fun y => { y with halted := some f, started := false }).send {
      id := 0, src := c, dst := o, dmod := s.modid, ten := bindTen x.org.bind, org := x.org,
      body := .mmarDone x.peer x.flags (x.flags / 64 % 2 == 1) (some f) }

/-- A fault in flight (R302): the pans of the block in hand drain without a check, then the command halts. -/
def State.faultMatrix (s : State) (c : Nat) (x : Cmd) (f : FaultInfo) : State :=
  if s.recordsFull x.org.core then s.modCmd c x.id fun _ => x
  else
    let (s, x) := s.drainAll c x 9
    (s.modCmd c x.id fun _ => x).haltMatrix c x f

/-- An uncorrected error of an element of the block that drains behind (R302, R451): its pans drain without a check, and after them those of
the block in hand, unless it may not be written yet (R334); then the command halts. -/
def State.faultBack (s : State) (c : Nat) (x : Cmd) (b : Back) (hold : Bool) (f : FaultInfo) : State :=
  if s.recordsFull x.org.core then s.modCmd c x.id fun _ => x
  else
    let (s, _) := s.drainAll c { x.onBack b with lanes := b.lanes } 9
    let (s, x) := if hold then (s, { x with lanes := [] }) else s.drainAll c x 9
    (s.modCmd c x.id fun _ => { x with back := none }).haltMatrix c (x.onBack b) f

/-- The check of a block of a LAST command (R89, R91): the elements with lean ±1 that fault, those with LOST, the saturated
elements written; whether any saturated. Elements that AOT = 0 saturates are in neither list, so that the record of a block that holds
LOST elements beside them counts no ±1 element (DESIGN CHOICE, assumption log 69: R90 does not say which count it means). -/
def State.checkBlock (s : State) (c : Nat) (x : Cmd) : State × List Nat × List Nat × Bool :=
  let z := accZ x.sd
  let aot := x.tsw.getLsbD 15 && !x.forgiving
  x.positions.foldl (fun (s, pm, lost, sat) (_, i, j, _, _) =>
    let pa := x.accPa c i j
    match s.leanAt pa with
    | .zero => (s, pm, lost, sat)
    | .lost => (s, pm, if x.forgiving then lost else lost ++ [pa], sat)
    | l =>
      if aot then (s, pm ++ [pa], lost, sat)
      else
        let v := if l = .plus then 2 ^ (8 * z - 1) - 1 else 2 ^ (8 * z - 1)
        (s.accPut pa z v .zero, pm, lost, true)) (s, [], [], false)

/-! ### macc, mclr, manchor -/

/-- The bias of column j for element k (R300). -/
def State.biasOf (s : State) (c : Nat) (x : Cmd) (f : VF) (k j : Nat) : Eng Val :=
  if !f.fn.getLsbD 0 then .ok s .zero
  else if isH f.vb then
    (s.unitBytes x c x.sb x.pb k (shOff x.sb j 0 0 0)).then fun s bs =>
      .ok s (srcVal (shFmt x.sb) f.u f.nb f.xb (natOfBytes bs))
  else .ok s (srcVal f.ty.toNat f.u f.nb f.xb (lanePat x.vb f.ty.toNat j))

/-- The value that macc takes from an element (R300), with NV for a lost one. -/
def accValue (h : Shape) (ty n : Nat) (l : Lean) : Val × Nat :=
  if accAF h = 2 then (fFP32.value n, 0)
  else
    match l with
    | .lost => (if isFloat ty then .nan false else .zero, flNV)
    | l => ((Val.ofInt (signedOf (accW h) n + l.num * ((2 ^ accW h : Nat) : Int))).scale (accX h), 0)

/-- The pattern macc writes (R259, R300). -/
def maccResult (f : VF) (rm : Nat) (a b : Val) : Nat × Nat :=
  let ty := f.ty.toNat
  let (x, f1) := addVal rm a b
  if isFloat ty then
    let (r, f2) := formResult ty f.u rm f.dcl.toNat (dscOf f) x
    (r, orFl f1 f2)
  else if x.isNan || x.isInf then
    let (r, f2) := toIntFmt ty f.u rm x
    (r, orFl f1 f2)
  else (formResult ty f.u rm f.dcl.toNat (dscOf f) x).map id fun f2 => orFl f1 f2

/-- macc, element k in region order: an uncorrected error of the accumulator store halts it (R302). -/
def State.maccElem (s : State) (c : Nat) (x : Cmd) (f : VF) (k : Nat) : Eng (Nat × Nat) :=
  let n := shE x.sa 0
  let z := accZ x.sa
  let off := accOff x.sa x.pa.off (k / n) (k % n)
  let pa := accAddr c off
  if s.poisoned pa z then .fault s 0 { code := 0x12, addr := (Space.acc c off).pointer c }
  else
    let bits := natOfBytes (Mem.readN (s.srcMem x x.sa x.pa (.acc c off) k) pa z)
    let (v, f1) := accValue x.sa f.ty.toNat bits (s.leanAt pa)
    let v := withMods false f.na f.xa v
    (s.biasOf c x f k (k % n)).then fun s b =>
      let (r, f2) := maccResult f (rmOf f x.tsw) v b
      (s.putUnit x c (shOff x.sd (k % n) (k / n) 0 0) (bytesOfNat (shUnit x.sd) r)).then fun s _ =>
        .ok (if f.fn.getLsbD 1 then s.accPut pa z 0 .zero else s) (orFl f1 f2, 0)

/-- The work of macc (R300). -/
def maccWork (c : Nat) (x : Cmd) (f : VF) : Job :=
  if anyEmpty ([x.sd, x.sa] ++ (if f.fn.getLsbD 0 ∧ isH f.vb then [x.sb] else [])) then .nothing
  else { main := shCount x.sa, item := fun s k _ => s.maccElem c x f k, run := 16, row := shE x.sa 0 }

/-- The work of mclr (R301). -/
def mclrWork (c : Nat) (x : Cmd) : Job :=
  if anyEmpty [x.sd] then .nothing
  else
    { main := shCount x.sd, run := 16, row := shE x.sd 0
      item := fun s k _ =>
        .ok (s.accPut (accAddr c (accOff x.sd x.accBase (k / shE x.sd 0) (k % shE x.sd 0))) (accZ x.sd) 0 .zero) (0, 0) }

/-- q of one block or element (R299): none where it holds no finite non-zero element. -/
def blockQ (fmt : Nat) (bs : List Byte) (u : Bool) : Option Int :=
  let some_ := fun (vs : List Val) => vs.any fun v => !v.isNan && !v.isInf && !v.isZero
  let E : Int := ((bs.getD 0 0).toNat : Int)
  match fmt with
  | 1 => if some_ [elemVal 1 u (natOfBytes bs)] then some 8 else none
  | 4 => let v := elemVal 4 u (natOfBytes bs); if some_ [v] then some (v.lead + 1) else none
  | 5 => let v := elemVal 5 u (natOfBytes bs); if some_ [v] then some (v.lead + 1) else none
  | 12 => if some_ (decodeBlock 12 bs) then some (E - 124) else none
  | 13 => if some_ (decodeBlock 13 bs) then some (E - 118) else none
  | _ => if some_ (decodeBlock fmt bs) then some (E - 126) else none

/-- The larger of two optional numbers. -/
def maxOpt (a b : Option Int) : Option Int :=
  match a, b with
  | some x, some y => some (max x y)
  | some x, none => some x
  | none, y => y

/-- q of an operand (R299), unit by unit. -/
def State.operandQ (s : State) (x : EngCtx) (h : Shape) (sp : Space) (u : Bool) : Nat → Nat → Eng (Option Int)
  | 0, _ => .ok s none
  | n + 1, k =>
    (s.engRead { x with hint := shHn h } (sp.moved (shOffFlat h (k * shLen h))) (shUnit h)).then fun s bs =>
      let g := if isBlock (shFmt h) then blockBytes (shFmt h) else shUnit h
      let q := maxOpt (blockQ (shFmt h) (bs.take g) u) (if g < bs.length then blockQ (shFmt h) (bs.drop g) u else none)
      (State.operandQ s x h sp u n (k + 1)).then fun s r => .ok s (maxOpt q r)

/-- manchor (R299): the word written and set full; with an empty region there is no access at all (R114). -/
def State.anchorWork (s : State) (c : Nat) (x : Cmd) (f : VF) : Eng Unit :=
  let q := fun (s : State) (h : Shape) (sp : Space) => s.operandQ (x.ctx c) h sp f.u (shCount h / shLen h) 0
  if anyEmpty [x.sa, x.sb] then .ok s ()
  else
  (q s x.sa x.pa).then fun s qa => (q s x.sb x.pb).then fun s qb =>
    let w : Nat := if f.fn.getLsbD 0 then 32 else 16
    let d := sliceD (shFmt x.sa) (shFmt x.sb)
    let word : Nat :=
      match qa, qb with
      | some a, some b => (BitVec.ofInt 10 (max (-512) (min 511 (a + b + (log2N d : Int) - ((w : Int) - 2))))).toNat
      | _, _ => 2 ^ 16
    s.writeCount (x.ctx c) x.pd word

end Sys2Proof.Machine
end

