-- ==== Sys2Proof/Machine/Tasks.lean ====
section
/-! DEFINITION. Tasks, messages, migration, ends of threads, barriers and gang mode (R229 to R253); ret and jr (R200). -/

namespace Sys2Proof.Machine

/-- ret (R200): to g15; a null target ends the thread. -/
def execRet (f : AR) (s : State) : Host.Outcome State Fault Refusal :=
  half f.pn f.pg s fun s =>
    if ptrAddr (s.rg 15) = 0 then s.endSelf else s.transfer (s.rg 15) id
/-- jr (R200): a null target ends the thread. -/
def execJr (f : AR) (s : State) : Host.Outcome State Fault Refusal :=
  half f.pn f.pg s fun s =>
    if ptrAddr (s.rg f.ra) = 0 then s.endSelf else s.transfer (s.rg f.ra) State.entering

/-! ### Tasks and messages -/

/-- The binding word of a task that a thread creates (R233, R235, R237): its own LID, TEN, SD and CLS, RAD 0, HINT a core. -/
def childBind (b : Word) (hk : Bool) (hint : Nat) : Word :=
  setFld (setFld (setFld b 25 1 (if hk then 1 else 0)) 14 5 0) 0 14 (BitVec.ofNat 64 hint)

/-- The descriptor of a task of the issuing thread with the quad's arguments (R232, R233). -/
def State.childTask (s : State) (entry : Word) (q : BitVec 4) (hk : Bool) (hint : Nat) : Task :=
  { entry := entry, a0 := s.quad q 0, a1 := s.quad q 1, a2 := s.quad q 2, a3 := s.quad q 3,
    bind := childBind s.cur.bind hk hint, root := s.cur.root }

/-- fork (R233): a held effect. -/
def execFork (f : AR) (s : State) : Host.Outcome State Fault Refusal :=
  half f.pn f.pg s fun s => s.effect (.fork (s.childTask (s.rg f.rd) f.rb (f.fn.getLsbD 0) s.ctx.core))

/-- join (R234): an atomic at MODULE with release; at zero the record's address is posted. -/
def execJoin (f : AR) (s : State) : Host.Outcome State Fault Refusal :=
  half f.pn f.pg s fun s =>
    let p := s.rg f.ra
    s.atPlace p 16 true { acc := false } fun s pl =>
      match pl with
      | .host _ => s.faultCode 0x03
      | _ =>
        s.atomicAt p 16 2 7 .join pl fun s v =>
          let s := s.wg f.rd (BitVec.ofNat 64 v)
          if v % 2 ^ 64 = 0 then s.effect (.post (BitVec.ofNat 64 (v / 2 ^ 64)) p 0x81) else s

/-- callat (R235): a held effect; the reply link names the issuing core and IDX. -/
def execCallat (f : AR) (s : State) : Host.Outcome State Fault Refusal :=
  half f.pn f.pg s fun s =>
    let w := s.rg f.ra
    if s.targetOk w 25 then
      s.effect (.callat w (s.childTask (s.rg f.rd) f.rb (f.fn.getLsbD 0) (twCore w))
        (s.ctx.core + s.modid * 16384 + twIdx w * 1048576))
    else s.faultCode 0x03

/-- reply (R236): the link is cleared at issue, the value is sent at commit; no pending link is the access fault. -/
def execReply (f : AR) (s : State) : Host.Outcome State Fault Refusal :=
  half f.pn f.pg s fun s =>
    match s.cur.link with
    | none => s.faultCode 0x03
    | some l => (s.effect (.reply l (s.rg f.ra))).modCur fun t => { t with link := none }

/-- send (R237): a held effect. -/
def execSend (f : AR) (s : State) : Host.Outcome State Fault Refusal :=
  half f.pn f.pg s fun s =>
    let w := s.rg f.ra
    if s.targetOk w 28 then s.effect (.send w (s.quad f.rb 0) (s.quad f.rb 1) (s.quad f.rb 2) (s.quad f.rb 3))
    else s.faultCode 0x03

/-- chblk and chunblk (R238). -/
def chctl (f : AR) (b : Bool) (s : State) : Host.Outcome State Fault Refusal :=
  half f.pn f.pg s fun s =>
    let w := s.rg f.ra
    if s.targetOk w 25 then s.effect (.chctl w b) else s.faultCode 0x03
def execChblk (f : AR) (s : State) : Host.Outcome State Fault Refusal := chctl f true s
def execChunblk (f : AR) (s : State) : Host.Outcome State Fault Refusal := chctl f false s

/-! ### Migration (R239 to R241) -/

/-- The port of a core holds 16 contexts (R241). -/
def State.portFull (s : State) (c : Nat) : Bool := decide (16 ≤ (s.core c).port.length)

/-- The issuing thread's context as it leaves, at the program counter after the bundle (R23, R239). -/
def State.packSelf (s : State) (target : Word) (off : Nat) (basket : List Byte) : Context :=
  let t := s.cur
  { g := t.g, pc := s.ctx.next, tsw := t.tsw, bind := t.bind, root := t.root, uid := t.uid, entered := t.entered,
    ready := t.ready, basketOff := off, basket := basket, target := target, away := t.away, homes := t.homes }

/-- The lines that the bulk writes of a context's basket carry (R240, R413): of the local memory where it goes, or, on the way to a routing
engine, of the one it comes from. -/
def Msg.basketLines (m : Msg) (c : Context) : List Nat :=
  match c.basket with
  | [] => []
  | b => linesOf (Config.localBase + (if m.dst < Config.cores then m.dst else m.org.core) * Config.localBytes + c.basketOff) b.length

/-- A message that takes a context across the fabric: its basket travels ahead, a bulk write for each line, which counts for the message
with its number (R240, R413). -/
def State.sendContext (s : State) (m : Msg) (c : Context) : State :=
  if s.direct m then s.send m
  else
    let id := s.fresh
    let s := (m.basketLines c).foldl (fun s l =>
      s.send { id := 0, src := m.src, dst := m.dst, dmod := m.dmod, ten := m.ten, org := m.org, body := .bulk id l true [] }) s.bump
    let m := { m with id := id, born := s.cycle, stage := .flits, left := m.body.flits }
    { s with net := s.net ++ [m] }.toFabric m

/-- The basket of a context that has come over the fabric is there (R240); a peer module's comes with it (assumption log 63). -/
def State.basketHere (s : State) (m : Msg) (c : Context) : Bool :=
  s.direct m || decide (2 ^ 15 ≤ m.src) || (m.basketLines c).all fun l => s.atHand m.id l

/-- A flit of the basket was poisoned (R418). -/
def State.basketBad (s : State) (m : Msg) (c : Context) : Bool := (m.basketLines c).any fun l => s.spoilt m.id l

/-- The issuing thread leaves its slot in a message, which its core's port holds until it is accepted (R24, R25, R241). -/
def State.leave (s : State) (dst dmod : Nat) (b : Body) : State :=
  let c := s.ctx.core
  let t := s.cur
  let id := s.fresh
  let o := s.origin
  let s := (s.dropToken c s.ctx.slot).delThr c s.ctx.slot
  let s := s.modCore c fun k => { k with port := k.port ++ [id] }
  let m : Msg := { id := 0, src := c, dst := dst, dmod := dmod, ten := bindTen t.bind, org := o, body := b }
  let s := match b.theContext with
    | some x => s.sendContext m x
    | none => s.send m
  (s.checkGrant c).withRes .left

/-- A basket word within a granted local memory (R240): bits [63:33] zero, LEN from 8 to 16,384, both multiples of 8. -/
def basketOk (w : Word) (lmem : Nat) : Bool :=
  let len := fld w 18 15
  let off := fld w 0 18
  decide (w.toNat < 2 ^ 33) && decide (8 ≤ len) && decide (len ≤ 16384) && len % 8 == 0 && off % 8 == 0 &&
    decide (off + len ≤ min lmem Config.localBytes)

/-- mig and migc (R239): a step that fences at the scope of both cores (R133), then the checks in order. -/
def migrate (f : AR) (basket : Option Word) (s : State) : Host.Outcome State Fault Refusal :=
  half f.pn f.pg s fun s =>
    let w := s.rg f.ra
    s.asStep fun s =>
      s.fenced (if twMod w = s.modid then scopeBetween s.ctx.core (twCore w) else 9) fun s =>
        let lmem := match s.own.grant with
          | some g => g.lmem
          | none => 0
        if s.cur.hs ≠ [] then s.faultCode 0x13
        else if s.cur.link ≠ none then s.takeFault { code := 0x10, aux0 := 1 }
        else if !s.targetOk w 20 then s.faultCode 0x03
        else if basket.any fun b => !basketOk b lmem then s.faultCode 0x03
        else if s.portFull s.ctx.core then s.retry .port 0
        else
          let (off, bytes) := match basket with
            | some b => (fld b 0 18, Mem.readN s.mem (Config.localBase + s.ctx.core * Config.localBytes + fld b 0 18) (fld b 18 15))
            | none => (0, [])
          s.leave (twCore w) (twMod w) (.context (s.packSelf w off bytes))
def execMig (f : AR) (s : State) : Host.Outcome State Fault Refusal := migrate f none s
def execMigc (f : AR) (s : State) : Host.Outcome State Fault Refusal := migrate f (some (s.rg f.rb)) s

/-- exit (R242). -/
def execExit (f : AR) (s : State) : Host.Outcome State Fault Refusal := half f.pn f.pg s State.endSelf
/-- yield (R243): ends the chunk and is a step. -/
def execYield (f : AR) (s : State) : Host.Outcome State Fault Refusal := half f.pn f.pg s fun s => s.asStep id

/-- launch (R244): a held effect; the record must be 64-byte aligned in device or local memory; the intake reads
it through the pointer as it stands. -/
def execLaunch (f : AR) (s : State) : Host.Outcome State Fault Refusal :=
  half f.pn f.pg s fun s =>
    let p := s.rg f.ra
    let held := fun (s : State) => s.effect (.launch p)
    match s.space p with
    | .error c => s.faultCode c
    | .ok sp =>
      if ptrAddr p % 64 ≠ 0 then s.faultCode 0x02
      else
        match sp with
        | .virt va =>
          match s.translate s.ctx.core (bindTen s.cur.bind) va .read with
          | .fault x => s.takeFault x
          | .walk => s.awaitWalk va .read p
          | .pa pa => if isDevice pa then held s else s.faultCode 0x03
        | .loc c o =>
          if o + 192 ≤ s.reach p (.loc c o) then held s else s.faultCode 0x03
        | _ => s.faultCode 0x03

/-! ### Barriers (R245 to R251) -/

/-- A barrier of a core. -/
def State.bar (s : State) (c b : Nat) : Barrier := Tab.findD (s.core c).bars b {}
/-- The state with a barrier changed. -/
def State.modBar (s : State) (c b : Nat) (f : Barrier → Barrier) : State :=
  s.modCore c fun k => { k with bars := Tab.put k.bars b (f (Tab.findD k.bars b {})) }

/-- The WATCH bit of a slot cleared (R245). -/
def State.unwatch (s : State) (c b k : Nat) : State :=
  s.modBar c b fun x => { x with watch := ((BitVec.ofNat 16 x.watch) &&& ~~~(BitVec.ofNat 16 (2 ^ k))).toNat }

/-- The state word of barrd (R250). -/
def Barrier.stateWord (b : Barrier) : Word := BitVec.ofNat 64 (b.seq * 2 ^ 48 + b.arr * 2 ^ 32 + b.cnt * 2 ^ 16 + b.watch)
/-- The link word of barrd (R250). -/
def Barrier.linkWord (b : Barrier) : Word :=
  BitVec.ofNat 64 (b.childs.length * 2 ^ 23 + (if b.err then 2 ^ 22 else 0) + (if b.pend then 2 ^ 21 else 0) +
    (if b.uv then 2 ^ 20 else 0) + b.upBar * 2 ^ 14 + b.upCore)

/-- A message between barriers of the own module. -/
def State.barSend (s : State) (src dst : Nat) (b : Body) : State :=
  s.send { id := 0, src := src, dst := dst, dmod := s.modid, ten := fld (s.core src).part 0 6, body := b }

/-- complete() of R248: the next phase, notices to the children, the watchers released. -/
def State.barComplete (s : State) (c b : Nat) : State :=
  let x := s.bar c b
  let seq := (x.seq + 1) % 65536
  let s := (List.range 16).foldl (fun s k =>
    match s.thr c k with
    | some t =>
      match t.st with
      | .waiting (.bar i q) false => if i = b ∧ q ≠ seq then s.wake c k else s
      | _ => s
    | none => s) s
  let left := (List.range 16).foldl (fun w k =>
    match s.thr c k with
    | some t =>
      match t.st with
      | .waiting (.bar i q) _ => if i = b ∧ q = seq then w + 2 ^ k else w
      | _ => w
    | none => w) 0
  let s := s.modBar c b fun y => { y with seq := seq, arr := 0, pend := false, childs := [], err := false, watch := left }
  x.childs.foldl (fun s (cc, cb) => s.barSend c cc (.barNote cb)) s

/-- An arrival counted at a barrier (R248): the sequence of the phase arrived at, or none where it is refused. -/
def State.barArrive (s : State) (c b : Nat) (child : Option (Nat × Nat)) : Option (State × Nat) :=
  let x := s.bar c b
  if x.pend ∨ x.arr = x.cnt then none
  else
    let x' : Barrier := { x with
      arr := x.arr + 1,
      childs := match child with
        | some y => if x.childs.length < 16 then x.childs ++ [y] else x.childs
        | none => x.childs,
      err := x.err || (child.isSome && decide (16 ≤ x.childs.length)) }
    let s := s.modBar c b fun _ => x'
    if x'.arr = x'.cnt then
      if x'.uv then
        let s := s.modBar c b fun y => { y with pend := true }
        some (s.barSend c x'.upCore (.barFwd x'.upBar c b), x.seq)
      else some (s.barComplete c b, x.seq)
    else some (s, x.seq)

/-- barinit (R246). -/
def execBarinit (f : AI) (s : State) : Host.Outcome State Fault Refusal :=
  half f.pn f.pg s fun s => s.asStep fun s =>
    let b := fld f.imm 0 6
    let x := s.bar s.ctx.core b
    if x.arr ≠ 0 ∨ x.pend then s.takeFault { code := 0x03, aux0 := x.stateWord }
    else s.modBar s.ctx.core b fun y =>
      { y with cnt := fld f.imm 6 16, arr := 0, pend := false, err := false, childs := [], uv := false }

/-- The target word of bararr and barrd (R230): the fault, or the core and the barrier. A word that meets both faults gives the access
fault: DESIGN CHOICE (assumption log 88), the spec gives them no order. -/
def State.barTarget (s : State) (w : Word) : Except Nat (Nat × Nat) :=
  if 2 ^ 26 ≤ w.toNat ∨ twMod w ≠ s.modid ∨ !s.mayName (twCore w) then .error 0x03
  else if 47 < fld w 20 6 then .error 0x01
  else .ok (twCore w, fld w 20 6)

/-- bararr (R248): a step and a release (R251); a refused arrival is counted and reissued (R217). -/
def execBararr (f : AR) (s : State) : Host.Outcome State Fault Refusal :=
  half f.pn f.pg s fun s =>
    let w := s.rg f.ra
    match s.barTarget w with
    | .error c => s.faultCode c
    | .ok (c, b) =>
      s.asStep fun s => s.answered fun s a =>
        match a with
        | some v => s.counted.wg f.rd (BitVec.ofNat 64 v)
        | none =>
          s.underLimit w 0x91 fun s => s.fenced (scopeBetween s.ctx.core c) fun s =>
            if c = s.ctx.core then
              match s.barArrive c b none with
              | some (s, q) => s.counted.wg f.rd (BitVec.ofNat 64 q)
              | none => s.refused
            else s.await c (.barArr b) w

/-- barwait (R249): waits until SEQ differs from the awaited sequence. -/
def execBarwait (f : AR) (s : State) : Host.Outcome State Fault Refusal :=
  half f.pn f.pg s fun s =>
    let b := (s.rg f.ra).toNat
    let q := (s.rg f.rb).toNat
    if 64 ≤ b ∨ 65536 ≤ q ∨ 47 < b then s.faultCode 0x01
    else s.asStep fun s =>
      let x := s.bar s.ctx.core b
      if x.seq ≠ q then s
      else
        (s.modBar s.ctx.core b fun y => { y with watch := (BitVec.ofNat 16 y.watch ||| BitVec.ofNat 16 (2 ^ s.ctx.slot)).toNat }).retry
          (.bar b q) 0

/-- barlink (R247). -/
def execBarlink (f : AR) (s : State) : Host.Outcome State Fault Refusal :=
  half f.pn f.pg s fun s => s.asStep fun s =>
    let b := (s.rg f.ra).toNat
    let w := s.rg f.rb
    let up := fld w 0 14
    let ub := fld w 14 6
    let x := s.bar s.ctx.core b
    if 64 ≤ b ∨ 2 ^ 21 ≤ w.toNat ∨ 47 < b ∨ 47 < ub then s.faultCode 0x01
    else if !s.mayName up ∨ (up = s.ctx.core ∧ ub = b) ∨ x.arr ≠ 0 ∨ x.pend then s.faultCode 0x03
    else s.modBar s.ctx.core b fun y => { y with uv := w.getLsbD 20, upCore := up, upBar := ub }

/-- barrd (R250). -/
def execBarrd (f : AR) (s : State) : Host.Outcome State Fault Refusal :=
  half f.pn f.pg s fun s =>
    let w := s.rg f.ra
    match s.barTarget w with
    | .error c => s.faultCode c
    | .ok (c, b) =>
      let l := f.fn.getLsbD 0
      if c = s.ctx.core then s.wg f.rd (if l then (s.bar c b).linkWord else (s.bar c b).stateWord)
      else s.answered fun s a =>
        match a with
        | some v => s.wg f.rd (BitVec.ofNat 64 v)
        | none => s.await c (.barRead b l) w

/-- gang (R253): a step; the mode of the issuing core's gang, from the next cycle. -/
def execGang (f : AI) (s : State) : Host.Outcome State Fault Refusal :=
  half f.pn f.pg s fun s => s.asStep fun s => { s with gangsNext := Tab.put s.gangsNext s.ctx.core (f.imm == 1) }

end Sys2Proof.Machine
end

