-- ==== Sys2Proof/Machine/Routing.lean ====
section
/-! DEFINITION. Routed experts and adapters as a thread uses them: hsift, route, rhome, rcommit, rabort, rstat, afetch
(R342 to R353, R356, R357). -/

namespace Sys2Proof.Machine

/-! ### The bid heap (R343, R344) -/

/-- The FP32 bits of a score are a NaN. -/
def scoreNaN (x : Nat) : Bool := decide (0x7F800000 < x % 2 ^ 31)

/-- A number that orders FP32 scores as values, −0 as +0, a NaN as −Inf (R343). -/
def scoreKey (x : Nat) : Int :=
  if scoreNaN x then -0x7F800000 else if x < 2 ^ 31 then (x : Int) else -((x - 2 ^ 31 : Nat) : Int)

/-- Bid b ranks worse than bid c (R343); a bid is an entry's word. -/
def bidWorse (b c : Word) : Bool :=
  let kb := scoreKey (fld b 0 32)
  let kc := scoreKey (fld c 0 32)
  decide (kb < kc) || (kb == kc && decide (fld c 32 32 < fld b 32 32))

/-- Two entries exchanged. -/
def swapAt (l : List Word) (i j : Nat) : List Word := (l.set i (l.getD j 0)).set j (l.getD i 0)

/-- The sift up of an entry (R344). -/
def siftUp : Nat → List Word → Nat → List Word
  | 0, l, _ => l
  | n + 1, l, i =>
    if 0 < i ∧ bidWorse (l.getD i 0) (l.getD ((i - 1) / 2) 0) then siftUp n (swapAt l i ((i - 1) / 2)) ((i - 1) / 2) else l

/-- The sift down of an entry (R344). -/
def siftDown : Nat → List Word → Nat → List Word
  | 0, l, _ => l
  | n + 1, l, i =>
    let pick := fun (w c : Nat) => if c < l.length ∧ bidWorse (l.getD c 0) (l.getD w 0) then c else w
    let w := pick (pick i (2 * i + 1)) (2 * i + 2)
    if w = i then l else siftDown n (swapAt l i w) w

/-- A bid offered to the entries of a heap of capacity K (R344): the entries after, and whether it was admitted. -/
def offerBid (k : Nat) (l : List Word) (bid : Word) : List Word × Bool :=
  if l.length < k then (siftUp 8 (l ++ [bid]) l.length, true)
  else
    match l with
    | [] => (l, false)
    | e :: _ => if bidWorse e bid then (siftDown 8 (l.set 0 bid) 0, true) else (l, false)

/-- A heap's head is legal (R344). -/
def heapOk (w : Word) : Bool :=
  let k := fld w 0 8
  decide (1 ≤ k) && decide (k ≤ 8) && decide (fld w 8 8 ≤ k) && fld w 16 16 == 0

/-- The heap at a pointer read through the chunk (R343, R344): its offset, its head and its entries, the accesses checked as
loads of the issuing core's own local memory. -/
def State.withHeap (s : State) (p : Word) (k : State → Nat → Word → List Word → State) : State :=
  s.atPlace p 8 false { virt := false, acc := false } fun s pl =>
    match pl with
    | .own pa =>
      s.readAt p 8 0 (.own pa) fun s w =>
        let head := BitVec.ofNat 64 w
        let n := 8 * fld head 8 8
        if !heapOk head then s.faultCode 0x03
        else
          match s.space p with
          | .error c => s.faultCode c
          | .ok sp =>
            if s.reach p sp < sp.off + 8 + 8 * fld head 0 8 then s.faultCode 0x03
            else
              match s.conflicts sp (8 + n) false with
              | i :: r => s.retry (.foot (i :: r)) p
              | [] =>
                s.readOwn p (s.locRuns s.ctx.core (sp.off + 8) n) fun s bs => k s sp.off head (wordsOf bs (fld head 8 8))
    | _ => s.faultCode 0x03

/-- hsift (R344): a NaN score becomes −Inf; inside the chunk. -/
def execHsift (f : AR) (s : State) : Host.Outcome State Fault Refusal :=
  half f.pn f.pg s fun s =>
    let p := s.rg f.ra
    let b := s.rg f.rb
    let bid := if scoreNaN (fld b 0 32) then setFld b 0 32 (BitVec.ofNat 64 0xFF800000) else b
    s.withHeap p fun s off head l =>
      let (l', ok) := offerBid (fld head 0 8) l bid
      if !ok then s.wg f.rd 0
      else
        let n := 8 + 8 * l'.length
        let conf := match s.space p with
          | .ok sp => s.conflicts sp n true
          | .error _ => []
        match conf with
        | i :: r => s.retry (.foot (i :: r)) p
        | [] =>
          let head' := setFld head 8 8 (BitVec.ofNat 64 l'.length)
          let runs := s.locRuns s.ctx.core off n
          s.touchOwn runs fun s =>
            s.writeOwn p runs ((head' :: l').flatMap fun w => bytesOfNat 8 w.toNat) fun s => s.wg f.rd 1

/-! ### Routing engines -/

/-- The agent number of a die's routing engine. -/
def engineOf (die : Nat) : Nat := 16385 + die

/-- The transaction slot that a word names on a die for a tenant (R346). -/
def State.txn (s : State) (d t : Nat) (x : Word) : Txn := Tab.findD (s.die d).txns (64 * t + fld x 0 6) {}
/-- The state with a transaction slot changed. -/
def State.modTxn (s : State) (d t : Nat) (x : Word) (f : Txn → Txn) : State :=
  s.modDie d fun q => { q with txns := Tab.put q.txns (64 * t + fld x 0 6) (f (s.txn d t x)) }
/-- SEQ of a transaction word. -/
def txSeq (x : Word) : Nat := fld x 6 26

/-- The choices of a heap best first, each with its index (R347). -/
def bestFirst : Nat → List Word → List Word
  | 0, _ => []
  | n + 1, l =>
    match l with
    | [] => []
    | e :: r =>
      let b := r.foldl (fun m c => if bidWorse m c then c else m) e
      b :: bestFirst n (l.erase b)

/-- The checks of R239 that route and rhome share: the handle stack, a pending reply link. -/
def State.mayLeave (s : State) (body : State → State) : State :=
  if s.cur.hs ≠ [] then s.faultCode 0x13
  else if s.cur.link ≠ none then s.takeFault { code := 0x10, aux0 := 1 }
  else body s

/-- The granted bytes of local memory of the issuing core. -/
def State.grantedLmem (s : State) : Nat :=
  match s.own.grant with
  | some g => g.lmem
  | none => 0

/-- The basket's bytes in the own local memory (R240). -/
def State.basketBytes (s : State) (b : Word) : List Byte :=
  Mem.readN s.mem (Config.localBase + s.ctx.core * Config.localBytes + fld b 0 18) (fld b 18 15)

/-- route (R347): a step; the checks, the fence at PEER, then the context leaves for its die's engine. -/
def execRoute (f : AR) (s : State) : Host.Outcome State Fault Refusal :=
  half f.pn f.pg s fun s =>
    let b := s.rg f.rb
    s.asStep fun s => s.mayLeave fun s => s.withHeap (s.rg f.ra) fun s _ head l =>
      if !basketOk b s.grantedLmem then s.faultCode 0x03
      else s.fenced 9 fun s =>
        if s.portFull s.ctx.core then s.retry .port 0
        else
          let best := bestFirst 8 l
          let r : Routing := {
            x := BitVec.ofNat 64 (fld head 32 32), rd := f.rd.toNat, home := s.ctx.core,
            choices := (List.range best.length).zip (best.map fun e => fld e 32 32) }
          s.leave (engineOf (dieOf s.ctx.core)) s.modid
            (.routeIn { s.packSelf 0 (fld b 0 18) (s.basketBytes b) with
              route := some r, away := none, homes := insertNat s.cur.homes s.ctx.core })

/-- rhome (R350): a step; the row and the context leave for the engine of the home core's die, on the module that routed the thread. HCORE
names a core as a target word of mig does (R230, R239). -/
def execRhome (f : AR) (s : State) : Host.Outcome State Fault Refusal :=
  half f.pn f.pg s fun s =>
    let w := s.rg f.ra
    let b := s.rg f.rb
    let target := BitVec.ofNat 64 (fld w 0 14 + 2 ^ 14 * s.cur.away.getD s.modid)
    s.asStep fun s => s.mayLeave fun s =>
      if !basketOk b s.grantedLmem ∨ fld w 28 4 ≠ 0 ∨ fld w 14 2 ≠ 0 ∨ !s.targetOk target 20 then s.faultCode 0x03
      else s.fenced 9 fun s =>
        if s.portFull s.ctx.core then s.retry .port 0
        else
          let r : Routing := { x := BitVec.ofNat 64 (fld w 32 32), home := fld w 0 14 }
          s.leave (engineOf (dieOf (fld w 0 14))) (s.cur.away.getD s.modid)
            (.rrow { s.packSelf target (fld b 0 18) (s.basketBytes b) with route := some r, away := none })

/-- rcommit (R351): a step; the thread waits with KIND 9 until the transaction ends. -/
def execRcommit (f : AR) (s : State) : Host.Outcome State Fault Refusal :=
  half f.pn f.pg s fun s =>
    let x := s.rg f.ra
    let n := (s.rg f.rb).toNat
    if fld x 32 32 ≠ 0 ∨ n = 0 ∨ 65535 < n then s.faultCode 0x03
    else s.asStep fun s =>
      match s.cur.acc with
      | some a =>
        if a.ans = .none then s.retry (.rcommit x) x
        else s.answered fun s v => s.wg f.rd (BitVec.ofNat 64 (v.getD 0))
      | none => (s.await (engineOf (dieOf s.ctx.core)) (.rcommit x n) x).retry (.rcommit x) x

/-- rabort (R352): a step; the state before the abort. -/
def execRabort (f : AR) (s : State) : Host.Outcome State Fault Refusal :=
  half f.pn f.pg s fun s =>
    let x := s.rg f.ra
    if fld x 32 32 ≠ 0 then s.faultCode 0x03
    else s.asStep fun s => s.answered fun s a =>
      match a with
      | some v => s.wg f.rd (BitVec.ofNat 64 v)
      | none => s.await (engineOf (dieOf s.ctx.core)) (.rabort x) x

/-- The word rstat writes (R353). -/
def Txn.word (t : Txn) (x : Word) : Word :=
  BitVec.ofNat 64 ((if t.seq = txSeq x then 2 ^ 53 else 0) + t.reason * 2 ^ 50 + t.state * 2 ^ 48 + t.wait * 2 ^ 32 +
    t.ack * 2 ^ 16 + t.sent % 65536)

/-- rstat (R353): does not wait. -/
def execRstat (f : AR) (s : State) : Host.Outcome State Fault Refusal :=
  half f.pn f.pg s fun s =>
    let x := s.rg f.ra
    if fld x 32 32 ≠ 0 then s.faultCode 0x03
    else s.wg f.rd ((s.txn (dieOf s.ctx.core) (bindTen s.cur.bind) x).word x)

/-! ### The shelf (R356, R357) -/

/-- The number of a tenant's slot in a cluster's shelf directory. -/
def shelfKey (t i : Nat) : Nat := 256 * t + i
/-- The physical address of a slot's status word, in core 0 of the cluster (TENANT word 7, R366). -/
def State.statusWord (s : State) (cl t i : Nat) : Nat :=
  Config.localBase + 16 * cl * Config.localBytes + fld (s.tenantWord t 7) 8 18 + 8 * i
/-- The virtual address of a slot (R105, R356): a tenant's slots follow one another cluster by cluster, each cluster's in frames of its own,
which system software maps to frames homed on the cluster. Where they begin is a free value (assumption log 5). -/
def State.slotVa (s : State) (cl t i : Nat) : Nat :=
  let size := 64 * ceilDiv (fld (s.tenantWord t 6) 16 32) 64
  let frames := ceilDiv (256 * size) Config.frameBytes
  ((Config.shelfStart t + frames * cl) * Config.frameBytes + size * i) % 2 ^ 56
/-- The pointer to that word, as an address field gives it. -/
def State.statusPtr (s : State) (cl t i : Nat) : Word :=
  BitVec.ofNat 64 (0x01F2000000000000 + 16 * cl * 2 ^ 18 + fld (s.tenantWord t 7) 8 18 + 8 * i)
/-- Shelf slots of a tenant per cluster. -/
def State.shelfSlots (s : State) (t : Nat) : Nat := fld (s.tenantWord t 7) 0 8
/-- A shelf slot. -/
def State.shelf (s : State) (cl t i : Nat) : ShelfSlot := Tab.findD (s.cluster cl).shelf (shelfKey t i) {}
/-- The state with a shelf slot changed. -/
def State.modShelf (s : State) (cl t i : Nat) (f : ShelfSlot → ShelfSlot) : State :=
  s.modCluster cl fun c => { c with shelf := Tab.put c.shelf (shelfKey t i) (f (Tab.findD c.shelf (shelfKey t i) {})) }
/-- The slot that holds an adapter. -/
def State.slotOf (s : State) (cl t id : Nat) : Option Nat :=
  (List.range (s.shelfSlots t)).find? fun i => (s.shelf cl t i).adapter == some id
/-- The unpinned slot fetched least recently (R357); what counts as a fetch: DESIGN CHOICE (assumption log 78). -/
def State.slotFor (s : State) (cl t : Nat) : Option Nat :=
  ((List.range (s.shelfSlots t)).filter fun i => (s.shelf cl t i).pins == 0).foldl (fun m i =>
    match m with
    | none => some i
    | some j => if (s.shelf cl t i).order < (s.shelf cl t j).order then some i else some j) none

/-- A pin of a slot for an adapter; where the slot holds another, its status word is set empty, which
serves that word's entries, and a fill is owed (R99, R357). -/
def State.pinSlot (s : State) (cl t i id : Nat) : State :=
  let hit := (s.shelf cl t i).adapter == some id
  let s := s.bump.modShelf cl t i fun x =>
    if hit then { x with pins := x.pins + 1, order := s.fresh }
    else { adapter := some id, pins := 1, filling := true, full := false, order := s.fresh }
  let pa := s.statusWord cl t i
  if hit then s else (s.setBit pa false).served (16 * cl) pa

/-- The wait on a slot's status word, as ldfk waits (R216, R357). -/
def State.awaitSlot (s : State) (cl t i : Nat) : State :=
  let id := s.fresh
  let pa := s.statusWord cl t i
  let s := s.bump.modCore (16 * cl) fun k => { k with
    parks := k.parks ++ [{ org := s.origin, acc := id, opc := 0xA6, word := pa, data := 0 }] }
  (s.modCur fun t => { t with acc := some { id := id, addr := 0, since := s.cycle, ans := .none }, refusals := 0 }).retry (.park pa)
    (s.statusPtr cl t i)

/-- The access of an afetch to a slot's status word is held by the incomplete commands of its core, as that of ldfk is (R119, R357). -/
def State.slotHeld (s : State) (cl t i : Nat) (body : State → State) : State :=
  match s.conflicts (.loc (16 * cl) (fld (s.tenantWord t 7) 8 18 + 8 * i)) 8 true with
  | [] => body s
  | l => s.retry (.foot l) (s.statusPtr cl t i)

/-- afetch (R357): the slot that holds the adapter, or one that is filled with it, is pinned, and the thread waits on its status
word, which OPND of its wait register names. -/
def execAfetch (f : AR) (s : State) : Host.Outcome State Fault Refusal :=
  half f.pn f.pg s fun s =>
    let id := (s.rg f.ra).toNat
    let t := bindTen s.cur.bind
    let cl := clusterOf s.ctx.core
    if 16384 ≤ id ∨ fld (s.tenantWord t 6) 0 15 ≤ id then s.faultCode 0x03
    else s.asStep fun s => s.answered fun s a =>
      let give := fun (s : State) (i : Nat) => s.wg f.rd (BitVec.ofNat 64 (s.slotVa cl t i))
      match a with
      | some _ =>
        give s ((s.slotOf cl t id).getD ((fld s.cur.w1 0 18 - fld (s.tenantWord t 7) 8 18) / 8))
      | none =>
        match s.slotOf cl t id with
        | some i => s.slotHeld cl t i fun s =>
          if s.isFull (s.statusWord cl t i) then give (s.pinSlot cl t i id).counted i
          else s.underLimit (s.statusPtr cl t i) 0xA6 fun s =>
            if (s.core (16 * cl)).parks.length < 32 then (s.pinSlot cl t i id).awaitSlot cl t i else s.refused
        | none => s.underLimit 0 0xA6 fun s =>
            match s.slotFor cl t with
            | none => s.refused
            | some i => s.slotHeld cl t i fun s =>
              if (s.core (16 * cl)).parks.length < 32 then (s.pinSlot cl t i id).awaitSlot cl t i else s.refused

/-- afetch.rel (R357): the slot that holds the adapter loses a pin. -/
def execAfetchRel (f : AR) (s : State) : Host.Outcome State Fault Refusal :=
  half f.pn f.pg s fun s =>
    let id := (s.rg f.ra).toNat
    let t := bindTen s.cur.bind
    let cl := clusterOf s.ctx.core
    if 16384 ≤ id ∨ fld (s.tenantWord t 6) 0 15 ≤ id then s.faultCode 0x03
    else s.asStep fun s =>
      match s.slotOf cl t id with
      | none => s.faultCode 0x03
      | some i =>
        if (s.shelf cl t i).pins = 0 then s.faultCode 0x03
        else (s.modShelf cl t i fun x => { x with pins := x.pins - 1 }).wg f.rd 0

end Sys2Proof.Machine
end

