-- ==== Sys2Proof/Machine/EvSched.lean ====
section
/-! DEFINITION. Events of the scheduler (R24 to R46, R385, R459): threads that re-enter the rotation, the binding of work, steals,
the placement of roots, the completion word, the park at an instruction boundary. -/

namespace Sys2Proof.Machine

/-! ### Waits -/

/-- The queue that a queue wait is for. -/
def waitQueue (e : Nat) : Nat := if e = 0 then 0 else if e = 3 then 2 else 1

/-- The event of a thread's wait has come (R29): told to it, or seen in the state of its core. -/
def State.waitOver (s : State) (c k : Nat) (t : Thread) : Bool :=
  let q := s.core c
  match t.st with
  | .waiting _ true => true
  | .waiting (.tags m any) false => if any then m == 0 || q.tags &&& m != 0 else q.tags &&& m == m
  | .waiting (.foot l) false => q.cmds.all fun x => !l.contains x.id
  | .waiting (.queue e) false => !s.queueFull c (waitQueue e) t.uid
  | .waiting .port false => !s.portFull c
  | .waiting (.fence sc) false => s.fenceClear c t.uid sc
  | .waiting (.fold 1) false => s.fenceClear c t.uid 7
  | .waiting .solo false => !s.soloBlocks c t.uid t.csc []
  | .waiting .token false => t.solo
  | .waiting (.bar b x) false => (s.bar c b).seq != x
  | _ => false

/-- A thread whose event has come re-enters the rotation, no earlier than 8 cycles after its last issue (R26, R27, R29); KIND of
its wait register becomes 0 (R254). -/
def execRotationReentry (c k : Nat) (s : State) : Host.Outcome State Fault Refusal :=
  .next (match s.thr c k with
    | some t =>
      if s.waitOver c k t ∧ t.ready ≤ s.cycle then
        s.setThr c k { t with st := .runnable, key := s.cycle, w0 := setFld t.w0 0 4 0 }
      else s
    | none => s)

/-- The pages that an abandoned fold waits for are waited for no more, and its transfers serve nothing (R327). -/
def State.leaveFold (s : State) (cl : Nat) : State :=
  let other := fun (w : Waiter) => w != .fold cl
  { s.usedUp (Waiter.fold cl).who with
    dies := s.dies.map fun (d : Nat × Die) => (d.1, { d.2 with
      pageWaiters := d.2.pageWaiters.map fun (e : Nat × List Waiter) => (e.1, e.2.filter other) })
    net := s.net.filter fun m =>
      match m.body with
      | .walk _ _ _ w => other w
      | _ => true }

/-- A wait is withdrawn (R218, R228, R327, R372, R459): nothing of it stays, and its bundle is issued anew. -/
def State.withdraw (s : State) (c k : Nat) : State :=
  match s.thr c k with
  | none => s
  | some t =>
    let mine := fun (o : Origin) => o.core == c && o.slot == k && o.uid == t.uid
    match t.st with
    | .waiting w _ =>
      let s : State := match w with
        | .bar b _ => s.unwatch c b k
        | .park _ =>
          let s := s.modHub fun h => { h with launches := h.launches.map fun (l : Launch) =>
            { l with saved := l.saved.map fun (v : SavedCore) => { v with img := { v.img with parks := v.img.parks.filter fun p => !mine p.org } } } }
          let gone : List (Nat × Park) := s.cores.flatMap fun x => (x.2.parks.filter fun p => mine p.org).map fun p => (x.1, p)
          gone.foldl (fun s (d, p) =>
            let s := s.modCore d fun q => { q with parks := q.parks.filter fun x => !mine x.org }
            if p.opc = 0xA6 then
              let cl := clusterOf d
              let ten := bindTen t.bind
              match (List.range (s.shelfSlots ten)).find? fun i => s.statusWord cl ten i == p.word with
              | some i => s.modShelf cl ten i fun x => { x with pins := x.pins - 1 }
              | none => s
            else s) s
        | .fold _ =>
          let cl := clusterOf c
          let q := s.cluster cl
          let hs : List Word := (q.folds.filter fun r => mine r.org).map fun r => r.handle
          let cur : List Word := match q.folding with
            | some r => if mine r.req.org ∧ r.ending.isNone then [r.req.handle] else []
            | none => []
          let s := if cur.isEmpty then s else s.leaveFold cl
          let s := s.modCluster cl fun q => { q with
            folds := q.folds.filter fun r => !mine r.org,
            folding := if cur.isEmpty then q.folding else none,
            foldPaged := if cur.isEmpty then q.foldPaged else false }
          (hs ++ cur).foldl (fun s h => s.sendUnpin { core := c, slot := k, uid := t.uid, bind := t.bind } h) s
        | .token => s.modHub fun h => { h with tokenQ := h.tokenQ.filter fun x => x != slotKey c k }
        | .rcommit _ =>
          let leave := fun (x : Txn) =>
            let left := x.waiters.filter fun y => !mine y.1
            { x with waiters := left, wait := x.wait - (x.waiters.length - left.length) }
          { s with dies := s.dies.map fun (y : Nat × Die) =>
              (y.1, { y.2 with txns := y.2.txns.map fun (z : Nat × Txn) => (z.1, leave z.2) }) }
        | _ => s
      s.modThr c k fun t => { t with st := .runnable, acc := none, refusals := 0, key := s.cycle, w0 := setFld t.w0 0 4 0 }
    | _ => s

/-! ### The park at an instruction boundary (R372, R459) -/

/-- What a thread must take first before it parks or halts at its boundary: the answer to a commit request, a reply, also that of a
full/empty request served meanwhile, a page wake, a footprint retry that will come, the answer of a fold that has come to its end, an answer
already there (R372, R459). -/
def State.mustTake (s : State) (c : Nat) (t : Thread) : Bool :=
  let asked := t.chunk.any (fun ck => ck.asked) || t.outgoing.isSome
  let answer := t.chunk.isNone && (t.acc.any fun a => a.ans != .none)
  let wait := match t.st with
    | .waiting .reply _ => t.acc.any fun a => a.ans == .none
    | .waiting (.fold 2) _ => t.acc.any fun a => a.ans == .none
    | .waiting (.park _) false => t.acc.any fun a => s.net.any fun m =>
        match m.body with
        | .answer i _ => i == a.id
        | _ => false
    | .waiting .walk false => true
    | .waiting (.fold 0) false => (s.cluster (clusterOf c)).folding.any fun r => r.ending.isSome && r.req.org.uid == t.uid
    | .waiting (.foot l) false => (s.core c).cmds.any fun x => l.contains x.id && x.halted.isNone
    | _ => false
  asked || answer || wait || t.foldAns.isSome

/-- The thread stops at a boundary (R132, R372): an open chunk is squashed without counting, a solo token goes back, a wait is
withdrawn. -/
def State.stopThread (s : State) (c k : Nat) : State := ((s.withdraw c k).squashChunk c k false).dropToken c k

/-- A thread parks at its next instruction boundary with the records that await it, or halts there (R372, R459). A pre-emption stop
leaves a barwait's WATCH bit in its barrier, which is saved with it (R252). A thread that END has met leaves once its earlier writes
are performed, with its handles unpinned (R328, R329). -/
def execInstructionBoundaryPark (c k : Nat) (s : State) : Host.Outcome State Fault Refusal :=
  .next (match s.thr c k with
    | none => s
    | some t =>
      if t.endAt then (if s.fenceClear c t.uid 7 then s.endThread c k else s)
      else if s.mustTake c t then s
      else
        match t.parkAt with
        | r :: rest =>
          let s := s.stopThread c k
          let s := s.modThr c k fun t => { t with parkAt := [], haltAt := false }
          let s := s.park c k r
          rest.foldl (fun s r => s.raiseRecord c r) s
        | [] =>
          if t.haltAt then
            (s.stopThread c k).modThr c k fun t => { t with haltAt := false, stopAt := false, st := .halted, w0 := 0, w1 := 0 }
          else if t.stopAt ∧ t.st ≠ .parked ∧ t.st ≠ .halted then
            match t.st with
            | .waiting (.bar b q) _ => s.modThr c k fun t => { t with st := .halted, stopBar := some (b, q), w0 := 0, w1 := 0 }
            | _ => (s.stopThread c k).modThr c k fun t => { t with st := .halted, w0 := 0, w1 := 0 }
          else s)

/-! ### Binding work (R31, R39, R40) -/

/-- The lowest free slot of a core. -/
def State.freeSlot (s : State) (c : Nat) : Option Nat := (List.range 16).find? fun k => (s.thr c k).isNone

/-- The launch of a binding is being stopped, saved or restored: nothing of it is bound (R386). -/
def State.frozen (s : State) (bind : Word) : Bool :=
  match s.launchOf bind with
  | some l => l.st != .active
  | none => false

/-- The core's own grant belongs to a launch that is being stopped: it binds nothing (R386). -/
def State.coreFrozen (s : State) (c : Nat) : Bool :=
  match (s.core c).grant with
  | some g =>
    match s.launch g.launch with
    | some l => l.st != .active && l.st != .complete
    | none => false
  | none => false

/-- The status pair of a routed thread (R349): g[RD] and g[RD + 1]; RD = 0 discards the status word. -/
def routedRegs (g : Vector Word 16) (r : Routing) : Vector Word 16 :=
  let (ch, e) := if r.out = 0 then r.choices.headD (0, 0) else (0, 0)
  let w := BitVec.ofNat 64 (r.x.toNat * 2 ^ 32 + r.out * 2 ^ 30 + r.inv % 16 * 2 ^ 24 + r.rdir * 2 ^ 20 + ch * 2 ^ 16 + r.home)
  let g := if r.rd % 16 = 0 then g else g.set (r.rd % 16) w (Nat.mod_lt _ (by decide))
  g.set ((r.rd + 1) % 16) (BitVec.ofNat 64 e) (Nat.mod_lt _ (by decide))

/-- A context bound to a slot (R21, R241, R349): vector and shape registers 0, budget 256, the fault target of its launch (R367); a refused
one parks at once, its registers as they were. It issues no earlier than 8 cycles after its last issue (R28). Its rotation key is the cycle of binding: DESIGN CHOICE (assumption log 64), R26
names keys for an issue and a wait only. -/
def State.bindContext (s : State) (c k : Nat) (x : Context) : State :=
  let g := match x.route, x.fault with
    | some r, none => routedRegs x.g r
    | _, _ => x.g
  s.setThr c k {
    uid := x.uid, g := g, pc := x.pc, tsw := x.tsw, bind := x.bind, root := x.root, ftgt := (s.launchRec x.bind).ftgt,
    key := s.cycle, ready := x.ready, entered := x.entered, startFault := x.fault.map fun f => (f, false), away := x.away,
    homes := removeNat x.homes c }

/-- The channels of a core that deliver: EN set, BLK clear, a message pending that may be bound; best first (R38, R39). -/
def State.deliverable (s : State) (c : Nat) : List (Nat × Chan) :=
  let l := (s.core c).chans.filter fun (_, h) =>
    h.en && !h.blk && (match h.pend with
      | (t, _) :: _ => !s.frozen t.bind
      | [] => false)
  let pri := fun (h : Chan) => match h.pend with
    | (_, p) :: _ => p
    | [] => 0
  (List.range 8).reverse.flatMap fun p => l.filter fun x => pri x.2 == p

/-- A source of the scheduler's choice. -/
inductive Source where
  | frame
  | chan (n : Nat)
  | remote
  | deque
deriving DecidableEq, Repr

/-- What each source holds that may be bound. -/
structure Work where
  frames : List Context
  chans : List (Nat × Chan)
  remote : List (Task × Option Nat)
  deque : List Task

/-- The bindable work of a core. -/
def State.work (s : State) (c : Nat) : Work :=
  let q := s.core c
  { frames := q.frames.filter fun x => !s.frozen x.bind,
    chans := s.deliverable c,
    remote := q.remote.filter fun x => !s.frozen x.1.bind,
    deque := q.deque.filter fun x => !s.frozen x.bind }

/-- The choice of R39 with the aging of R40. -/
def chooseSource (w : Work) (skips : Nat × Nat × Nat) : Option Source :=
  let best := w.chans.head?.map fun x => Source.chan x.1
  let aged := (w.chans.find? fun x => decide (8 ≤ x.2.skip)).map fun x => Source.chan x.1
  match aged with
  | some x => some x
  | none =>
    if 8 ≤ skips.1 ∧ best.isSome then best
    else if 8 ≤ skips.2.1 ∧ w.remote ≠ [] then some .remote
    else if 8 ≤ skips.2.2 ∧ w.deque ≠ [] then some .deque
    else if w.frames.length ≠ 0 then some .frame
    else
      match best with
      | some x => some x
      | none => if w.remote ≠ [] then some .remote else if w.deque ≠ [] then some .deque else none

/-- The skip counts after a slot was filled from a source (R40). -/
def agedSkips (w : Work) (src : Source) (k : Nat × Nat × Nat) : Nat × Nat × Nat :=
  let up := fun (b : Bool) (n : Nat) => if b then n + 1 else n
  let ch := !w.chans.isEmpty
  let re := w.remote != []
  let de := w.deque != []
  match src with
  | .frame => (up ch k.1, up re k.2.1, up de k.2.2)
  | .chan _ => (0, up re k.2.1, up de k.2.2)
  | .remote => (k.1, 0, up de k.2.2)
  | .deque => (k.1, k.2.1, 0)

/-- The channels' counts after a slot was filled from channel n (R40). -/
def agedChans (w : Work) (n : Nat) (chans : Tab Chan) : Tab Chan :=
  let passed := (w.chans.map fun x => x.1).dropWhile (fun i => i != n)
  chans.map fun (i, h) =>
    if i = n then (i, { h with skip := 0 }) else if passed.contains i then (i, { h with skip := h.skip + 1 }) else (i, h)

/-- A list without the first element that satisfies a test. -/
def dropFirst {α : Type} (p : α → Bool) : List α → List α
  | [] => []
  | x :: r => if p x then r else x :: dropFirst p r

/-- A list without the last element that satisfies a test. -/
def dropLastIf {α : Type} (p : α → Bool) (l : List α) : List α := (dropFirst p l.reverse).reverse

/-- A free slot is filled from a source (R31, R39, R40). A core that holds no grant by then takes that of the work's launch: the one under
which it was accepted has been released since (R378). -/
def State.fillFrom (s : State) (c k : Nat) (w : Work) (src : Source) : State :=
  let s := s.modCore c fun q => { q with skips := agedSkips w src q.skips }
  match src with
  | .frame =>
    match w.frames with
    | [] => s
    | x :: _ =>
      ((s.modCore c fun q => { q with frames := dropFirst (fun y => !s.frozen y.bind) q.frames }).grantFor c x.bind).bindContext c k x
  | .chan n =>
    match Tab.find (s.core c).chans n with
    | none => s
    | some h =>
      match h.pend with
      | [] => s
      | (t, _) :: r =>
        let s := s.modCore c fun q => { q with chans := Tab.put (agedChans w n q.chans) n { h with pend := r, skip := 0 } }
        (s.grantFor c t.bind).startThread c k { t with entry := h.w0, bind := childBind t.bind h.hk c } none
  | .remote =>
    match w.remote with
    | [] => s
    | (t, l) :: _ =>
      ((s.modCore c fun q => { q with remote := dropFirst (fun y => !s.frozen y.1.bind) q.remote }).grantFor c t.bind).startThread c k t l
  | .deque =>
    match w.deque.getLast? with
    | none => s
    | some t =>
      ((s.modCore c fun q => { q with deque := dropLastIf (fun y => !s.frozen y.bind) q.deque }).grantFor c t.bind).startThread c k t none

/-- A core may bind work: it is no office core, its grant is not being stopped, a slot is free. -/
def State.mayBind (s : State) (c : Nat) : Option Nat := if s.isOffice c || s.coreFrozen c then none else s.freeSlot c

/-- A free slot binds the first available work (R39); the entry acts as acquire (R136). -/
def execSchedulerBind (c : Nat) (s : State) : Host.Outcome State Fault Refusal :=
  .next (match s.mayBind c with
    | none => s
    | some k =>
      let w := s.work c
      match chooseSource w (s.core c).skips with
      | none => s
      | some src => s.fillFrom c k w src)

/-! ### Steals (R41, R42) -/

/-- The tenant that a core's partition admits. -/
def State.coreTenant (s : State) (c : Nat) : Option Nat :=
  let p := (s.core c).part
  if p.getLsbD 6 && !s.isOffice c then some (fld p 0 6) else none

/-- The place of victim d in the order of core c's probes (R42): the circles from gang to module, within one the ascending core ids
after the own, then those before it. -/
def probeKey (c d : Nat) : Nat := scopeBetween c d * 65536 + (if c < d then d else d + 16384)

/-- The victims of a core in the order of its probes (R42): the deque entries of its tenant that it can see bound the circles. -/
def State.victims (s : State) (c ten : Nat) : List Nat :=
  let seen := s.cores.filter fun (d, q) => d != c && q.deque.any fun t => bindTen t.bind == ten
  let widest := seen.foldl (fun m (_, q) => q.deque.foldl (fun m t => max m (bindSd t.bind)) m) 0
  (List.range 6).flatMap fun i =>
    let ring := i + 2
    let here := (seen.map fun x => x.1).filter fun d => scopeBetween c d == ring && decide (ring ≤ widest)
    (here.filter fun d => decide (c < d)) ++ (here.filter fun d => decide (d < c))

/-- The next victim of a core: the first at or after the place that its last probe has reached (R42). -/
def State.nextVictim (s : State) (c ten from_ : Nat) : Option Nat := (s.victims c ten).find? fun d => decide (from_ ≤ probeKey c d)

/-- The circles are through (R42): the core begins again with its gang 64 cycles later. -/
def State.probesFailed (s : State) (c : Nat) : State := s.modCore c fun q => { q with probeNext := 0, probeAt := s.cycle + 64 }

/-- A core with a free slot and no work of its own probes the next victim, one probe at a time (R42). A round that work of its own has
interrupted goes on later from the place it had reached: DESIGN CHOICE (assumption log 18), R42 does not say whether it begins anew. -/
def State.probe (s : State) (c : Nat) : State :=
  match s.mayBind c, s.coreTenant c with
  | some _, some ten =>
    if (chooseSource (s.work c) (s.core c).skips).isSome then s
    else
      match s.nextVictim c ten (s.core c).probeNext with
      | none => if (s.core c).probeNext = 0 then s else s.probesFailed c
      | some v =>
        (s.modCore c fun q => { q with probing := true, probeAt := 0 }).send {
          id := 0, src := c, dst := v, dmod := s.modid, ten := ten, body := .stealReq c }
  | _, _ => s

/-- A probe (R42). -/
def execStealProbe (c : Nat) (s : State) : Host.Outcome State Fault Refusal :=
  .next (if (s.core c).probing ∨ (s.core c).probeAt ≠ 0 then s else s.probe c)

/-- The retry of a thief 64 cycles after its last circle failed (R42). -/
def execStealRetry (c : Nat) (s : State) : Host.Outcome State Fault Refusal :=
  .next (let q := s.core c
    if q.probing ∨ q.probeAt = 0 ∨ s.cycle < q.probeAt then s
    else (s.modCore c fun q => { q with probeNext := 0, probeAt := 0 }).probe c)

/-- A probe reaches its victim (R42): it hands over its oldest entry, or answers that it does not. -/
def execStealRequest (m : Nat) (s : State) : Host.Outcome State Fault Refusal :=
  .next (match s.arrived m with
    | none => s
    | some x =>
      match x.body with
      | .stealReq thief =>
        let s := s.drop m
        let v := x.dst
        let q := s.core v
        let give := match q.deque with
          | t :: r =>
            if inScope (bindSd t.bind) v thief ∧ bindTen t.bind = x.ten ∧ !s.frozen t.bind ∧ (r ≠ [] ∨ (s.freeSlot v).isNone) then some t
            else none
          | [] => none
        let s := match give with
          | some _ => (s.modCore v fun q => { q with deque := q.deque.drop 1 }).checkGrant v
          | none => s
        s.send { id := 0, src := v, dst := thief, dmod := s.modid, ten := x.ten, body := .stealRep give }
      | _ => s)

/-- The slot that a stolen task may take (R39, R42): a free one, while sources 1 to 4 hold nothing that may be bound. -/
def State.stealSlot (s : State) (c : Nat) (bind : Word) : Option Nat :=
  if (chooseSource (s.work c) (s.core c).skips).isSome || s.frozen bind then none else s.mayBind c

/-- The answer to a probe (R42): the entry is bound, or the thief goes on to its next victim, or waits 64 cycles. Where the thief has
work of its own or no free slot by now, the entry joins its deque as the newest; while the deque is full, or the core admits the
tenant no more (R33), the answer waits at its port, and the probe counts as in flight: DESIGN CHOICE (assumption log 18). -/
def execStealReply (m : Nat) (s : State) : Host.Outcome State Fault Refusal :=
  .next (match s.arrived m with
    | none => s
    | some x =>
      match x.body with
      | .stealRep none =>
        let c := x.dst
        let s := s.drop m
        let n := probeKey c x.src + 1
        match s.nextVictim c x.ten n with
        | some _ => s.modCore c fun q => { q with probing := false, probeNext := n }
        | none => (s.modCore c fun q => { q with probing := false }).probesFailed c
      | .stealRep (some t) =>
        let c := x.dst
        if s.holds t.bind c then s.hold m
        else if !s.admits c x.ten then s.again m
        else
          match s.stealSlot c t.bind with
          | some k =>
            let s := ((s.drop m).modCore c fun q => { q with probing := false, probeNext := 0 }).grantFor c t.bind
            s.startThread c k t none
          | none =>
            if 256 ≤ (s.core c).deque.length then s.again m
            else
              let s := ((s.drop m).modCore c fun q => { q with probing := false, probeNext := 0 }).grantFor c t.bind
              s.modCore c fun q => { q with deque := q.deque ++ [t] }
      | _ => s)

/-! ### Roots (R36, R379, R380, R385) -/

/-- KIND of dependence k. -/
def Launch.depKind (l : Launch) (k : Nat) : Nat := fld (l.w (14 + 2 * k)) 57 2

/-- A root is ready (R381): every dependence is met for it. -/
def Launch.ready (l : Launch) (r : Nat) : Bool :=
  (List.range 4).all fun k =>
    match l.depKind k with
    | 0 => true
    | 1 => l.met.contains k
    | _ => l.metRoots.contains (k, r)

/-- The launch has a dependence met root by root. -/
def Launch.perRoot (l : Launch) : Bool := (List.range 4).any fun k => l.depKind k == 2

/-- The next ready root in ascending index (R380). -/
def Launch.nextRoot (l : Launch) : Option Nat :=
  if l.perRoot then
    let rs := (l.metRoots.map fun x => x.2).foldl insertNat []
    rs.find? fun r => decide (r < l.roots) && l.ready r && !l.placed.contains r && (Tab.find l.waits r).isNone
  else if l.next < l.roots ∧ l.ready l.next then some l.next
  else none

/-- The launch that is served next (R380): the lowest class, then the order of acceptance. -/
def State.nextLaunch (s : State) : Option (Launch × Nat) :=
  let c := s.hub.launches.filterMap fun l => if l.st = .active then l.nextRoot.map fun r => (l, r) else none
  (List.range 4).findSome? fun cls => c.find? fun x => x.1.cls == cls

/-- The address of a root's arguments (R375). -/
def Launch.argAddr (l : Launch) (r : Nat) : Word := if (l.w 3).getLsbD 31 then l.w 1 + BitVec.ofNat 64 (32 * r) else l.w 1

/-- A root's argument read (R379), at its placement: the words, a fault, or a wait for the page. What a refused page has left is taken up. -/
def State.readArgs (s : State) (l : Launch) (r : Nat) (w : RootWait) : State × RootWait :=
  if w.args.isSome then (s, w)
  else if l.w 1 = 0 then (s, { w with args := some [0, 0, 0, 0] })
  else
    match s.hubRead l.ten (l.argAddr r) 32 with
    | .ok bs => (s.hubUsed l.ten (l.argAddr r) 32 .read, { w with args := some (wordsOf bs 4) })
    | .error (some f) =>
      (s, { w with args := some [0, 0, 0, 0], argFault := some { f with addr := l.argAddr r, aux0 := 0, aux1 := 0 } })
    | .error none =>
      let who := Waiter.intake l.num (16 + r)
      let p := ptrAddr (l.argAddr r)
      ((s.pageRequest 0 l.ten 0 p .read who).getD (s.holdRequest 0 l.ten 0 p .read who), { w with paged := true })

/-- The intake takes up the next ready root (R380): it waits to walk. -/
def execRootPlacement (s : State) : Host.Outcome State Fault Refusal :=
  .next (match s.nextLaunch with
    | none => s
    | some (l, r) =>
      s.modLaunch l.num fun l => { l with waits := Tab.put l.waits r {}, next := if l.perRoot then l.next else r + 1 })

/-- HINT of a root (R375, R379); none while its table entry cannot be read. -/
def State.hintOf (s : State) (l : Launch) (r : Nat) : Option Nat :=
  if l.w 4 = 0 then some (fld (l.w 3) 0 14)
  else
    match s.hubRead l.ten (l.w 4 + BitVec.ofNat 64 (2 * r)) 2 with
    | .ok bs => some (natOfBytes bs % 2 ^ 14)
    | .error _ => none

/-- The clusters of a hint walk in order (R36): the ring pair's 32 stops by distance, clockwise first, none twice. -/
def walkOrder (hint rad : Nat) : List Nat :=
  let cl := clusterOf hint
  let base := cl / 32 * 32
  let p := cl % 32
  let l := (List.range (min rad 16)).flatMap fun i =>
    let d := i + 1
    if d = 16 then [base + (p + 16) % 32] else [base + (p + d) % 32, base + (p + 32 - d) % 32]
  cl :: l

/-- The clusters that a walk visits (R36): it skips a stop whose meter is above its threshold. -/
def State.visited (s : State) (hint rad : Nat) : List Nat :=
  (walkOrder hint rad).filter fun cl => decide ((s.stop cl).meter ≤ (s.stop cl).thr)

/-- The next free slot of a core is spoken for: a source has been passed over 8 times (R40), or a context waits in a frame (R47). -/
def State.ageClaims (s : State) (c : Nat) : Bool :=
  let w := s.work c
  let k := (s.core c).skips
  !w.frames.isEmpty || w.chans.any (fun x => decide (8 ≤ x.2.skip)) || (decide (8 ≤ k.1) && !w.chans.isEmpty) || (decide (8 ≤ k.2.1) && !w.remote.isEmpty) ||
    (decide (8 ≤ k.2.2) && !w.deque.isEmpty)

/-- Free slots that a core counts for a launch's root (R36, R378, R420); none while its next slot is spoken for (R40, R47). -/
def State.slotsFor (s : State) (c : Nat) (l : Launch) : Nat :=
  let other := match (s.core c).grant with
    | some g => g.launch != l.num
    | none => false
  if !s.admits c l.ten || other || s.coreFrozen c || s.ageClaims c then 0
  else ((List.range 16).filter fun k => (s.thr c k).isNone).length

/-- The core of a cluster that takes a root: the most free slots, on a tie the lowest number (R36). -/
def State.rootCore (s : State) (cl : Nat) (l : Launch) : Option Nat :=
  let best := (List.range 16).foldl (fun (m : Nat × Nat) i =>
    let n := s.slotsFor (16 * cl + i) l
    if m.2 < n then (16 * cl + i, n) else m) (0, 0)
  if best.2 = 0 then none else some best.1

/-- The descriptor of a root's task (R379). -/
def rootTask (l : Launch) (r hint : Nat) (w : RootWait) : Task :=
  let a := w.args.getD [0, 0, 0, 0]
  { entry := l.w 0, a0 := a.getD 0 0, a1 := a.getD 1 0, a2 := a.getD 2 0, a3 := a.getD 3 0,
    bind := BitVec.ofNat 64 (l.lid * 2 ^ 32 + l.ten * 2 ^ 26 + (if l.hk then 2 ^ 25 else 0) + l.sd * 2 ^ 21 + l.cls * 2 ^ 19 +
      l.rad * 2 ^ 14 + hint),
    root := r, argFault := w.argFault }

/-- The root is placed: it waits no more. -/
def State.rootPlaced (s : State) (n r : Nat) : State :=
  s.modLaunch n fun l => { l with waits := Tab.del l.waits r, placed := insertNat l.placed r }
/-- A root's wait changed. -/
def State.modWait (s : State) (n r : Nat) (f : RootWait → RootWait) : State :=
  s.modLaunch n fun l => { l with waits := match Tab.find l.waits r with
    | some w => Tab.put l.waits r (f w)
    | none => l.waits }

/-- A message waits to be offered again. -/
def Msg.waits (m : Msg) : Bool :=
  match m.stage with
  | .wait _ => true
  | _ => false

/-- A message has crossed a peer link. -/
def Msg.gone (m : Msg) : Bool := m.stage == .away || m.stage == .there

/-- The context with which a thread has left its core. -/
def Body.leaver : Body → Option Context
  | .context x => some x
  | .routeIn x => some x
  | .rrow x => some x
  | _ => none

/-- A message is a context of a launch. -/
def Msg.carries (m : Msg) (lid ten : Nat) : Bool :=
  match m.body.leaver with
  | some x => ofLaunch lid ten x.bind
  | none => false

/-- A context of a launch stands at a core's port (R387). -/
def State.atPort (s : State) (c lid ten : Nat) : Bool :=
  s.net.any fun m => (s.core c).port.contains m.id && !m.gone && m.carries lid ten

/-- The cores with anything of a launch: its grant, or work of it. -/
def State.coresOf (s : State) (l : Launch) : List Nat :=
  let ks := (s.threads.map fun x => x.1 / 16) ++ (s.cores.map fun x => x.1)
  (ks.foldl insertNat []).filter fun c =>
    (match (s.core c).grant with
    | some g => g.launch == l.num
    | none => false) || s.holdsWork c l.lid l.ten || s.atPort c l.lid l.ten

/-- The stop of a victim begins (R386). -/
def State.startStop (s : State) (v : Nat) : State :=
  match s.launch v with
  | none => s
  | some l => if l.st = .active then s.bump.modLaunch v fun x => { x with st := .stopping (s.coresOf l), marks := [] } else s

/-- The victim of R385 among the visited clusters' grants: the numerically greatest class, then the one accepted last. -/
def State.victimFor (s : State) (l : Launch) (cls : List Nat) : Option Launch :=
  let gs := cls.flatMap fun cl => (List.range 16).filterMap fun i =>
    match (s.core (16 * cl + i)).grant with
    | some g => s.launch g.launch
    | none => none
  (gs.filter fun v => decide (l.cls < v.cls) && v.st != .complete).foldl (fun m v =>
    match m with
    | none => some v
    | some b => if b.cls < v.cls ∨ (b.cls = v.cls ∧ b.num < v.num) then some v else some b) none

/-- The victim holds no more grant on the walked clusters (R385). -/
def State.victimGone (s : State) (v hint rad : Nat) : Bool :=
  (walkOrder hint rad).all fun cl => (List.range 16).all fun i =>
    match (s.core (16 * cl + i)).grant with
    | some g => g.launch != v
    | none => true

/-- The victim that a root waits for is still being stopped, and holds grants on the walked clusters (R385). -/
def State.victimHolds (s : State) (l : Launch) (r : Nat) (w : RootWait) : Bool :=
  match w.victim with
  | none => false
  | some v =>
    (match s.launch v with
    | some x => x.st != .active
    | none => false) && (match s.hintOf l r with
    | some hint => !s.victimGone v hint l.rad
    | none => false)

/-- A root may walk now: it waits for no page, no later cycle and no victim (R36, R379, R385). -/
def State.mayWalk (s : State) (l : Launch) (r : Nat) (w : RootWait) : Bool :=
  l.st == .active && !w.paged && decide (w.next ≤ s.cycle) && !s.victimHolds l r w

/-- A root that is served before another one is ready to be placed (R380): of a lower class, of a launch accepted before it, or of a lower
index. -/
def State.served1st (s : State) (l : Launch) (r : Nat) : Bool :=
  s.hub.launches.any fun x => x.st == .active &&
    (if x.num = l.num then
      (x.nextRoot.any fun i => decide (i < r)) || x.waits.any fun y => decide (y.1 < r) && s.mayWalk x y.1 y.2
    else
      (decide (x.cls < l.cls) || (x.cls == l.cls && decide (x.num < l.num))) &&
        (x.nextRoot.isSome || x.waits.any fun y => s.mayWalk x y.1 y.2))

/-- A root's place is found: its arguments are read, and it is placed there, or waits for their page (R379). -/
def State.placeRoot (s : State) (l : Launch) (r : Nat) (w : RootWait) (place : State → RootWait → State) : State :=
  let (s, w) := s.readArgs l r w
  if w.paged then s.modWait l.num r fun _ => w else place (s.rootPlaced l.num r) w

/-- A root's walk (R36, R378, R385): the first visited cluster with a free slot takes it; else a victim is pre-empted for it; else
it enters the HINT core's remote-call queue, or waits 256 cycles. A slot that a root takes passes over sources 2 to 4 as any other
fill does (R47): DEDUCED (assumption log 65), R40 speaks of the ranked sources only. -/
def State.walkRoot (s : State) (n r : Nat) : State :=
  match s.launch n with
  | none => s
  | some l =>
    match Tab.find l.waits r with
    | none => s
    | some w =>
      if !s.mayWalk l r w ∨ s.served1st l r then s
      else
        match s.hintOf l r with
        | none => s.modWait n r fun w => { w with next := s.cycle + 256 }
        | some hint =>
            let s := if l.w 4 = 0 then s else s.hubUsed l.ten (l.w 4 + BitVec.ofNat 64 (2 * r)) 2 .read
            let cls := s.visited hint l.rad
            match cls.findSome? fun cl => s.rootCore cl l with
            | some c => s.placeRoot l r w fun s w =>
              let s := s.takeGrant c l
              match s.freeSlot c with
              | some k =>
                let s := s.modCore c fun q => { q with skips := agedSkips (s.work c) .frame q.skips }
                s.startThread c k (rootTask l r hint w) none
              | none => s
            | none =>
              match s.victimFor l cls with
              | some v => (s.startStop v.num).modWait n r fun w => { w with victim := some v.num }
              | none =>
                if s.admits hint l.ten ∧ (s.core hint).remote.length < 64 then
                  s.placeRoot l r w fun s w =>
                    (s.takeGrant hint l).modCore hint fun q => { q with remote := q.remote ++ [(rootTask l r hint w, none)] }
                else s.modWait n r fun w => { w with next := s.cycle + 256, victim := none }

/-- A root's hint walk (R36, R385). -/
def execRootWalk (l r : Nat) (s : State) : Host.Outcome State Fault Refusal := .next (s.walkRoot l r)
/-- The walk of a root that has waited 256 cycles (R36). -/
def execRootWalkRetry (l r : Nat) (s : State) : Host.Outcome State Fault Refusal :=
  .next (match s.launch l with
    | none => s
    | some x =>
      match Tab.find x.waits r with
      | some w => if w.next ≠ 0 ∧ w.next ≤ s.cycle then s.walkRoot l r else s
      | none => s)

/-! ### Completion (R46, R430, R460) -/

/-- Every root has finished and every bit of the bitmap has been written: the sequence value is stored to the completion word, and
the launch is complete. -/
def execCompletionWordWrite (l : Nat) (s : State) : Host.Outcome State Fault Refusal :=
  .next (match s.launch l with
    | none => s
    | some x =>
      if x.st = .active ∧ !x.wordDone ∧ x.roots ≤ x.finished.length ∧ !(s.hub.writes.any fun w => w.launch == some l && w.what == 2) then
        let s := s.modLaunch l fun y => { y with wordDone := true, st := .complete }
        if x.w 9 = 0 then s
        else s.intakeWrite { ten := x.ten, what := 3, addr := x.w 9, val := x.w 10, scope := x.cscope, launch := some l }
      else s)

end Sys2Proof.Machine
end

