-- ==== Sys2Proof/Machine/EvMem.lean ====
section
/-! DEFINITION. Events of memory and of chunks: accesses at home slices, owning cores and the host (R105 to R112, R129), remote-data
cache banks (R108), durable stores (R137), commits (R125 to R127), full/empty requests (R216, R217). -/

namespace Sys2Proof.Machine

/-! ### Accesses -/

/-- A step's access performed at its home slice c (R107 to R110, R129): a write once the banks of other dies have lost the line (R108), and
a line that the slice lacks once it has come over the ring stop of its vault (R19); until then it waits there. What a poisoned flit carried
is stored poisoned, and a load or atomic of it faults (R418). -/
def State.homeAccess (s : State) (x : Msg) (c pa n hint : Nat) (op : AccOp) : State :=
  let wdie := some (dieOf x.org.core)
  match (if op = .load then [] else s.listed wdie op.atomic (pa / 64)) with
  | [] =>
    let e := s.fat (pa / Config.dieBytes) (pa % Config.dieBytes / Config.frameBytes)
    if s.vaultTrip c pa n hint (op != .load) ∧ !s.atHand x.id (pa / 64) then
      s.askLine x.id { x.org with core := c } x.ten { line := pa / 64, wr := op != .load, stops := [16 * vaultOf pa] }
    else
    let bad := s.spoilt x.id (pa / 64)
    let stores := op != .load && !op.atomic
    let s := ((s.drop x.id).usedUp x.id).l2Touch c (fatTen e) pa n hint (op != .load)
    let s := if op = .load then s else s.unlock x.org.uid
    if bad ∧ !stores then (s.reply c x.org x.id (.fault { code := 0x12 })).checkRoot x.org.bind x.org.root else
    let (s, a) := s.performOp x.org wdie pa n op
    ((s.spoilBy { x with poisoned := x.poisoned || bad } pa n).reply c x.org x.id a).checkRoot x.org.bind x.org.root
  | dies => s.clearFor x.org (pa / 64) dies

/-- An access at a slice (R107 to R112): performed at its home; forwarded there once; for a line of another die a load is served by the
bank or fetched from the home, a store is marked in the bank and goes on; performed by the host for host memory. -/
def State.sliceAccess (s : State) (x : Msg) (pa n hint : Nat) (op : AccOp) : State :=
  let c := x.dst
  if !isDevice pa then
    let (s, a) := (s.drop x.id).performOp x.org none pa n op
    (s.spoilBy x pa n).reply c x.org x.id a
  else
    let fd := pa / Config.dieBytes
    match s.homeOf (s.fat fd (pa % Config.dieBytes / Config.frameBytes)) pa with
    | none => (s.drop x.id).reply c x.org x.id (.fault { code := 0x03 })
    | some h =>
      if h = c then s.homeAccess x c pa n hint op
      else
        let s0 := s.drop x.id
        if fd = dieOf c then s0.forward x c h x.body
        else
          match op with
          | .load =>
            match s.bankLine c (pa / 64) with
            | some l =>
              if l.has (pa % 64) n then (s0.bankUse c (pa / 64) hint).reply c x.org x.id (.data (natOfBytes (l.bytes (pa % 64) n)))
              else s0.forward x c h (if hint = 2 then x.body else .rfill c pa n hint x.id)
            | none => s0.forward x c h (if hint = 2 then x.body else .rfill c pa n hint x.id)
          | .store _ => (s0.bankUse c (pa / 64) hint).forward x c h x.body
          | _ => s0.forward x c h x.body

/-- A bulk transfer has ended, for an access that still waits for it: of a command, of a commit, of a fold, or of a message. -/
def State.transferred (s : State) (who line : Nat) (ok bad : Bool) : State :=
  let live := s.cores.any (fun x => x.2.cmds.any fun y => y.id == who) || s.threads.any (fun x => x.2.uid == who && x.2.chunk.isSome) ||
    (s.msg who).isSome || s.clusters.any fun x => (Waiter.fold x.1).who == who && x.2.folding.isSome
  if live then { s with fetched := s.fetched ++ [{ who := who, line := line, ok := ok, bad := bad }] } else s

/-- A bulk transfer at a stop (R413): it goes on to its next one, and from its last an answer goes to the requester. A write-back ends
there, its flit may carry poison to its line (R418); a basket's write counts where it goes (R240). -/
def State.bulkStop (s : State) (x : Msg) (who line : Nat) (wr : Bool) (legs : List Nat) : State :=
  match legs with
  | d :: r => (s.drop x.id).forward x x.dst d (.bulk who line wr r)
  | [] =>
    if who = 0 then
      if x.poisoned then { s.drop x.id with poison := (sectorsIn (64 * line) 64).foldl insertNat s.poison } else s.drop x.id
    else if (s.msg who).any fun m => m.body.theContext.isSome then (s.drop x.id).transferred who line true x.poisoned
    else (s.drop x.id).forward x x.dst x.org.core (.bulkEnd who line)

/-- A write of a step that waits where it is to be performed, because its notice would reach the solo chunk (R127). -/
def State.writeHeld (s : State) (o : Origin) (pa n : Nat) (op : AccOp) : Bool :=
  op != .load && s.soloBlocks o.core o.uid o.csc (linesOf pa n)

/-- An access at a slice. -/
def execHomeSliceAccess (m : Nat) (s : State) : Host.Outcome State Fault Refusal :=
  .next (match s.arrived m with
    | none => s
    | some x =>
      match x.body with
      | .access pa n hint op =>
        if s.writeHeld x.org pa n op then s.unlock x.org.uid
        else if pa < Config.localBase ∨ Config.hostBase ≤ pa then s.sliceAccess x pa n hint op else s
      | .bulk who line wr legs => s.bulkStop x who line wr legs
      | _ => s)

/-- An access to another core's memories, window or barrier, performed at the core that owns it (R98, R101, R129, R250); a core
that no longer admits the tenant answers with the access fault (R420). -/
def execOwnerCoreAccess (m : Nat) (s : State) : Host.Outcome State Fault Refusal :=
  .next (match s.arrived m with
    | none => s
    | some x =>
      let refuse := fun (s : State) => s.reply x.dst x.org m (.fault { code := 0x03 })
      match x.body with
      | .access pa n _ op =>
        if Config.localBase ≤ pa ∧ pa < Config.hostBase ∧ !s.writeHeld x.org pa n op then
          let s := s.drop m
          if s.admits x.dst x.ten then
            let (s', a) := s.performOp x.org none pa n op
            (s'.spoilBy x pa n).reply x.dst x.org m a
          else refuse s
        else s
      | .winRead o =>
        let s := s.drop m
        if s.admits x.dst x.ten then s.reply x.dst x.org m (.data (s.windowValue x.dst o)) else refuse s
      | .barRead b link =>
        let s := s.drop m
        let y := s.bar x.dst b
        if s.admits x.dst x.ten then s.reply x.dst x.org m (.data (if link then y.linkWord else y.stateWord).toNat) else refuse s
      | _ => s)

/-- A sector that a bank lacks (R108): its home reads it by the access's hint (R109), the bank is filled, the directory lists the die, and
the load is answered; a prefetch waits for no answer. While a write waits for the line's invalidation, the fill waits. -/
def execRemoteCacheFill (m : Nat) (s : State) : Host.Outcome State Fault Refusal :=
  .next (match s.arrived m with
    | none => s
    | some x =>
      match x.body with
      | .rfill slice pa n hint acc =>
        let h := x.dst
        let answer := fun (s : State) (a : Answer) => if acc = 0 then s else s.reply h x.org acc a
        if s.unacked.any fun u => u.line == pa / 64 then s
        else if s.vaultTrip h pa n hint false ∧ !s.atHand m (pa / 64) then
          s.askLine m { x.org with core := h } x.ten { line := pa / 64, wr := false, stops := [16 * vaultOf pa] }
        else if s.poisoned pa n ∨ s.spoilt m (pa / 64) then answer ((s.drop m).usedUp m) (.fault { code := 0x12 })
        else
          let e := s.fat (pa / Config.dieBytes) (pa % Config.dieBytes / Config.frameBytes)
          answer ((((s.drop m).usedUp m).l2Touch h (fatTen e) pa n hint false).bankFill slice pa n hint) (.data (s.memNat pa n))
      | _ => s)

/-- A line leaves the banks of a die, which answers its home (R108). -/
def execRemoteCacheInvalidate (m : Nat) (s : State) : Host.Outcome State Fault Refusal :=
  .next (match s.arrived m with
    | none => s
    | some x =>
      match x.body with
      | .inval line die wr =>
        ((s.drop m).bankDrop die line).send { id := 0, src := x.dst, dst := x.src, dmod := s.modid, org := x.org, body := .wack wr }
      | _ => s)

/-- An invalidation is done, and its die leaves the directory; after the last of a write, the write may be performed (R108, R136). -/
def execWriteAcknowledge (m : Nat) (s : State) : Host.Outcome State Fault Refusal :=
  .next (match s.arrived m with
    | none => s
    | some x =>
      match x.body with
      | .wack wr =>
        let s := s.drop m
        match s.unacked.find? fun u => u.num == wr with
        | none => s
        | some u =>
          { s.dirDrop u.line [dieOf x.src] with
            unacked := s.unacked.map fun y => if y.num = wr then { y with left := y.left - 1 } else y }
      | _ => s)

/-- A store of the durable window becomes persistent, whole (R137); stores to the same bytes keep their order. -/
def execDurablePersist (m : Nat) (s : State) : Host.Outcome State Fault Refusal :=
  .next (match s.arrived m with
    | none => s
    | some x =>
      match x.body with
      | .durable pa bs _ =>
        let earlier := s.net.takeWhile fun y => y.id != m
        let blocked := earlier.any fun y =>
          match y.body with
          | .durable q cs _ => decide (q < pa + bs.length) && decide (pa < q + cs.length)
          | _ => false
        if blocked then s
        else
          let s := s.drop m
          let s := { s with mem := Mem.writeN s.mem pa bs }
          s.checkRoot x.org.bind x.org.root
      | _ => s)

/-- The reply to an access reaches its thread, and the answer to a bulk transfer its requester (R29, R413); a flit with a reserved TYPE or
SPACE is discarded and counted as a header error. -/
def execMemoryReply (m : Nat) (s : State) : Host.Outcome State Fault Refusal :=
  .next (match s.arrived m with
    | none => s
    | some x =>
      match x.body with
      | .answer acc a => (s.drop m).deliver x.org acc a
      | .bulkEnd who line => (s.drop m).transferred who line true x.poisoned
      | .reserved => (s.drop m).modHub fun h => { h with headerErrors := h.headerErrors + 1 }
      | _ => s)

/-- A full/empty request at the owning core (R215 to R217): performed, parked, or refused with a retry; a parked requester waits
with KIND 3 (R254). -/
def execFullEmptyAccess (m : Nat) (s : State) : Host.Outcome State Fault Refusal :=
  .next (match s.arrived m with
    | none => s
    | some x =>
      match x.body with
      | .fe opc pa data =>
        let o := opc % 256
        if (o = 0x5E ∨ o = 0x5F ∨ o = 0x5C ∨ o = 0x61) ∧ s.soloBlocks x.org.core x.org.uid x.org.csc (linesOf pa (if 256 ≤ opc then 64 else 8)) then s
        else
        let s := s.drop m
        let c := x.dst
        if !s.admits c x.ten then s.reply c x.org m (.fault { code := 0x03 })
        else if 256 ≤ opc then
          let s := (List.range 8).foldl (fun s i => ((s.feDo x.org (opc - 256) (pa + 8 * i) data).1).served c (pa + 8 * i)) s
          s.reply c x.org m (.data 0)
        else
          match s.feRequest c x.org m opc pa data with
          | (s, .none) =>
            match s.bound x.org with
            | none => s
            | some _ => s.modThr x.org.core x.org.slot fun t =>
                match t.st with
                | .waiting .reply false =>
                  { t with st := .waiting (.park pa) false, w0 := (Wait.park pa).word0 s.modid c, refusals := 0 }
                | _ => t
          | (s, a) => s.reply c x.org m a
      | _ => s)

/-! ### Commits (R125 to R127) -/

/-- A chunk's request joins those of its arbiter, in order of arrival (R125). -/
def execCommitRequest (m : Nat) (s : State) : Host.Outcome State Fault Refusal :=
  .next (match s.arrived m with
    | none => s
    | some x =>
      match x.body with
      | .commitReq a => { s.drop m with arbs := s.arbs ++ [(a, x)] }
      | _ => s)

/-- A request waits at its arbiter because its notice would reach the solo chunk (R127). -/
def State.requestHeld (s : State) (m : Msg) : Bool :=
  match s.bound m.org with
  | none => false
  | some t =>
    match t.chunk with
    | none => false
    | some ck => s.soloBlocks m.org.core m.org.uid ck.scope ck.writes

/-- The grant of a request is under way: its chunk has been performed, and its notices are not all delivered (R125). -/
def State.releasing (s : State) (m : Msg) : Bool := (s.bound m.org).any fun t => t.outgoing.isSome

/-- The request of an arbiter that may be granted now (R125 to R127): the one whose grant is under way; otherwise the oldest of those
that the solo token does not hold up, unless a notice for its own chunk is on its way. -/
def State.grantable (s : State) (a : Nat) : Option Msg :=
  match s.arbs.find? fun x => x.1 == a && s.releasing x.2 with
  | some (_, m) => if s.notifying m.org.uid then none else some m
  | none =>
    match s.arbs.find? fun x => x.1 == a && !s.requestHeld x.2 with
    | none => none
    | some (_, m) => if s.noticePending m.org then none else some m

/-- The requests that the solo token holds up give up the lines that they had invalidated (R108, R127): the solo chunk may load them. -/
def State.yieldLines (s : State) (a : Nat) : State :=
  (s.arbs.filter fun x => x.1 == a && s.requestHeld x.2).foldl (fun s x => s.unlock x.2.org.uid) s

/-- A granted chunk is performed once the banks of other dies have lost its lines (R108) and its bulk writes are through (R413); then,
with its notices delivered, its held effects are released, and the thread goes on (R125). -/
def State.granted (s : State) (m : Msg) (t : Thread) : State :=
  let o := m.org
  let done := fun (s : State) => (({ s with arbs := s.arbs.filter fun x => x.2.id != m.id }).wake o.core o.slot).checkRoot t.bind t.root
  match t.chunk with
  | none => done (s.releaseHeld o.core o.slot)
  | some ck =>
    match s.toClear o.core ck, s.farLines o.core t.uid ck with
    | [], [] =>
      let u := s.commit o.core o.slot
      if u.notifying t.uid then u else done u
    | cl, far =>
      let s := cl.foldl (fun s x => s.clearFor o x.1 x.2) s
      far.foldl (fun s a => s.askLine t.uid o (bindTen t.bind) a) s

/-- An arbiter grants its requests one at a time (R125). -/
def execCommitGrant (a : Nat) (s : State) : Host.Outcome State Fault Refusal :=
  .next (let s := s.yieldLines a
    match s.grantable a with
    | none => s
    | some m =>
      match s.bound m.org with
      | none => { s with arbs := s.arbs.filter fun x => x.2.id != m.id }
      | some t => s.granted m t)

/-- A notice's lines meet a chunk's signatures (R124, R126). -/
def meets (ck : Chunk) (lines : List Nat) : Bool :=
  ck.lines.any fun l => lines.any fun x => Config.lineHash l % 512 == Config.lineHash x % 512

/-- A commit notice reaches a chunk, which is squashed where its signatures meet the write list (R126). -/
def execCommitNotice (m : Nat) (s : State) : Host.Outcome State Fault Refusal :=
  .next (match s.arrived m with
    | none => s
    | some x =>
      match x.body with
      | .notice k uid lines =>
        let s := s.drop m
        match s.thr x.dst k with
        | none => s
        | some t =>
          match t.chunk with
          | none => s
          | some ck => if t.uid = uid ∧ !t.solo ∧ meets ck lines then s.squashChunk x.dst k true else s
      | _ => s)

/-- A request for the solo token joins the hub's queue (R127). -/
def execSoloTokenRequest (m : Nat) (s : State) : Host.Outcome State Fault Refusal :=
  .next (match s.arrived m with
    | none => s
    | some x =>
      match x.body with
      | .tokenReq =>
        let s := s.drop m
        match s.bound x.org with
        | none => s
        | some _ => s.modHub fun h => { h with tokenQ := h.tokenQ ++ [slotKey x.org.core x.org.slot] }
      | _ => s)

/-- The hub grants the solo token to the oldest request (R127); a thread that waits for it no more is passed over. -/
def execSoloTokenGrant (s : State) : Host.Outcome State Fault Refusal :=
  .next (match s.hub.token, s.hub.tokenQ with
    | none, k :: r =>
      let s := s.modHub fun h => { h with tokenQ := r }
      match Tab.find s.threads k with
      | some t =>
        match t.st with
        | .waiting .token _ => (s.modHub fun h => { h with token := some k }).modThr (k / 16) (k % 16) fun t => { t with solo := true }
        | _ => s
      | none => s
    | _, _ => s)

end Sys2Proof.Machine
end

