-- ==== Sys2Proof/Machine/EvNet.lean ====
section
/-! DEFINITION. Events of messages between cores: posts, remote calls, channels, migrations, barriers, their refusals and resends
(R225 to R252, R389), the wait watchdog (R255). -/

namespace Sys2Proof.Machine

/-! ### Refusals, holds, resends -/

/-- A completion notice is for a barrier as saved rather than as it stands (R252, R389): the saved one has forwarded to the notice's
sender, and the present one has not. -/
def SavedCore.awaits (v : SavedCore) (s : State) (x : Msg) : Bool :=
  match x.body with
  | .barNote b =>
    let up := fun (y : Barrier) => y.pend && y.upCore == x.src
    up (Tab.findD v.img.bars b {}) && !up (s.bar x.dst b)
  | _ => false

/-- A message is for the inbox or the barriers of a core as they were saved: it is held until the restore (R228, R252, R389). -/
def State.savedUnder (s : State) (x : Msg) : Bool :=
  s.hub.launches.any fun l => l.saved.any fun v => v.core == x.dst && v.whole && (decide (x.id < v.mark) || v.awaits s x)

/-- A message is dropped with a record for its sender, who parks at its next boundary (R226, R231, R459); while no place for the
record is free, it is offered again. A peer module's message is answered there (assumption log 63). -/
def State.dropWith (s : State) (x : Msg) (f : FaultInfo) : State :=
  if x.org.away.isSome then s.drop x.id
  else if s.recordsFull x.org.core then s.again x.id
  else ((s.drop x.id).parkLater x.org f).checkRoot x.org.bind x.org.root

/-- A refusal by a full queue (R226, R231): the message is offered again, until its refusals reach the sender's retry limit; a
peer module's message is offered again by that module (assumption log 63). -/
def State.refuseFull (s : State) (x : Msg) (f : Nat → FaultInfo) : State :=
  let n := x.refusals + 1
  if x.org.away.isSome then s.drop x.id
  else if s.retryLimit x.org.core ≤ n then s.dropWith x { f n with code := 0x08 }
  else s.modMsg x.id fun y => { y with refusals := n, stage := .wait (s.cycle + 64) }

/-- A waiting message is offered again: over the fabric, or at once where it crosses none. -/
def State.offer (s : State) (x : Msg) : State :=
  if s.direct x then s.modMsg x.id fun y => { y with stage := .arrived, held := false }
  else
    (s.modMsg x.id fun y => { y with stage := .flits, left := x.body.flits, held := false, born := s.cycle }).toFabric x

/-- The message, if it waits and its time has come. -/
def State.due (s : State) (m : Nat) : Option Msg :=
  match s.msg m with
  | none => none
  | some x =>
    match x.stage with
    | .wait n => if n ≤ s.cycle then some x else none
    | _ => none

/-- A context leaves the port that held it (R241), and its basket's transfers have served. -/
def State.offPort (s : State) (c m : Nat) : State := (s.modCore c fun k => { k with port := k.port.filter fun i => i != m }).usedUp m

/-- The message is a context on its way. -/
def Body.isContext : Body → Bool
  | .context _ => true
  | .routeIn _ => true
  | .routedBack _ => true
  | .rrow _ => true
  | _ => false

/-- The record of a refused message (R226, R231): a post's value, or the opcode, beside the target word and the count. -/
def Body.refusal (b : Body) (n : Nat) : FaultInfo :=
  match b with
  | .post _ v opc t =>
    if opc = 0x81 ∨ opc = 0x83 then { code := 0x03, addr := t, aux0 := BitVec.ofNat 64 opc, aux1 := BitVec.ofNat 64 n }
    else { code := 0x03, addr := t, aux0 := v, aux1 := BitVec.ofNat 64 n }
  | .callat _ _ t => { code := 0x03, addr := t, aux0 := 0x82, aux1 := BitVec.ofNat 64 n }
  | .chan _ _ _ t _ => { code := 0x03, addr := t, aux0 := 0x84, aux1 := BitVec.ofNat 64 n }
  | .chctl _ blk t => { code := 0x03, addr := t, aux0 := if blk then 0x85 else 0x86, aux1 := BitVec.ofNat 64 n }
  | _ => { code := 0x03, aux0 := 0x80, aux1 := BitVec.ofNat 64 n }

/-- The record of a message refused for another reason than a full queue (R231); a join's post carries no count there (R234). -/
def Msg.outright (x : Msg) : FaultInfo :=
  match x.body with
  | .post _ _ 0x81 _ => x.body.refusal 0
  | b => b.refusal x.refusals

/-! ### Posts (R225, R226) -/

/-- An older unaccepted post of the same core, or of the same thread from wherever it was, stands before this one for the same register
(R226). -/
def State.postBehind (s : State) (x : Msg) (i : Nat) : Bool :=
  (s.net.takeWhile fun y => y.id != x.id).any fun y =>
    match y.body with
    | .post j _ _ _ =>
      (y.src == x.src || (y.org.uid == x.org.uid && y.org.away == x.org.away && x.org.uid != 0)) && y.dst == x.dst && y.dmod == x.dmod && j == i
    | _ => false

/-- A message is a post that such an older one still holds back on its core. -/
def State.heldPost (s : State) (x : Msg) : Bool :=
  match x.body with
  | .post i _ _ _ => s.postBehind x i
  | _ => false

/-- The thread of a core that has waited longest in take of a register. -/
def State.taker (s : State) (c i : Nat) : Option Nat :=
  (List.range 16).foldl (fun b k =>
    match s.thr c k with
    | some t =>
      match t.st with
      | .waiting (.take j) false =>
        if j = i then
          match b with
          | some q =>
            match s.thr c q with
            | some u => if t.since < u.since then some k else b
            | none => some k
          | none => some k
        else b
      | _ => b
    | none => b) none

/-- An inbox register takes a value (R226, R227): the thread that has waited longest in take receives it. -/
def State.inboxPut (s : State) (c i : Nat) (v : Word) : State :=
  match s.taker c i with
  | some k => (s.modThr c k fun t => { t with acc := some { id := 0, addr := 0, since := s.cycle, ans := .data v.toNat } }).wake c k
  | none => s.modCore c fun q => { q with inbox := Tab.put q.inbox i v }

/-- A post arrives (R226, R234, R236). -/
def execPostArrival (m : Nat) (s : State) : Host.Outcome State Fault Refusal :=
  .next (match s.arrived m with
    | none => s
    | some x =>
      match x.body with
      | .post i v opc t =>
        if s.postBehind x i then s
        else if s.holds x.org.bind x.dst || s.savedUnder x then s.hold m
        else if !s.admits x.dst x.ten ∨ (opc = 0x81 ∧ 2 ^ 25 ≤ t.toNat) then
          s.dropWith x x.outright
        else if (Tab.find (s.core x.dst).inbox i).isSome then s.refuseFull x x.body.refusal
        else ((s.drop m).inboxPut x.dst i v).checkRoot x.org.bind x.org.root
      | _ => s)

/-- A refused message is offered again after 64 cycles (R226, R231, R297); a fork to the own deque as well. -/
def execMessageResend (m : Nat) (s : State) : Host.Outcome State Fault Refusal :=
  .next (match s.due m with
    | none => s
    | some x =>
      if x.held ∨ x.body.isContext then s
      else
        match x.body with
        | .fork t =>
          if s.holds x.org.bind x.dst then s.again m
          else if !s.admits x.dst x.ten then s.dropWith x (x.body.refusal x.refusals)
          else if (s.core x.dst).deque.length < 256 then (s.drop m).modCore x.dst fun k => { k with deque := k.deque ++ [t] }
          else s.refuseFull x x.body.refusal
        | .barFwd _ _ _ => s
        | .chan _ _ _ _ true => s
        | .walk _ _ _ _ => s
        | _ => s.offer x)

/-- A message that was answered with a hold is offered again (R389). -/
def execHoldResend (m : Nat) (s : State) : Host.Outcome State Fault Refusal :=
  .next (match s.due m with
    | none => s
    | some x => if x.held then s.offer x else s)

/-! ### Remote calls and channels (R235, R237, R238) -/

/-- A remote call arrives (R235): it enters the queue of 64 entries with its reply link. -/
def execCallatArrival (m : Nat) (s : State) : Host.Outcome State Fault Refusal :=
  .next (match s.arrived m with
    | none => s
    | some x =>
      match x.body with
      | .callat t link _ =>
        if s.holds x.org.bind x.dst then s.hold m
        else if !s.admits x.dst x.ten then s.dropWith x (x.body.refusal x.refusals)
        else if 64 ≤ (s.core x.dst).remote.length then s.refuseFull x x.body.refusal
        else
          ((s.drop m).grantFor x.dst t.bind).modCore x.dst fun k => { k with remote := k.remote ++ [(t, some link)] }
      | _ => s)

/-- A channel of a core. -/
def State.chan (s : State) (c ch : Nat) : Chan := Tab.findD (s.core c).chans ch {}
/-- The state with a channel changed. -/
def State.modChan (s : State) (c ch : Nat) (f : Chan → Chan) : State :=
  s.modCore c fun k => { k with chans := Tab.put k.chans ch (f (Tab.findD k.chans ch {})) }

/-- A channel message arrives (R237, R377): accepted while EN is 1 and fewer than four are pending; on an office core it is a
launch submission, which the intake takes up. A message that meets both refusals, with four pending and EN 0 or another TEN, is dropped
with 0x03: DESIGN CHOICE (assumption log 89), R237 gives them no order. -/
def execChannelMessageArrival (m : Nat) (s : State) : Host.Outcome State Fault Refusal :=
  .next (match s.arrived m with
    | none => s
    | some x =>
      match x.body with
      | .chan ch t pri _ host =>
        let h := s.chan x.dst ch
        if host then
          if !s.isOffice x.dst ∨ !h.en ∨ h.ten ≠ x.ten then s.drop m
          else if 4 ≤ h.pend.length then s.again m
          else
            let s := (s.drop m).modChan x.dst ch fun h => { h with pend := h.pend ++ [(t, pri)] }
            s.send { id := 0, src := 16384, dst := 16384, dmod := s.modid, ten := x.ten,
                     body := .launch t.a0 x.ten h.cls (some (32 * x.dst + ch)) }
        else if s.holds x.org.bind x.dst then s.hold m
        else if !s.admits x.dst x.ten ∨ !h.en ∨ h.ten ≠ x.ten then s.dropWith x (x.body.refusal x.refusals)
        else if 4 ≤ h.pend.length then s.refuseFull x x.body.refusal
        else ((s.drop m).grantFor x.dst t.bind).modChan x.dst ch fun h => { h with pend := h.pend ++ [(t, pri)] }
      | _ => s)

/-- A change of a channel's BLK arrives (R238). -/
def execChannelControlArrival (m : Nat) (s : State) : Host.Outcome State Fault Refusal :=
  .next (match s.arrived m with
    | none => s
    | some x =>
      match x.body with
      | .chctl ch blk _ =>
        if s.holds x.org.bind x.dst then s.hold m
        else if !s.admits x.dst x.ten ∨ (s.chan x.dst ch).ten ≠ x.ten then s.dropWith x (x.body.refusal x.refusals)
        else ((s.drop m).modChan x.dst ch fun h => { h with blk := blk }).checkRoot x.org.bind x.org.root
      | _ => s)

/-! ### Migration (R239 to R241) -/

/-- The die of a routing engine's agent number. -/
def engineDie (a : Nat) : Option Nat := if 16385 ≤ a ∧ a < 16389 then some (a - 16385) else none

/-- The local memory against which a basket is checked (R240, R241, R378): of the grant that the core holds, or would take. -/
def State.basketLimit (s : State) (c : Nat) (bind : Word) : Nat :=
  match (s.core c).grant with
  | some g => min g.lmem Config.localBytes
  | none =>
    match s.launchOf bind with
    | some l => min l.lmem Config.localBytes
    | none => 0

/-- A context enters a receive frame: the core takes its launch's grant, the basket's bytes are written (R240, R378), poisoned where one of
its flits was (R418). -/
def State.intoFrame (s : State) (c : Nat) (o : Origin) (x : Context) : State :=
  let s := s.grantFor c x.bind
  let pa := Config.localBase + c * Config.localBytes + x.basketOff
  let s := s.perform o none pa x.basket
  let s := if x.bad then { s with poison := (sectorsIn pa x.basket.length).foldl insertNat s.poison } else s
  s.modCore c fun k => { k with frames := k.frames ++ [{ x with basket := [], bad := false }] }

/-- A context that its destination refuses goes back to a receive frame of its source (R241), or to the routing engine that sent
it (R348). While the refusing core's port holds 16 contexts, it is not refused yet and is offered again. -/
def State.sendBack (s : State) (x : Msg) (ctx : Context) (why : Nat) : State :=
  if s.portFull x.dst then s.again x.id else
  let s := (s.drop x.id).offPort x.src x.id
  match engineDie x.src, ctx.route with
  | some _, some _ => s.send { id := 0, src := x.dst, dst := x.src, dmod := s.modid, ten := x.ten, org := x.org, body := .routedBack ctx }
  | _, _ =>
    let f : FaultInfo := { code := 0x10, addr := ctx.target, aux0 := BitVec.ofNat 64 why }
    let id := s.fresh
    let s := s.modCore x.dst fun k => { k with port := k.port ++ [id] }
    s.send { id := 0, src := x.dst, dst := x.org.core, dmod := x.org.away.getD s.modid, ten := x.ten, org := x.org,
             body := .context { ctx with fault := some f, basket := [] } }

/-- A token goes to a receive frame of its home core (R348, R350, R354), with OUT where it was not placed. -/
def State.sendHome (s : State) (d : Nat) (ctx : Context) (out : Nat) : State :=
  match ctx.route with
  | none => s
  | some r =>
    let o : Origin := { core := r.home, uid := ctx.uid, pc := ctx.pc, bind := ctx.bind, root := ctx.root }
    s.send { id := 0, src := engineOf d, dst := r.home, dmod := s.modid, ten := bindTen ctx.bind, org := o,
             body := .context { ctx with route := some { r with out := out }, basket := [] } }

/-- The contexts that a transaction slot holds (R347). -/
def Txn.contexts (t : Txn) : List Context := (t.lists.flatMap fun l => l.2.1) ++ t.out.flatMap fun b => b.toks

/-- A transaction's end is told to every owner core that headers went to (R348), and its waiters are answered (R351). -/
def State.endTxn (s : State) (d t : Nat) (x : Word) (answer : Nat) : State :=
  let tx := s.txn d t x
  let s := s.modTxn d t x fun y => { y with lists := [], out := [], rows := [], badRows := [], waiters := [], owners := [] }
  let s := tx.owners.foldl (fun s c =>
    s.send { id := 0, src := engineOf d, dst := c % 16384, dmod := c / 16384, ten := t, body := .txEnd x }) s
  tx.waiters.foldl (fun s w => s.reply (engineOf d) w.1 w.2 (.data answer)) s

/-- An abort with its reason (R352): the staging is discarded, the waiters receive 1, the tokens that the engine holds go home
unplaced with OUT 2. -/
def State.abortTxn (s : State) (d t : Nat) (x : Word) (reason : Nat) : State :=
  let tx := s.txn d t x
  if tx.state ≠ 1 then s
  else
    let s := s.modTxn d t x fun y => { y with state := 2, reason := reason }
    let s := s.endTxn d t x 1
    tx.contexts.foldl (fun s c => s.sendHome d c 2) s

/-- The commit of a transaction whose condition is met (R351, R355): every staged row is written, with the full/empty bits as they
are, and every waiter receives 0. A token that the engine still holds goes home unplaced, OUT 1: DESIGN CHOICE (assumption log 76). -/
def State.tryCommit (s : State) (d t : Nat) (x : Word) : State :=
  let tx := s.txn d t x
  if tx.state = 1 ∧ tx.n ≠ 0 ∧ tx.wait = tx.n ∧ tx.ack = tx.sent then
    let o : Origin := { core := 4096 * d, slot := 16, bind := BitVec.ofNat 64 (t * 2 ^ 26) }
    let s := tx.rows.foldl (fun s r => s.perform o none r.1 r.2) s
    let s := ({ s with poison := tx.badRows.foldl insertNat s.poison } : State).modTxn d t x fun y => { y with state := 0 }
    tx.contexts.foldl (fun s c => s.sendHome d c 1) (s.endTxn d t x 0)
  else s

/-- A routed context that an owner accepts from its engine counts into the SENT of its transaction, which may meet the commit condition; a
count above 65,535 aborts (R348, R351). -/
def State.countSent (s : State) (x : Msg) (ctx : Context) : State :=
  match engineDie x.src, ctx.route with
  | some d, some r =>
    if r.out = 0 ∧ (s.txn d x.ten r.x).seq = txSeq r.x then
      let s := s.modTxn d x.ten r.x fun t => { t with sent := t.sent + 1 }
      if 65535 < (s.txn d x.ten r.x).sent then s.abortTxn d x.ten r.x 4 else s.tryCommit d x.ten r.x
    else s
  | _, _ => s

/-- A context that finds the frames full stays at its port (R241); a token of a launch that is being stopped, which its engine still
holds, goes home with OUT 2 (R354). -/
def State.keptAtPort (s : State) (x : Msg) (ctx : Context) : State :=
  match engineDie x.src, ctx.route with
  | some d, some r => if r.out = 0 ∧ s.frozen ctx.bind then ((s.drop x.id).usedUp x.id).sendHome d ctx 2 else s.again x.id
  | _, _ => s.again x.id

/-- A migrated context arrives, once its basket has (R240, R241): held, refused outright, kept at the source's port while the frames are full,
or accepted. A routed one counts into SENT (R348). A token that its engine returns unplaced has no other core to go to: while its home core
admits its tenant no more, it waits (R33; assumption log 18). -/
def execMigrationArrival (m : Nat) (s : State) : Host.Outcome State Fault Refusal :=
  .next (match s.arrived m with
    | none => s
    | some x =>
      match x.body with
      | .context ctx =>
        let unplaced := (engineDie x.src).isSome && ctx.route.any fun r => r.out != 0
        if ctx.fault.isSome ∨ !s.basketHere x ctx then s
        else if s.holds ctx.bind x.dst then s.hold m
        else if !s.admits x.dst x.ten then (if unplaced then s.again m else s.sendBack x ctx 2)
        else if ctx.basket ≠ [] ∧ s.basketLimit x.dst ctx.bind < ctx.basketOff + ctx.basket.length then s.sendBack x ctx 3
        else if 32 ≤ (s.core x.dst).frames.length then s.keptAtPort x ctx
        else
          let s := ((s.drop m).offPort x.src m).intoFrame x.dst x.org { ctx with bad := ctx.bad || s.basketBad x ctx }
          s.countSent x ctx
      | _ => s)

/-- A context that a port holds is offered again after 64 cycles, without limit (R241, R347). -/
def execMigrationResend (m : Nat) (s : State) : Host.Outcome State Fault Refusal :=
  .next (match s.due m with
    | none => s
    | some x => if x.body.isContext && !x.held then s.offer x else s)

/-- A refused context comes back to a receive frame of its source (R241); it parks when it is next bound. While the source admits its
tenant no more, it waits at the port that holds it (R33; assumption log 18). -/
def execMigrationRefusedReturn (m : Nat) (s : State) : Host.Outcome State Fault Refusal :=
  .next (match s.arrived m with
    | none => s
    | some x =>
      match x.body with
      | .context ctx =>
        if ctx.fault.isNone then s
        else if s.holds ctx.bind x.dst then s.hold m
        else if !s.admits x.dst x.ten then s.again m
        else if 32 ≤ (s.core x.dst).frames.length then s.again m
        else ((s.drop m).offPort x.src m).intoFrame x.dst x.org ctx
      | _ => s)

/-! ### Barriers (R248, R251) -/

/-- An arrival at a barrier, of a thread or forwarded by a child (R248): a thread's refused arrival is answered with a retry, a
forwarded one is held by the child's core. -/
def execBarrierArrival (m : Nat) (s : State) : Host.Outcome State Fault Refusal :=
  .next (match s.arrived m with
    | none => s
    | some x =>
      match x.body with
      | .barArr b =>
        if s.holds x.org.bind x.dst || s.savedUnder x then s.hold m
        else
          let s := s.drop m
          if !s.admits x.dst x.ten then s.reply x.dst x.org m (.fault { code := 0x03 })
          else
            match s.barArrive x.dst b none with
            | some (s, q) => s.reply x.dst x.org m (.data q)
            | none => s.reply x.dst x.org m .retry
      | .barFwd b cc cb =>
        if s.savedUnder x then s.hold m
        else
        match (s.drop m).barArrive x.dst b (some (cc, cb)) with
        | some (s, _) => s
        | none => s.again m
      | _ => s)

/-- A completion notice runs complete() at the barrier it names (R248). -/
def execBarrierCompletionNotice (m : Nat) (s : State) : Host.Outcome State Fault Refusal :=
  .next (match s.arrived m with
    | none => s
    | some x =>
      match x.body with
      | .barNote b => if s.savedUnder x then s.hold m else (s.drop m).barComplete x.dst b
      | _ => s)

/-- A refused forwarded arrival is offered again after 64 cycles, without limit (R248). -/
def execBarrierForwardResend (m : Nat) (s : State) : Host.Outcome State Fault Refusal :=
  .next (match s.due m with
    | none => s
    | some x =>
      match x.body with
      | .barFwd _ _ _ => if x.held then s else s.offer x
      | _ => s)

/-! ### The wait watchdog (R227, R255) -/

/-- The bundle at a thread's program counter, zero where it cannot be fetched. -/
def State.bundleAt (s : State) (c : Nat) (t : Thread) : Word × Word :=
  match s.translate c (bindTen t.bind) t.pc.toNat .exec with
  | .pa pa => (s.mem64 pa, s.mem64 (pa + 8))
  | _ => (0, 0)

/-- A bound thread as the origin of a record at its program counter. -/
def State.originAt (s : State) (c k : Nat) (t : Thread) : Origin :=
  let (a, v) := s.bundleAt c t
  { core := c, slot := k, uid := t.uid, pc := t.pc, a := a, v := v, bind := t.bind, root := t.root, ftgt := t.ftgt }

/-- The watchdog of a wait in take or barwait expires (R227, R255): the thread parks with code 0x09; an event of the same cycle has
won. -/
def execWaitWatchdogExpiry (c k : Nat) (s : State) : Host.Outcome State Fault Refusal :=
  .next (match s.thr c k with
    | none => s
    | some t =>
      let timed : Bool := match t.st with
        | .waiting (.take _) false => true
        | .waiting (.bar _ _) false => true
        | _ => false
      if timed ∧ t.since + (s.core c).watchdog ≤ s.cycle ∧ !s.recordsFull c then
        let f : FaultInfo := { code := 0x09, aux0 := t.w0, aux1 := t.w1 }
        (s.withdraw c k).park c k (recordOf (s.originAt c k t) f false s.cycle)
      else s)

end Sys2Proof.Machine
end

