-- ==== Sys2Proof/Machine/EvEngine.lean ====
section
/-! DEFINITION. Events of the engines: vector, matrix, latch path and copy commands start, go on and complete (R84 to R91, R262,
R287 to R297). -/

namespace Sys2Proof.Machine

/-! ### Vector and copy commands -/

/-- The command at the head of the vector engine (R262). -/
def State.vectorHead (s : State) (c : Nat) : Option Cmd :=
  (s.core c).cmds.find? fun x => x.eng == .vector && x.halted.isNone

/-- The vector engine starts the command at its head, one at a time, in order of issue, and goes on with it run by run (R261, R262): a
pre-emption stop finds it at the cursor between two runs. -/
def execVectorCommandStart (c : Nat) (s : State) : Host.Outcome State Fault Refusal :=
  .next (match s.vectorHead c with
    | none => s
    | some x =>
      if s.mayRun c x ∧ !s.coreFrozen c then
        let (s, x) := s.beginCmd x 0
        s.runWork c x (vWork c x) (State.haltAtElem c)
      else s)

/-- A vector command completes (R262): its flags and its tag. -/
def execVectorCommandComplete (c : Nat) (s : State) : Host.Outcome State Fault Refusal :=
  .next (match s.vectorHead c with
    | none => s
    | some x => if x.done then s.retire c x else s)

/-- The q-th command of the copy engine, which performs both of its entries at once (R288). -/
def State.copyAt (s : State) (c q : Nat) : Option Cmd :=
  ((s.core c).cmds.filter fun x => x.eng == .copy && x.halted.isNone)[q]?

/-- A copy command of a thread; a shelf fill is none (R357). -/
def Cmd.ofThread (x : Cmd) : Bool :=
  match x.instr with
  | .shelfFill _ => false
  | _ => true

/-- A copy command starts, and goes on run by run (R288, R310). -/
def execCopyCommandStart (c q : Nat) (s : State) : Host.Outcome State Fault Refusal :=
  .next (match s.copyAt c q with
    | none => s
    | some x =>
      if x.ofThread ∧ s.mayRun c x ∧ !s.coreFrozen c then
        match (if x.started then Eng.ok s x.lim else s.copyStart c x) with
        | .ok s n =>
          let (s, x) := s.beginCmd x n
          s.runWork c x (copyWork c x) (State.haltAtElem c)
        | .page s d va k => s.pageFor c x d va k
        | .far s l => s.askFor (x.ctx c) l
        | .fault s _ f => if s.recordsFull x.org.core then s else State.haltAtElem c s x 0 f
      else s)

/-- A copy command completes (R116). -/
def execCopyCommandComplete (c q : Nat) (s : State) : Host.Outcome State Fault Refusal :=
  .next (match s.copyAt c q with
    | none => s
    | some x => if x.ofThread ∧ x.done then s.retire c x else s)

/-! ### The matrix datapath -/

/-- A command that runs on the datapath of the core it stands on: an mmar runs at its target (R287, R288). -/
def Cmd.onDatapath (x : Cmd) : Bool :=
  x.eng == .matrix && (match x.instr with
    | .mmar _ => false
    | _ => true)

/-- The latch a command reads is FULL (R293); a command on an empty region reads none (R114). -/
def State.latchReady (s : State) (c : Nat) (x : Cmd) : Bool :=
  match x.latchNo with
  | none => true
  | some l => (s.latch c l).st == .full || anyEmpty [x.sd, x.sa]

/-- The checks of a latch operand when its command starts (R291): the fault's code. -/
def State.latchFault (s : State) (c : Nat) (x : Cmd) (f : VF) : Option Nat :=
  match latchSrc f with
  | none => none
  | some l =>
    let h := (s.latch c l).recd
    if shE h 0 ≠ shE x.sa 0 ∨ shE h 1 ≠ shE x.sd 0 then some 0x11
    else if !pairOk (accAF x.sd) (shFmt x.sa) (shFmt h) ∨ (f.u ∧ shFmt x.sa ≠ 1 ∧ shFmt h ≠ 1) then some 0x01
    else none

/-- The checks of a segment's B region (R298): the base's format and extents as those of a memory operand, its place in device or
local memory. -/
def State.segFault (s : State) (c : Nat) (x : Cmd) (f : VF) (base : Word) : Option Nat :=
  let h := setFld x.sb 0 64 (base.setWidth 256)
  if !shLegal h false false || !pairOk (accAF x.sd) (shFmt x.sa) (shFmt h) || (f.u && shFmt x.sa != 1 && shFmt h != 1) then some 0x01
  else
    match s.regionOn c (bindTen x.org.bind) h false false false with
    | .error e => some e
    | .ok r =>
      match r.sp with
      | .virt _ => if wholeBlocks h then none else some 0x11
      | .loc _ _ => if wholeBlocks h then none else some 0x11
      | _ => some 0x03

/-- The rows of an mseg's table from its s-th on (R298); none where a field that must be zero is not, or ROWS is 0. -/
def segRows (t : Nat → Nat) : Nat → Nat → Option (List (Word × Nat))
  | 0, _ => some []
  | n + 1, s =>
    let b := t (2 + 2 * s)
    let r := t (3 + 2 * s)
    if r = 0 ∨ 2 ^ 16 ≤ r then none else (segRows t n (s + 1)).map fun l => (BitVec.ofNat 64 b, r) :: l

/-- The segment table of an mseg, read when the command starts (R298): the fault, or the segments. -/
def State.readSegs (s : State) (c : Nat) (x : Cmd) (f : VF) : Eng (List (Word × Nat)) :=
  (s.engRead (x.ctx c) x.pb 4112).then fun s bs =>
    let t := fun (i : Nat) => natOfBytes ((bs.drop (8 * i)).take 8)
    let bad : FaultInfo := { code := 0x03, addr := x.gs }
    if t 0 = 0 ∨ 256 < t 0 ∨ t 1 ≠ 0 then .fault s 0 bad
    else
      match segRows t (t 0) 0 with
      | none => .fault s 0 bad
      | some l =>
        if l.foldl (fun a y => a + y.2) 0 ≠ shE x.sa 1 then .fault s 0 bad
        else
          match l.findSome? fun y => (s.segFault c x f y.1).map fun e => (e, y.1) with
          | some (e, b) => .fault s 0 { code := e, addr := b }
          | none => .ok s l

/-- A K3 operand of an mma, mmar or mseg (R62): one in memory or in the latch is known when the command starts, and a segment's once the
table is read. -/
def State.substAt (s : State) (c : Nat) (x : Cmd) : Bool :=
  x.k3 || (match x.latchNo with
    | some l => shFmt (s.latch c l).recd == 14
    | none => x.segs.any fun y => fld y.1 60 4 == 14)

/-- A matrix command has begun: with a K3 operand SUBST is set in its thread (R62), before a block of it is read, on this core at once, and
from another core with the notice of its end (R297): DESIGN CHOICE (assumption log 80). -/
def State.mmaBegin (s : State) (c : Nat) (x : Cmd) : State :=
  let x := { x with started := true }
  let s := s.usedUp x.id
  if s.substAt c x then
    if x.from_.isNone then (s.markSubst x.org).modCmd c x.id fun _ => x
    else s.modCmd c x.id fun _ => { x with flags := orFl x.flags flSUBST }
  else s.modCmd c x.id fun _ => x

/-- An mma, accepted mmar or mseg starts (R291, R298): on an empty region it makes no access and is done (R114). One that goes on after a
stop or a resumed check is not read again. -/
def State.mmaStart (s : State) (c : Nat) (x : Cmd) (f : VF) : State :=
  if anyEmpty ([x.sd, x.sa] ++ (if x.latchNo.isNone then [x.sb] else [])) then
    s.modCmd c x.id fun y => { y with started := true, done := true }
  else
    match s.latchFault c x f with
    | some e => s.faultMatrix c x { code := e }
    | none =>
      match x.instr with
      | .mseg _ =>
        if x.segs ≠ [] then s.mmaBegin c x
        else
          match s.readSegs c x f with
          | .ok s l => s.mmaBegin c { x with segs := l }
          | .far s l => s.askFor (x.ctx c) l
          | .page s d va k => s.pageFor c x d va k
          | .fault s _ e => s.faultMatrix c x e
      | _ => s.mmaBegin c x

/-- The command of the datapath that is in progress. -/
def State.datapath (s : State) (c : Nat) : Option Cmd :=
  (s.core c).cmds.find? fun x => x.onDatapath && x.started && x.halted.isNone

/-- The oldest datapath command whose footprint waits and latch waits are met (R288). -/
def State.datapathNext (s : State) (c : Nat) : Option Cmd :=
  (s.core c).cmds.find? fun x => x.onDatapath && s.mayStart c x && s.latchReady c x && !s.coreFrozen c

/-- A macc or mclr goes on by a run of its elements (R300, R301, R303). -/
def State.accRun (s : State) (c : Nat) (x : Cmd) (w : Cmd → Job) : State :=
  let (s, x) := s.beginCmd x 0
  s.runWork c x (w x) fun s x _ f => s.haltMatrix c x f

/-- The matrix datapath takes its next command (R288), and goes on with a macc or an mclr. -/
def execMatrixCommandStart (c : Nat) (s : State) : Host.Outcome State Fault Refusal :=
  .next (match (match s.datapath c with
      | some x => if (mfOf x.instr).isNone ∧ s.mayRun c x ∧ !s.coreFrozen c then some x else none
      | none => s.datapathNext c) with
    | none => s
    | some x =>
      match x.instr with
      | .macc f => s.accRun c x fun x => maccWork c x f
      | .mclr _ => s.accRun c x fun x => mclrWork c x
      | .manchor f =>
        let (t, y) := s.beginCmd x 0
        match t.anchorWork c y f with
        | .ok s _ => (s.modCmd c x.id fun _ => { y with started := true, done := true }).usedUp x.id
        | .far s l => s.askFor (x.ctx c) l
        | .page s d va k => s.pageFor c x d va k
        | .fault s _ e => s.faultMatrix c x e
      | i =>
        match mfOf i with
        | some f => s.mmaStart c x f
        | none => s)

/-- A cycle in which the block in hand is fed nothing: its lanes apply the rule of R84 all the same, unless the block may not be written
yet (R334) or has not been reached. -/
def State.idleCycle (s : State) (c : Nat) (x : Cmd) (f : VF) (hold ended : Bool) : State × Cmd :=
  if hold || (!x.begun && x.lanes.isEmpty) then (s, x)
  else
    let (s, x) := s.beginBlock c x f
    let (s, l) := s.cycleLanes c x ended x.lanes
    (s, { x with lanes := l })

/-- The matrix engine of a die above 105 °C issues in every second cycle (R450). -/
def State.feedsNow (s : State) (c : Nat) : Bool := (s.die (dieOf c)).band != 3 || s.cycle % 2 == 0

/-- An uncorrected error of an element of the accumulator store (R302, R451). -/
def accError (c pa : Nat) : FaultInfo := { code := 0x12, addr := (Space.acc c (pa - accAddr c 0)).pointer c }

/-- The element with an uncorrected error of the block that drains behind the one in hand. -/
def State.badBack (s : State) (c : Nat) (x : Cmd) : Option (Back × Nat) :=
  match x.back with
  | none => none
  | some b => if x.fed then none else (s.badElement c (x.onBack b)).map fun pa => (b, pa)

/-- The block in hand is fed its next slice (R80, R83, R84, R92): into its lanes; while the block behind it has yet to be checked, only into
their pans (R334). -/
def State.feedNext (s : State) (c : Nat) (x : Cmd) (f : VF) (hold : Bool) : State :=
  let put := fun (y : State × Cmd) => y.1.modCmd c x.id fun _ => y.2
  match s.blockSlices c x f.u with
  | .page s d va k => (put (s.idleCycle c x f hold false)).pageFor c x d va k
  | .far s l => (put (s.idleCycle c x f hold false)).askFor (x.ctx c) l
  | .fault s _ e =>
    if x.back.isSome then put (s.idleCycle c x f hold false)
    else
      let (s, x) := s.beginBlock c x f
      s.faultMatrix c x e
  | .ok s (as, bs) =>
    if hold then
      match x.collect as bs with
      | none => put (s, x)
      | some y => put (s.usedUp x.id, { y with refused := none })
    else
      let (s, x) := s.beginBlock c x f
      match s.badElement c x with
      | some pa =>
        if x.back.isSome then put (s.idleCycle c x f false false) else s.faultMatrix c x (accError c pa)
      | none =>
        let (s, y) := s.feedSlice c x as bs
        let y := { y with refused := none }
        put (s.usedUp x.id, if y.slice < s.slices c y ∨ y.back.isSome then y else y.nextBlock)

/-- The datapath goes on by one cycle (R80, R83, R84, R87, R92, R292, R334): the block behind drains; the block in hand is fed a slice, or its
lanes go on alone; past its last slice it drains behind the next one. A stop lets both drain and feeds nothing (R88). -/
def execMatrixFeedCycle (c : Nat) (s : State) : Host.Outcome State Fault Refusal :=
  .next (match s.datapath c with
    | none => s
    | some x =>
      match mfOf x.instr with
      | none => s
      | some f =>
        if x.done then s
        else
        match s.badBack c x with
        | some (b, pa) => s.faultBack c x b (x.checks f) (accError c pa)
        | none =>
          let (s, x) := s.drainBack c x f
          let hold := x.checks f && x.back.isSome
          let put := fun (y : State × Cmd) => y.1.modCmd c x.id fun _ => y.2
          if x.spent then put (s, if x.back.isNone then { x with done := true } else x)
          else if s.coreFrozen c then
            if x.back.isSome ∨ lanesEmpty x.lanes then put (s, if lanesEmpty x.lanes then { x with lanes := [] } else x)
            else
              let (s, x) := s.beginBlock c x f
              put (s.idleCycle c x f false true)
          else if x.slice < s.slices c x then
            if x.paged ∨ !s.feedsNow c then put (s.idleCycle c x f hold false) else s.feedNext c x f hold
          else if x.back.isSome then put (s.idleCycle c x f hold true)
          else
            let (s, x) := s.beginBlock c x f
            put (s, x.nextBlock))

/-- The fault of a block with elements that fail their check (R90). -/
def Cmd.checkFault (x : Cmd) (c : Nat) (pm lost : List Nat) : FaultInfo :=
  let low := match pm ++ lost with
    | [] => 0
    | a :: r => r.foldl min a - accAddr c 0
  { code := if lost = [] then 0x06 else 0x07
    addr := BitVec.ofNat 64 (shFmt x.sd * 2 ^ 60 + 0x1F1 * 2 ^ 48 + low)
    aux1 := BitVec.ofNat 64 (pm.length + lost.length * 65536) }

/-- A drained block of a LAST command is checked by its leans (R89 to R91). Where the check halts the command, the pans of the block after it
are emptied without release, and it is fed anew when the command goes on (R334). -/
def execLastBlockCheck (c : Nat) (s : State) : Host.Outcome State Fault Refusal :=
  .next (match s.datapath c with
    | none => s
    | some x =>
      match x.back with
      | none => s
      | some b =>
        if !x.fed ∨ x.done then s
        else
          let (t, pm, lost, sat) := s.checkBlock c (x.onBack b)
          let y := { x with flags := if sat then orFl x.flags flASAT else x.flags }
          if pm = [] ∧ lost = [] then t.modCmd c x.id fun _ => { y with back := none, fed := false }
          else if s.recordsFull x.org.core then s
          else
            let y := { y with lanes := [], slice := 0 }
            (t.modCmd c x.id fun _ => y).haltMatrix c (y.onBack b) (x.checkFault c pm lost))

/-- A matrix command completes (R87, R94, R116): it retires, or, accepted from another core, sends its notice there (R297). -/
def execMatrixCommandComplete (c : Nat) (s : State) : Host.Outcome State Fault Refusal :=
  .next (match s.datapath c with
    | none => s
    | some x =>
      if !x.done then s
      else
        match x.from_ with
        | none => s.retire c x
        | some o =>
          let s := s.modCore c fun k => { k with cmds := k.cmds.filter fun d => d.id != x.id }
          (s.send {
            id := 0, src := c, dst := o, dmod := s.modid, ten := bindTen x.org.bind, org := x.org,
            body := .mmarDone x.peer x.flags (x.flags / 64 % 2 == 1) none }).checkGrant c)

/-! ### The latch path -/

/-- The command at the head of the latch path, which performs one at a time in order of issue (R288). -/
def State.latchHead (s : State) (c : Nat) : Option Cmd :=
  (s.core c).cmds.find? fun x => x.eng == .latch && x.halted.isNone

/-- The core whose mrot leads here (R295). -/
def carouselPrev (c : Nat) : Nat := c / 16 * 16 + (c % 16 + 15) % 16

/-- The latch whose tile the core's mrot is about to send: it is FULL and the mrot may start (R295). -/
def State.sends (s : State) (c : Nat) : Option Nat :=
  match s.latchHead c with
  | none => none
  | some x =>
    match x.instr with
    | .mrot f =>
      let l := f.va.toNat
      if s.mayStart c x ∧ !s.coreFrozen c ∧ (s.latch c l).st = .full then some l else none
    | _ => none

/-- An EMPTY latch takes an inbound transfer before an mld that finds it EMPTY in the same cycle (R293). -/
def State.inbound (s : State) (c l : Nat) : Bool :=
  match s.sends (carouselPrev c) with
  | some k => k == 1 - l
  | none => false

/-- The columns of a B region one after another (R294). -/
def State.readTile (s : State) (x : Cmd) (c : Nat) : Nat → Nat → Eng (List Byte)
  | 0, _ => .ok s []
  | n + 1, j =>
    (s.engRead (x.ctxFor c x.sa) (x.pa.moved (shOff x.sa 0 j 0 0)) (colBytes x.sa)).then fun s b =>
      (State.readTile s x c n (j + 1)).then fun s r => .ok s (b ++ r)

/-- The latch path starts its command once the latches allow (R293 to R295); an mld of an empty region is complete with that (R114), and
mrot.drop empties its latch at once. -/
def execLatchCommandStart (c : Nat) (s : State) : Host.Outcome State Fault Refusal :=
  .next (match s.latchHead c with
    | none => s
    | some x =>
      if !s.mayStart c x ∨ s.coreFrozen c then s
      else
        let begin_ := fun (s : State) => (s.modCmd c x.id fun y => { y with started := true }).usedUp x.id
        match x.instr with
        | .mld f =>
          let l := f.vd.toNat
          if anyEmpty [x.sa] then s.retire c x
          else if (s.latch c l).st ≠ .empty ∨ s.inbound c l then s
          else
            match s.readTile x c (shE x.sa 1) 0 with
            | .far s l => s.askFor (x.ctx c) l
            | .page s d va k => s.pageFor c x d va k
            | .fault s _ e => if s.recordsFull x.org.core then s else s.haltMatrix c x e
            | .ok s bs => begin_ (s.setLatch c l { st := .filling, recd := x.sa, tile := bs })
        | .mrot f =>
          let l := f.va.toNat
          let d := carouselNext c
          if (s.latch c l).st ≠ .full ∨ (s.latch d (1 - l)).st ≠ .empty then s
          else begin_ (s.setLatch d (1 - l) { st := .filling, reserved := true })
        | .mrotDrop f => (s.setLatch c f.va.toNat {}).retire c x
        | _ => s)

/-- An mld's fill ends (R294): the latch is FULL and the command complete. -/
def execLatchFillComplete (c : Nat) (s : State) : Host.Outcome State Fault Refusal :=
  .next (match s.latchHead c with
    | none => s
    | some x =>
      match x.instr with
      | .mld f =>
        if x.started then (s.setLatch c f.vd.toNat { s.latch c f.vd.toNat with st := .full }).retire c x else s
      | _ => s)

/-- The last byte of a transfer has arrived (R295): the neighbour's latch is FULL, the own latch EMPTY. -/
def execMrotTransferComplete (c : Nat) (s : State) : Host.Outcome State Fault Refusal :=
  .next (match s.latchHead c with
    | none => s
    | some x =>
      match x.instr with
      | .mrot f =>
        let l := f.va.toNat
        if x.started then
          ((s.setLatch (carouselNext c) (1 - l) { s.latch c l with reserved := false }).setLatch c l {}).retire c x
        else s
      | _ => s)

/-! ### Matrix commands for another core (R297) -/

/-- The token equals the value of an enabled capability register that holds no 0 (R297, R366). -/
def Core.capable (k : Core) (token : Word) : Bool :=
  let m := fun (w : Word) => w.getLsbD 63 && fld w 0 32 == token.toNat && token != 0
  m k.cap0 || m k.cap1

/-- The remote command slot of a core is busy: a command accepted from another core stands there (R297). -/
def Core.remoteBusy (k : Core) : Bool := k.cmds.any fun x => x.from_.isSome

/-- An mmar is refused (R297, R302): its command halts at the issuer with the record, and is abandoned at RESUME or END. -/
def State.refuseMmar (s : State) (x : Msg) (y : Cmd) (f : FaultInfo) : State :=
  if s.recordsFull x.org.core then s.again x.id
  else (s.drop x.id).haltCmd x.org.core y.id { f with addr := y.gs, aux0 := BitVec.ofNat 64 y.tag }

/-- A matrix command reaches its target core (R297). -/
def execMmarArrival (m : Nat) (s : State) : Host.Outcome State Fault Refusal :=
  .next (match s.arrived m with
    | none => s
    | some x =>
      match x.body with
      | .mmar ten token id =>
        match s.cmd x.org.core id with
        | none => s.drop m
        | some y =>
          let k := s.core x.dst
          let n := x.refusals + 1
          if s.holds x.org.bind x.dst then s.hold m
          else if !k.capable token then s.refuseMmar x y { code := 0x0E, aux1 := 1 }
          else if s.coreTenant x.dst ≠ some ten then s.refuseMmar x y { code := 0x0E, aux1 := 2 }
          else if k.remoteBusy then
            if s.retryLimit x.org.core ≤ n then s.refuseMmar x y { code := 0x08, aux1 := BitVec.ofNat 64 n }
            else s.modMsg m fun z => { z with refusals := n, stage := .wait (s.cycle + 64) }
          else
            let i := match y.instr with
              | .mmar f => .mma f
              | j => j
            let z : Cmd := { y with
              id := s.fresh, instr := i, foots := y.tfoots, held := false, started := false, done := false, from_ := some x.org.core,
              peer := id }
            (s.drop m).bump.modCore x.dst fun q => { q with cmds := q.cmds ++ [z] }
      | _ => s)

/-- The command stands in a saved core (R387). -/
def State.savedCmd (s : State) (c id : Nat) : Bool :=
  s.hub.launches.any fun l => l.saved.any fun v => v.core == c && v.img.cmds.any fun x => x.id == id

/-- A notice of an mmar reaches its issuer (R90, R94, R297): the command retires with its flags, or halts. -/
def execMmarCompletionNotice (m : Nat) (s : State) : Host.Outcome State Fault Refusal :=
  .next (match s.arrived m with
    | none => s
    | some x =>
      match x.body with
      | .mmarDone id fl _ f =>
        match s.cmd x.dst id with
        | none => if s.savedCmd x.dst id then s.hold m else s.drop m
        | some y =>
          match f with
          | none => (s.drop m).retire x.dst { y with flags := orFl y.flags fl }
          | some e =>
            if s.recordsFull x.dst then s
            else
              let s := if fl / 32 % 2 = 1 then s.markSubst x.org else s
              ((s.drop m).modCmd x.dst id fun z => { z with flags := orFl z.flags fl }).haltCmd x.dst id e
      | _ => s)

end Sys2Proof.Machine
end

