-- ==== Sys2Proof/Machine/Fetch.lean ====
section
/-! DEFINITION. Fetching an instruction's bytes (R154, R159, R198): the bundle at a thread's program counter, as the stores that it
need not see yet leave it. -/

namespace Sys2Proof.Machine

/-- A logged store that a thread's fetches do not see: its writer has not fenced at MODULE, or the thread has not entered code
since (R159). -/
def CodeStore.hidden (x : CodeStore) (entered : Nat) : Bool :=
  match x.fenced with
  | none => true
  | some n => decide (entered ≤ n)

/-- The 16 bytes that a thread fetches at a physical address (R159). -/
def State.fetchBytes (s : State) (pa entered : Nat) : List Byte :=
  match s.codeLog.find? fun x => x.addr == pa && x.hidden entered with
  | some x => x.old
  | none => Mem.readN s.mem pa 16

/-- What a fetch comes to. -/
inductive Fetched where
  | words (a v : Word)
  | walk
  | fault (f : FaultInfo)
deriving DecidableEq, Repr

/-- The bundle at the thread's program counter (R154, R159, R198): device memory through the thread's translation. -/
def State.fetch (s : State) (c : Nat) (t : Thread) : Fetched :=
  let pc := t.pc.toNat
  if pc % 16 ≠ 0 then .fault { code := 0x02 }
  else if 2 ^ 56 ≤ pc then .fault { code := 0x03, addr := t.pc }
  else
    match s.translate c (bindTen t.bind) pc .exec with
    | .walk => .walk
    | .fault f => .fault { f with addr := t.pc }
    | .pa pa =>
      if !isDevice pa then .fault { code := 0x03, addr := t.pc }
      else if s.poisoned pa 16 then .fault { code := 0x12, addr := t.pc }
      else
        let bs := s.fetchBytes pa t.entered
        .words (BitVec.ofNat 64 (natOfBytes (bs.take 8))) (BitVec.ofNat 64 (natOfBytes (bs.drop 8)))

/-- The line of a fetched bundle as the first slice, its home slice and its bank see it (R107 to R110): a load of 16 bytes. Every issue
makes it, for the spec describes no store of bundles in a core: DESIGN CHOICE (assumption log 84). -/
def State.fetchTouch (s : State) (c : Nat) (t : Thread) : State :=
  match s.translate c (bindTen t.bind) t.pc.toNat .exec with
  | .pa pa => s.devTouch (s.firstSlice c t.pc.toNat) pa 16 0 false
  | _ => s

end Sys2Proof.Machine
end

