-- ==== Sys2Proof/Machine/Fold.lean ====
section
/-! DEFINITION. The folding unit's walk (R315 to R326, R335): what it knows, what it evaluates, what it emits, where paths split and
rejoin, its bounds and the faults it meets. -/

namespace Sys2Proof.Machine

/-! ### Registers of a walk

A register is numbered g 0 to 15, p 16 to 23, v 24 to 39, h 40 to 55: the order of R335. -/

/-- A predicate's number. -/
def pNo (n : Nat) : Nat := 16 + n
/-- A vector register's number. -/
def vNo (n : Nat) : Nat := 24 + n
/-- A shape register's number. -/
def hNo (n : Nat) : Nat := 40 + n
/-- The register of a slot V operand code (R166). -/
def vhNo (code : BitVec 5) : Nat := if 16 ≤ code.toNat then hNo (code.toNat - 16) else vNo code.toNat

/-- The opcode of a half's word. -/
def opOf (w : Word) : Nat := fld w 56 8

/-- The general registers of a quad (R232). -/
def quadNos (r : BitVec 4) : List Nat := (List.range 4).map fun i => (r + BitVec.ofNat 4 i).toNat

/-- The registers that a slot A half reads, but for its guard. -/
def readsA (w : Word) : List Nat :=
  let f := AR.of w
  let rd := f.rd.toNat
  let ra := f.ra.toNat
  let rb := f.rb.toNat
  let op := opOf w
  if op ≤ 0x15 then (if op = 0 then [] else [ra, rb])
  else
    match op with
    | 0x1C => [ra, rd]
    | 0x28 => []
    | 0x29 => [rd]
    | 0x2A => []
    | 0x30 => [ra, rb]
    | 0x32 => [pNo ra, pNo rb]
    | 0x33 => [pNo ra, pNo rb]
    | 0x34 => [pNo ra, pNo rb]
    | 0x35 => [pNo ra, pNo rb]
    | 0x36 => [pNo ra]
    | 0x38 => [ra, rb, pNo (fld f.fn 0 3)]
    | 0x3A => [ra, rb]
    | 0x3B => [ra, rb]
    | 0x3D => [ra, rb]
    | 0x40 => []
    | 0x41 => [ra, rb]
    | 0x43 => []
    | 0x44 => [15]
    | 0x47 => [rd]
    | 0x48 => if (AI.of w).imm = 0 then (List.range 7).map fun i => pNo (i + 1) else []
    | 0x50 => [ra, rb]
    | 0x51 => [ra, rb]
    | 0x52 => [ra, rb, rd]
    | 0x53 => [ra, rb]
    | 0x54 => [ra, rb, vNo rd]
    | 0x55 => [ra, rb]
    | 0x56 => [ra, rb, rd, rd + 1]
    | 0x57 => [ra, rb]
    | 0x58 => [ra, rb, hNo rd]
    | 0x59 => [ra, hNo rd]
    | 0x5A => [hNo ra]
    | 0x5E => [ra, rb, rd]
    | 0x5F => [ra, rb, rd]
    | 0x61 => [ra, rb, rd]
    | 0x6D => [ra, rb, rd]
    | 0x70 => []
    | 0x71 => []
    | 0x7C => [ra, rb]
    | 0x7D => []
    | 0x7E => []
    | 0x80 => [rd] ++ quadNos f.rb
    | 0x82 => [rd, ra] ++ quadNos f.rb
    | 0x84 => [ra] ++ quadNos f.rb
    | 0x89 => [ra, rb]
    | 0x8A => []
    | 0x8B => []
    | 0x90 => []
    | 0x92 => [ra, rb]
    | 0x93 => [ra, rb]
    | 0x98 => []
    | 0xA0 => [ra, rb]
    | 0xA1 => [ra, rb]
    | 0xA2 => [ra, rb]
    | 0xA3 => [ra, rb]
    | 0xB0 => [ra, rb]
    | 0xB2 => []
    | _ => if 0x5C ≤ op ∧ op ≤ 0x72 then [ra, rb] else [ra]

/-- The registers that a slot A half writes. -/
def writesA (w : Word) : List Nat :=
  let f := AR.of w
  let rd := f.rd.toNat
  let op := opOf w
  if op = 0 then []
  else if op ≤ 0x2A then [rd]
  else if 0x30 ≤ op ∧ op ≤ 0x37 then [pNo rd]
  else if 0x64 ≤ op ∧ op ≤ 0x6D then [rd]
  else
    match op with
    | 0x38 => [rd]
    | 0x3A => [rd]
    | 0x3B => [rd]
    | 0x3C => [rd]
    | 0x43 => [15]
    | 0x46 => [rd]
    | 0x47 => [rd]
    | 0x48 => [rd]
    | 0x4B => (List.range 7).map fun i => pNo (i + 1)
    | 0x50 => [rd]
    | 0x51 => [rd]
    | 0x53 => [vNo rd]
    | 0x55 => [rd, rd + 1]
    | 0x57 => [hNo rd]
    | 0x59 => [hNo rd]
    | 0x5A => [rd]
    | 0x5C => [rd]
    | 0x5D => [rd]
    | 0x60 => [rd]
    | 0x79 => [rd]
    | 0x7A => [rd]
    | 0x7D => [rd]
    | 0x7E => [rd]
    | 0x81 => [rd]
    | 0x91 => [rd]
    | 0x94 => [rd]
    | 0xA0 => [rd]
    | 0xA1 => [rd, rd + 1]
    | 0xA3 => [rd]
    | 0xA4 => [rd]
    | 0xA5 => [rd]
    | 0xA6 => [rd]
    | 0xB0 => [rd]
    | 0xB4 => [rd]
    | _ => []

/-- A slot A half of format AX: no operand field, no E bit (R161). -/
def isAX (op : Nat) : Bool := decide (0x28 ≤ op) && decide (op ≤ 0x2A)

/-- A slot A half of format AI: EA alone (R161). -/
def isAI (op : Nat) : Bool :=
  [0x19, 0x1A, 0x1B, 0x1C, 0x20, 0x21, 0x22, 0x23, 0x24, 0x25, 0x26, 0x27, 0x31, 0x3C, 0x48, 0x49, 0x4A, 0x59, 0x5A, 0x71, 0x90, 0x98].contains op

/-- The E-marked operands of a slot A half (R165). -/
def marksA (w : Word) : List Nat :=
  let f := AR.of w
  let op := opOf w
  (if f.ea && !isAX op then [if op = 0x5A then hNo f.ra.toNat else f.ra.toNat] else []) ++
    (if f.eb && !isAX op && !isAI op then [f.rb.toNat] else [])

/-- A slot V half is in register form: no region, no engine command (R167). -/
def vRegForm (w : Word) : Bool :=
  let f := VF.of w
  let op := opOf w
  let sh := vshape op f
  decide (op < 0x60) && !((decide (0x32 ≤ op) && decide (op ≤ 0x34)) || op == 0x44 || op == 0x45) && decide (f.vd.toNat < 16) &&
    (op == 0x12 || op == 0x13 || op == 0x15 || ((!sh.useA || decide (f.va.toNat < 16)) && (!sh.useB || decide (f.vb.toNat < 16))))

/-- The registers that a slot V half reads, but for its guard. -/
def readsV (w : Word) : List Nat :=
  let f := VF.of w
  let op := opOf w
  let g := [f.gs.toNat]
  let sh := vshape op f
  if op = 0 then []
  else if vRegForm w then
    match op with
    | 0x10 => g
    | 0x12 => [vNo f.va.toNat]
    | 0x13 => g ++ [vNo f.vd.toNat]
    | 0x14 => g
    | 0x15 => [vNo f.va.toNat, vNo f.vb.toNat]
    | _ =>
      [vNo f.va.toNat] ++ (if sh.useB then [vNo f.vb.toNat] else []) ++ (if usesScalar op f ∨ op = 0x31 then g else []) ++
        (if op = 0x04 ∨ op = 0x0F then [vNo f.vd.toNat] else [])
  else if op < 0x60 then
    [vhNo f.vd] ++ (if sh.useA then [vhNo f.va] else []) ++ (if sh.useB then [vhNo f.vb] else []) ++
      (if usesScalar op f ∨ op = 0x10 ∨ op = 0x14 ∨ op = 0x31 ∨ op = 0x34 then g else [])
  else
    let latch := f.fn.getLsbD 1
    match op with
    | 0x60 => [vhNo f.vd, vhNo f.va] ++ (if latch then [] else [vhNo f.vb])
    | 0x61 => g ++ [vhNo f.vd, vhNo f.va] ++ (if latch then [] else [vhNo f.vb])
    | 0x62 => g ++ [vhNo f.va, vhNo f.vb]
    | 0x63 => [vhNo f.vd, vhNo f.va] ++ (if f.fn.getLsbD 0 then [vhNo f.vb] else [])
    | 0x64 => [vhNo f.vd]
    | 0x65 => [vhNo f.va]
    | 0x66 => []
    | 0x67 => g ++ [vhNo f.vd, vhNo f.va, vhNo f.vb]
    | 0x71 => g ++ [vhNo f.vd, vhNo f.va, vhNo f.vb]
    | 0x72 => g ++ [vhNo f.vd, vhNo f.va, vhNo f.vb]
    | 0x73 => g ++ [vhNo f.vd]
    | 0x74 => g ++ [vhNo f.vd, vhNo f.va]
    | _ => [vhNo f.vd, vhNo f.va]

/-- The registers that a slot V half writes. -/
def writesV (w : Word) : List Nat :=
  let f := VF.of w
  if opOf w = 0 ∨ !vRegForm w then [] else if opOf w = 0x12 then [f.gs.toNat] else [vNo f.vd.toNat]

/-- The E-marked operands of a slot V half (R166). -/
def marksV (w : Word) : List Nat :=
  let f := VF.of w
  if opOf w = 0 then []
  else (if f.ea then [vhNo f.va] else []) ++ (if f.eb then [vhNo f.vb] else []) ++ (if f.eg then [f.gs.toNat] else [])

/-! ### The state of a path and of a walk -/

/-- A loop that a path is in (R320, R324): its first and its last bundle, the iterations begun. -/
structure FLoop where
  head : Nat
  last : Nat
  iters : Nat
deriving DecidableEq, Repr

/-- What a path knows (R316): the known values, what the residual's registers hold of them (R319), the registers that a bound has
made late (R316), the loops it is in. -/
structure FPath where
  known : Tab Nat := []
  held : Tab Nat := []
  bound : List Nat := []
  loops : List FLoop := []
deriving DecidableEq, Repr

/-- Where a residual half leads: nowhere of its own, a label of the residual, an address, a constant of the pool. -/
inductive Fix where
  | none
  | label (n : Nat)
  | addr (va : Nat)
  | pool (n : Nat)
deriving DecidableEq, Repr

/-- A piece of the residual. -/
inductive FItem where
  | lab (n : Nat)
  | code (a v : Word) (f : Fix)
deriving DecidableEq, Repr

/-- The walk's own state: the module, the steps, the bundles emitted, whether a value found no register to pass through, the values of
early loads still to repeat and those performed, the flags, the next label, the constant pool (bytes and value). -/
structure FWalk where
  s : State
  steps : Nat := 0
  size : Nat := 0
  stuck : Bool := false
  vals : List Loaded := []
  done : List Loaded := []
  flags : Nat := 0
  lab : Nat := 0
  pool : List (Nat × Nat) := []

/-- What does not change during a walk: the request, the cluster, the source's entry, its bundles and its loops (the first and the last
bundle of each), the unroll bound, the pages refused. -/
structure FSrc where
  req : FoldReq
  cl : Nat
  base : Nat
  size : Nat
  heads : List (Nat × Nat)
  ub : Nat
  refused : List Nat

/-- What a part of the walk comes to: done; a loop, by its first and last bundle, to be rolled; a bound exceeded; a fault of spec; a page
to wait for; commands to wait for (R119, R321). -/
inductive FRes (α : Type) where
  | ok (w : FWalk) (x : α)
  | roll (w : FWalk) (head last : Nat)
  | big (w : FWalk)
  | fault (w : FWalk) (f : FaultInfo)
  | page (w : FWalk) (die va : Nat) (k : Kind)
  | foot (w : FWalk)

/-- The next part of a walk after one that is done. -/
def FRes.then {α β : Type} (r : FRes α) (k : FWalk → α → FRes β) : FRes β :=
  match r with
  | .ok w x => k w x
  | .roll w h l => .roll w h l
  | .big w => .big w
  | .fault w f => .fault w f
  | .page w d va k => .page w d va k
  | .foot w => .foot w

/-- A register's known value; g0 is 0 and p0 true. -/
def FPath.get (p : FPath) (r : Nat) : Option Nat := if r = 0 then some 0 else if r = 16 then some 1 else Tab.find p.known r
/-- A register is known. -/
def FPath.knows (p : FPath) (r : Nat) : Bool := (p.get r).isSome
/-- A register is early-derivable (R316): known, or late only because of a bound. -/
def FPath.derivable (p : FPath) (r : Nat) : Bool := p.knows r || p.bound.contains r
/-- The guard of a half (R157): none where its predicate is late. -/
def FPath.guard (p : FPath) (w : Word) : Option Bool :=
  let f := AR.of w
  (p.get (pNo f.pg.toNat)).map fun b => (b == 1) != f.pn
/-- Registers become late; those that a bound makes late are told. -/
def FPath.late (p : FPath) (rs bound : List Nat) : FPath :=
  let rs := rs.filter fun r => r != 0 && r != 16
  { p with
    known := rs.foldl Tab.del p.known
    held := rs.foldl Tab.del p.held
    bound := (p.bound.filter fun r => !rs.contains r) ++ rs.filter fun r => bound.contains r }
/-- Registers become known. -/
def FPath.learn (p : FPath) (xs : List (Nat × Nat)) : FPath :=
  let xs := xs.filter fun x => x.1 != 0 && x.1 != 16
  { p with known := xs.foldl (fun k x => Tab.put k x.1 x.2) p.known, bound := p.bound.filter fun r => !xs.any fun x => x.1 == r }
/-- After a call nothing is known (R320). -/
def FPath.wiped (p : FPath) : FPath := { p with known := [], held := [], bound := [] }

/-! ### Evaluation (R317) -/

/-- The meaning of a half that the unit may evaluate, in a state of its own. -/
def evalOp (i : Instr) (s : State) : Host.Outcome State Fault Refusal :=
  match i with
  | .add f => execAdd f s
  | .sub f => execSub f s
  | .mul f => execMul f s
  | .mulh f => execMulh f s
  | .mulhu f => execMulhu f s
  | .div f => execDiv f s
  | .divu f => execDivu f s
  | .rem f => execRem f s
  | .remu f => execRemu f s
  | .and f => execAnd f s
  | .or f => execOr f s
  | .xor f => execXor f s
  | .andn f => execAndn f s
  | .shl f => execShl f s
  | .shr f => execShr f s
  | .sar f => execSar f s
  | .rot f => execRot f s
  | .min f => execMin f s
  | .max f => execMax f s
  | .minu f => execMinu f s
  | .maxu f => execMaxu f s
  | .clz f => execClz f s
  | .ctz f => execCtz f s
  | .popc f => execPopc f s
  | .sext f => execSext f s
  | .zext f => execZext f s
  | .bfx f => execBfx f s
  | .bfi f => execBfi f s
  | .addi f => execAddi f s
  | .muli f => execMuli f s
  | .andi f => execAndi f s
  | .ori f => execOri f s
  | .xori f => execXori f s
  | .shli f => execShli f s
  | .shri f => execShri f s
  | .sari f => execSari f s
  | .li f => execLi f s
  | .lih f => execLih f s
  | .lx f => execLx f s
  | .cmp f => execCmp f s
  | .cmpi f => execCmpi f s
  | .pand f => execPand f s
  | .por f => execPor f s
  | .pxor f => execPxor f s
  | .pandn f => execPandn f s
  | .ptog f => execPtog f s
  | .gtop f => execGtop f s
  | .csel f => execCsel f s
  | .addp f => execAddp f s
  | .pidx f => execPidx f s
  | .pfmt f => execPfmt f s
  | .br f => execBr f s
  | .bcmp f => execBcmp f s
  | .loop f => execLoop f s
  | .shset f => execShset f s
  | .shget f => execShget f s
  | .vext f => execVext f s
  | .vins f => execVins f s
  | .vperm f => execVperm f s
  | i =>
    match vfOf i with
    | some (opc, f) => vexec i opc f s
    | none => .next s

/-- What an evaluated half comes to: the thread after it with the next program counter, or a fault's code. -/
inductive Evald where
  | done (t : Thread) (next : Word)
  | fault (code : Nat)

/-- A half evaluated on known values, in a state that holds nothing else. -/
def FPath.eval (p : FPath) (pc : Nat) (i : Instr) : Evald :=
  let val := fun (r : Nat) => (p.get r).getD 0
  let t : Thread := {
    g := Vector.ofFn fun i : Fin 16 => BitVec.ofNat 64 (val i.val)
    v := Vector.ofFn fun i : Fin 16 => BitVec.ofNat 512 (val (vNo i.val))
    h := Vector.ofFn fun i : Fin 16 => BitVec.ofNat 256 (val (hNo i.val))
    tsw := BitVec.ofNat 64 ((List.range 8).foldl (fun a i => a + val (pNo i) * 2 ^ i) 0)
    pc := BitVec.ofNat 64 pc }
  let s : State := { threads := [(0, t)], ctx := { pre := t, next := BitVec.ofNat 64 ((pc + 16) % 2 ^ 57) } }
  match evalOp i s with
  | .next r =>
    match r.ctx.res with
    | .fault f => .fault f.code
    | _ => .done r.cur r.ctx.next
  | _ => .fault 0x01

/-- A register's value in a thread. -/
def Thread.regNo (t : Thread) (r : Nat) : Nat :=
  if r < 16 then (t.g[r % 16]'(Nat.mod_lt _ (by decide))).toNat
  else if r < 24 then fld t.tsw (r - 16) 1
  else if r < 40 then (t.v[(r - 24) % 16]'(Nat.mod_lt _ (by decide))).toNat
  else (t.h[(r - 40) % 16]'(Nat.mod_lt _ (by decide))).toNat

/-- The values of registers after an evaluation. -/
def Thread.regNos (t : Thread) (rs : List Nat) : List (Nat × Nat) := rs.map fun r => (r, t.regNo r)

/-- The instructions of Integer, address and control that are evaluated, the predicate instructions, shset and shget (R317); pchk,
rdsys, wtsw, trap, brk and the transfers are not among them. -/
def evaluable (op : Nat) : Bool :=
  (decide (1 ≤ op) && decide (op ≤ 0x3C)) || op == 0x59 || op == 0x5A

/-- The loads that may be early (R317). -/
def loadOp (op : Nat) : Bool := op == 0x50 || op == 0x51 || op == 0x53 || op == 0x55 || op == 0x57

/-- An early load's base and index are both E-marked (R317). -/
def markedLoad (w : Word) : Bool :=
  let f := AM.of w
  loadOp (opOf w) && f.ea && (f.rb == 0 || f.eb)

/-! ### Emission (R319) -/

/-- li, and lih where the value does not fit (R319), in a register, with a guard. -/
def liWords (n : Nat) (v : Nat) (pn : Bool) (pg : BitVec 3) (both : Bool) : List Word :=
  let x := BitVec.ofNat 64 v
  let lo : AX := { pn := pn, pg := pg, rd := BitVec.ofNat 4 n, imm := x.setWidth 48 }
  let hi : AX := { pn := pn, pg := pg, rd := BitVec.ofNat 4 n, imm := BitVec.ofNat 48 (fld x 48 16) }
  if both ∨ lo.imm.signExtend 64 ≠ x then [lo.bits 0x28, hi.bits 0x29] else [lo.bits 0x28]

/-- A bundle with nothing in slot V. -/
def codeA (w : Word) : FItem := .code w 0 .none

/-- The general register that a materialised v or h value passes through (R319), and whether the bundle reads it, so that its own
value is put again. It is the register that the rule names, the instruction's own GS or the one of the value's number, where its value
is known or no longer read; otherwise another such register; and none where every one holds a late value that is still read. The rule
names no register that is free, and R322 keeps every late value (DESIGN CHOICE, assumption log 38). -/
def FPath.scratch (p : FPath) (own : Nat) (reads : List Nat) (dead : Nat → Bool) : Option (Nat × Bool) :=
  let some' := fun (ok : Nat → Bool) => (own :: List.range 16).find? fun r => decide (1 ≤ r) && decide (r < 16) && ok r
  let unread := fun (r : Nat) => !reads.contains r && (p.knows r || dead r)
  if own ≠ 0 ∧ p.knows own then some (own, reads.contains own)
  else
    match some' unread with
    | some r => some (r, false)
    | none => (some' p.knows).map fun r => (r, reads.contains r)

/-- The number of a constant in the pool, the pool with it. -/
def poolOf (l : List (Nat × Nat)) (n v : Nat) : Nat × List (Nat × Nat) :=
  match l.findIdx? fun x => x == (n, v) with
  | some i => (i, l)
  | none => (l.length, l ++ [(n, v)])

/-- A general register that served as scratch is given its own value again where the bundle reads it. -/
def FPath.again (p : FPath) (g : Nat) (reads : Bool) : FPath × List FItem :=
  match p.get g with
  | some x => if reads then ({ p with held := Tab.put p.held g x }, (liWords g x false 0 false).map codeA) else (p, [])
  | none => (p, [])

/-- One register materialised (R319): nothing where the residual holds the value already. Where the value finds no register to pass through,
no residual keeps every late value (R322), and the fold comes to a generic one (assumption log 38). -/
def FPath.put (p : FPath) (w : FWalk) (r own : Nat) (reads : List Nat) (dead : Nat → Bool) : FWalk × FPath × List FItem :=
  match p.get r with
  | none => (w, p, [])
  | some x =>
    if r = 0 ∨ r = 16 ∨ Tab.find p.held r = some x then (w, p, [])
    else
      let q := { p with held := Tab.put p.held r x }
      if r < 16 then (w, q, (liWords r x false 0 false).map codeA)
      else if r < 24 then
        let f : AR := { pn := false, pg := 0, rd := BitVec.ofNat 4 (r - 16), ra := 0, ea := false, rb := 0, eb := false, fn := 0 }
        (w, q, [codeA (f.bits (if x = 1 then 0x30 else 0x36))])
      else
        let lane := x % 2 ^ 32
        let vec := decide (r < 40)
        if vec ∧ x = (packLanes 32 (List.replicate 16 lane)).toNat then
          match p.scratch own reads dead with
          | none => ({ w with stuck := true }, p, [])
          | some (g, rd) =>
          let f : VF := { pn := false, pg := 0, vd := BitVec.ofNat 5 (r - 24), dcl := 0, dsc := 0, va := 0, na := false, xa := false,
                          ea := false, ga := 0, vb := 0, nb := false, xb := false, eb := false, gb := 0, tag := 0, ty := 3, rm := 0,
                          u := false, gs := BitVec.ofNat 4 g, eg := false, fn := 0 }
          let (q, l) := { q with held := Tab.put q.held g lane }.again g rd
          (w, q, (liWords g lane false 0 false).map codeA ++ [.code 0 (f.bits 0x10) .none] ++ l)
        else
          match p.scratch (if vec then r - 24 else r - 40) reads dead with
          | none => ({ w with stuck := true }, p, [])
          | some (g, rd) =>
          let n := if vec then 64 else 32
          let (i, pool) := poolOf w.pool n x
          let lx : AX := { pn := false, pg := 0, rd := BitVec.ofNat 4 g, imm := 0 }
          let ld : AM := { pn := false, pg := 0, rd := BitVec.ofNat 4 (if vec then r - 24 else r - 40), ra := BitVec.ofNat 4 g,
                           ea := false, rb := 0, eb := false, sc := 0, sz := if vec then 5 else 0, hint := 0, ord := 0, x := false,
                           off := 0 }
          let (q, l) := { q with held := Tab.del q.held g }.again g rd
          ({ w with pool := pool }, q, [.code (lx.bits 0x2A) 0 (.pool i), codeA (ld.bits (if vec then 0x53 else 0x57))] ++ l)

/-- Registers in the order of their numbers, each once. -/
def inOrder (l : List Nat) : List Nat := l.foldl insertNat []

/-- Registers materialised in the order of R335. -/
def FPath.puts (w : FWalk) (p : FPath) (own : Nat) (reads : List Nat) (dead : Nat → Bool) : List Nat → FWalk × FPath × List FItem
  | [] => (w, p, [])
  | r :: l =>
    let (w, q, x) := p.put w r own reads dead
    let (w, q, y) := FPath.puts w q own reads dead l
    (w, q, x ++ y)

/-! ### One half -/

/-- Where the walk goes after a bundle; a split says whether its condition is late only because of a bound (R316). -/
inductive FNext where
  | fall
  | goto (pc : Nat)
  | back (pc : Nat)
  | split (lab : Nat) (pc : Nat) (bnd : Bool)
  | stop
deriving DecidableEq, Repr

/-- What a half comes to: bundles before it, the half kept (none where it is removed), its fix-up, what it reads, which registers
become late (and of them those that a bound makes late), which become known, whether everything becomes late, where the walk goes. -/
structure FHalf where
  pre : List Word := []
  out : Option Word := none
  fix : Fix := .none
  reads : List Nat := []
  late : List Nat := []
  bound : List Nat := []
  set : List (Nat × Nat) := []
  wipe : Bool := false
  next : FNext := .fall
  deferred : Bool := false

/-- A half without its guard, where the guard is known true (R317). -/
def strip (w : Word) (g : Option Bool) : Word := if g = some true then setFld w 52 4 0 else w

/-- A deferred trap in place of a half (R325). -/
def trapWord (w : Word) (g : Option Bool) (ra : Nat) (code idx : Nat) : Word :=
  let f := AR.of (strip w g)
  let t : AI := { pn := f.pn, pg := f.pg, rd := 0, ra := BitVec.ofNat 4 ra, ea := false,
                  imm := BitVec.ofNat 32 (2 ^ 31 + code % 128 * 2 ^ 24 + idx % 2 ^ 24), fn := 0 }
  t.bits 0x49

/-- A deferred trap as what a half comes to. -/
def trapHalf (w : Word) (g : Option Bool) (ra : Nat) (code idx : Nat) : FHalf :=
  { out := some (trapWord w g ra code idx), reads := if ra = 0 then [] else [ra], deferred := true
    next := if g = some true then .stop else .fall }

/-- The result of an identity (R318): the result is known 0, the half disappears, or it becomes another half. -/
inductive Ident where
  | no
  | zero
  | nothing
  | becomes (w : Word)

/-- A late source under a known factor (R318). -/
def mulIdent (w : Word) (rd late : BitVec 4) (c : Word) : Ident :=
  let f := AR.of w
  let ai := fun (op : Nat) (imm : BitVec 32) =>
    let x : AI := { pn := f.pn, pg := f.pg, rd := rd, ra := late, ea := false, imm := imm, fn := 0 }
    x.bits op
  if c = 0 then .zero
  else if c = 1 then (if rd = late then .nothing else .becomes (ai 0x20 0))
  else if c = BitVec.allOnes 64 then
    let x : AR := { pn := f.pn, pg := f.pg, rd := rd, ra := 0, ea := false, rb := late, eb := false, fn := 0 }
    .becomes (x.bits 0x02)
  else
    match (List.range 63).find? fun k => decide (1 ≤ k) && c == BitVec.ofNat 64 (2 ^ k) with
    | some k => .becomes (ai 0x25 (BitVec.ofNat 32 k))
    | none => .no

/-- The identities of R318: add, addi, sub, mul and muli with one source known and the other late. -/
def FPath.ident (p : FPath) (w : Word) : Ident :=
  let f := AR.of w
  let ka := p.get f.ra.toNat
  let kb := p.get f.rb.toNat
  let imm := ((AI.of w).imm.signExtend 64).toNat
  let one := fun (late : BitVec 4) => mulIdent w f.rd late 1
  match opOf w, ka, kb with
  | 0x01, some 0, none => one f.rb
  | 0x01, none, some 0 => one f.ra
  | 0x02, none, some 0 => one f.ra
  | 0x03, some c, none => mulIdent w f.rd f.rb (BitVec.ofNat 64 c)
  | 0x03, none, some c => mulIdent w f.rd f.ra (BitVec.ofNat 64 c)
  | 0x20, none, _ => if imm = 0 then one f.ra else .no
  | 0x21, none, _ => mulIdent w f.rd f.ra (BitVec.ofNat 64 imm)
  | _, _, _ => .no

/-- The AI form of an AR instruction with a known second source that fits IMM32 (R319). -/
def FPath.immForm (p : FPath) (w : Word) : Option Word :=
  let f := AR.of w
  let immOp : Option Nat := match opOf w with
    | 0x01 => some 0x20
    | 0x03 => some 0x21
    | 0x0A => some 0x22
    | 0x0B => some 0x23
    | 0x0C => some 0x24
    | 0x0E => some 0x25
    | 0x0F => some 0x26
    | 0x10 => some 0x27
    | _ => none
  match immOp, p.get f.rb.toNat with
  | some op, some v =>
    let x := BitVec.ofNat 64 v
    let imm : BitVec 32 := x.setWidth 32
    let fits := if 0x25 ≤ op then decide (v ≤ 63) else imm.signExtend 64 == x
    if fits then
      let a : AI := { pn := f.pn, pg := f.pg, rd := f.rd, ra := f.ra, ea := false, imm := imm, fn := 0 }
      some (a.bits op)
    else none
  | _, _ => none

/-- The thread that issued spec, as it stands in the state of the walk. -/
def FWalk.asThread (w : FWalk) (c : FSrc) (p : FPath) : State :=
  let o := c.req.org
  let t := (w.s.thr o.core o.slot).getD {}
  { w.s with ctx := { core := o.core, slot := o.slot,
                      pre := { t with g := Vector.ofFn fun i : Fin 16 => BitVec.ofNat 64 ((p.get i.val).getD 0) } } }

/-- The value at a place, read as the thread's plain load reads it (R321); none is poison. -/
def State.placeValue (s : State) (pl : Place) (n : Nat) : Option Nat :=
  let rd := fun (pa : Nat) => if s.poisoned pa n then none else some (s.memNat pa n)
  match pl with
  | .own pa => rd pa
  | .other _ pa => rd pa
  | .dev pa => rd pa
  | .host pa => rd pa
  | .dur pa => some (natOfBytes (overlay (s.ownDurable s.cur.uid) pa (Mem.readN s.mem pa n)))
  | .win c o => some (s.windowValue c o)

/-- An early load's spaces and size. -/
def loadShape (op : Nat) (f : AM) : Nat × Takes :=
  match op with
  | 0x53 => (64, takesWide)
  | 0x55 => (16, takesWide)
  | 0x57 => (32, takesShape)
  | _ => (sizeOf f.sz, takesLd)

/-- The registers an early load writes, with the values. -/
def loadSets (op : Nat) (f : AM) (n v : Nat) : List (Nat × Nat) :=
  let rd := f.rd.toNat
  match op with
  | 0x53 => [(vNo rd, v)]
  | 0x55 => [(rd, v % 2 ^ 64), (rd + 1, v / 2 ^ 64)]
  | 0x57 => [(hNo rd, v)]
  | 0x50 => [(rd, (sextW (BitVec.ofNat 64 v) (8 * n)).toNat)]
  | _ => [(rd, v)]

/-- The access of an early load (R321): the value, or the fault that is deferred; a page to wait for, commands to wait for, and the
fault of spec for poison (R326). -/
def FWalk.load (w : FWalk) (c : FSrc) (p : FPath) (op : Nat) (f : AM) (idx : Nat) : FRes (Except Nat (List (Nat × Nat))) :=
  let (n, tk) := loadShape op f
  let w := { w with flags := w.flags ||| 2 ^ 9 }
  let gives := fun (w : FWalk) (x : Loaded) =>
    FRes.ok { w with done := w.done ++ [x] } (match x with
      | .value v => .ok (loadSets op f n v)
      | .fault code => .error code)
  match w.vals with
  | x :: r => gives { w with vals := r } x
  | [] =>
    let s := w.asThread c p
    let ptr := s.ea f n
    let got := fun (w : FWalk) (pl : Place) =>
      match w.s.placeValue pl n with
      | none => FRes.fault w { code := 0x12, aux0 := c.req.handle, aux1 := BitVec.ofNat 64 (idx % 2 ^ 32 * 2 ^ 32) }
      | some v => gives w (.value v)
    match s.resolve ptr n false tk with
    | .fault e => gives w (.fault e.code)
    | .wait _ => .foot w
    | .place pl => got w pl
    | .walk va =>
      let slice := s.firstSlice c.req.org.core va
      match w.s.walkDone slice (bindTen c.req.org.bind) va .read with
      | .error (some e) => gives w (.fault e.code)
      | .error none => if c.refused.contains (va / 4096) then gives w (.fault 0x04) else .page w (dieOf slice) va .read
      | .ok s' =>
        let w := { w with s := s' }
        match (w.asThread c p).resolve ptr n false tk with
        | .place pl => got w pl
        | .fault e => gives w (.fault e.code)
        | .wait _ => .foot w
        | .walk _ => .page w (dieOf slice) va .read

/-- A fault of spec for the source (R326). -/
def FSrc.bad (c : FSrc) (reason idx : Nat) : FaultInfo :=
  { code := 0x0C, aux0 := c.req.handle, aux1 := BitVec.ofNat 64 (reason + idx % 2 ^ 32 * 2 ^ 32) }

/-- The E marks of a half (R316, R326): each on a value that is early-derivable. -/
def marksOk (l : List Nat) (ok : Nat → Bool) : Bool := l.all ok

/-- All known registers, which a transfer that leaves materialises (R320). -/
def FPath.all (p : FPath) : List Nat := p.known.map fun x => x.1

/-- A kept half's results would be known were no bound met (R316): its guard and what it reads are early-derivable, and what it writes
too where the guard is late. -/
def FPath.derives (p : FPath) (half : Word) (rd wr : List Nat) : Bool :=
  let gp := pNo (AR.of half).pg.toNat
  rd.all p.derivable && (p.guard half == some true || (p.bound.contains gp && wr.all p.derivable))

/-- A kept half: its registers become late; those it reads are materialised, and those it may leave as they were (R319, R322). -/
def keepHalf (w : Word) (g : Option Bool) (rd wr : List Nat) (derive : Bool) : FHalf :=
  { out := some (strip w g), reads := rd ++ (if g = some true then [] else wr), late := wr, bound := if derive then wr else [] }

/-- The AB target of a half. -/
def abTarget (w : Word) (pc : Nat) : Nat := ((((pc : Int) + 16 * (AB.of w).off.toInt) % ((2 ^ 57 : Nat) : Int))).toNat

/-- A transfer's half (R320): decided, split, or the back edge of a loop that must be rolled. -/
def FPath.xferHalf (p : FPath) (w : FWalk) (a : Word) (i : Instr) (g : Option Bool) (pc : Nat) : FRes FHalf :=
  let tgt := abTarget a pc
  let inLoop := p.loops.any fun l => l.head == tgt && l.last == pc
  let bnd := p.derives a (readsA a) []
  if g = some true ∧ (readsA a).all p.knows then
    match p.eval pc i with
    | .fault _ => .ok w { next := .stop }
    | .done t nx =>
      let n := nx.toNat
      .ok w { set := t.regNos (writesA a), next := if n = (pc + 16) % 2 ^ 57 then .fall else if n ≤ pc then .back n else .goto n }
  else if tgt ≤ pc ∧ inLoop then .roll w tgt pc
  else
    .ok { w with lab := w.lab + 1 } {
      keepHalf (setFld a 0 32 0) g (readsA a) (writesA a) (p.derives a (readsA a) (writesA a)) with
      fix := .label w.lab, next := .split w.lab tgt bnd }

/-- What a slot A half comes to whose guard is not known false. -/
def FPath.halfA (p : FPath) (c : FSrc) (w : FWalk) (a : Word) (i : Instr) (pc idx : Nat) : FRes FHalf :=
  let op := opOf a
  let f := AR.of a
  let g := p.guard a
  let sure := g = some true
  let rd := readsA a
  let wr := writesA a
  let known := decide sure && rd.all p.knows
  let derive := p.derives a rd wr && (evaluable op || markedLoad a)
  let kept : FHalf := keepHalf a g rd wr derive
  let isDiv := decide (6 ≤ op) && decide (op ≤ 9)
  if op = 0x40 ∨ op = 0x41 ∨ op = 0x47 then p.xferHalf w a i g pc
  else if op = 0x43 then
    let h := AR.of (strip a g)
    let j : AR := { pn := h.pn, pg := h.pg, rd := 15, ra := 15, ea := false, rb := 0, eb := false, fn := 0 }
    .ok w { pre := liWords 15 (abTarget a pc) h.pn h.pg true, out := some (j.bits 0x46), reads := p.all, wipe := true }
  else if isDiv ∧ p.get f.rb.toNat = some 0 then .ok w (trapHalf a g f.ra.toNat 0x05 idx)
  else if evaluable op then
    if known then
      match p.eval pc i with
      | .fault code => .ok w (trapHalf a g f.ra.toNat code idx)
      | .done t _ => .ok w { set := t.regNos wr }
    else if op = 0x2A then
      let h := AR.of (strip a g)
      let v := (((pc : Int) + (AX.of a).imm.toInt) % ((2 ^ 57 : Nat) : Int)).toNat
      let ws := liWords f.rd.toNat v h.pn h.pg false
      .ok w { kept with pre := ws.dropLast, out := ws.getLast? }
    else
      match p.ident (strip a g) with
      | .zero => if sure then .ok w { set := [(f.rd.toNat, 0)] } else
          match p.immForm a with
          | some x => .ok w { kept with out := some x, reads := f.ra.toNat :: wr }
          | none => .ok w kept
      | .nothing => .ok w {}
      | .becomes x => .ok w { kept with out := some x, reads := if sure then [] else wr }
      | .no =>
        match p.immForm (strip a g) with
        | some x => .ok w { kept with out := some x, reads := f.ra.toNat :: (if sure then [] else wr) }
        | none => .ok w kept
  else if markedLoad a ∧ known then
    (w.load c p op (AM.of a) idx).then fun w r =>
      match r with
      | .ok l => .ok w { set := l }
      | .error code => .ok w (trapHalf a g f.ra.toNat code idx)
  else
    let tgt : Option Nat := if op = 0x44 then p.get 15 else if op = 0x45 ∨ op = 0x46 then p.get f.ra.toNat else none
    if tgt.any fun t => t % 16 != 0 then .ok w (trapHalf a g 0 0x02 idx)
    else
      let leaves := op = 0x44 ∨ op = 0x45 ∨ op = 0xB2 ∨ op = 0x8A
      let moves := op = 0x88 ∨ op = 0x89 ∨ op = 0xA1
      let calls := op = 0x46 ∨ op = 0xB1
      let all := leaves ∨ moves ∨ calls ∨ op = 0xB0
      let lost := if moves then (List.range 32).map fun i => 24 + i else []
      .ok w { kept with
        reads := kept.reads ++ (if all then p.all else [])
        late := kept.late ++ lost
        wipe := decide calls
        next := if leaves ∧ sure then .stop else .fall }

/-- A slot V half that may be evaluated (R317): in register form, of the thread's own registers and with a fixed rounding. -/
def vEvaluable (v : Word) : Bool :=
  let f := VF.of v
  vRegForm v && f.ga == 0 && f.gb == 0 && f.rm != 5

/-- What a slot V half comes to whose guard is not known false (R317): evaluated in register form, with no flag to set, on known
operands; otherwise kept. -/
def FPath.halfV (p : FPath) (v : Word) (i : Instr) (pc : Nat) : FHalf :=
  let g := p.guard v
  let rd := readsV v
  let wr := writesV v
  let kept := keepHalf v g rd wr (p.derives v rd wr && vEvaluable v)
  if g = some true ∧ vEvaluable v ∧ rd.all p.knows then
    match p.eval pc i with
    | .fault _ => kept
    | .done t _ => if fld t.tsw 8 7 = 0 then { set := t.regNos wr } else kept
  else kept

/-! ### One bundle -/

/-- The source bundle at an address (R317, R321, R325): its words, or the fault of its fetch. -/
def FWalk.fetch (w : FWalk) (c : FSrc) (pc : Nat) : FRes (Except Nat (Word × Word)) :=
  let o := c.req.org
  let t : Thread := { pc := BitVec.ofNat 64 pc, bind := o.bind, entered := w.s.fresh }
  let see := fun (w : FWalk) (r : Fetched) (again : FRes (Except Nat (Word × Word))) =>
    match r with
    | .words a v => FRes.ok w (.ok (a, v))
    | .fault f => .ok w (.error f.code)
    | .walk => again
  let slice := w.s.firstSlice o.core pc
  see w (w.s.fetch o.core t)
    (match w.s.walkDone slice (bindTen o.bind) pc .exec with
    | .error (some e) => .ok w (.error e.code)
    | .error none => if c.refused.contains (pc / 4096) then .ok w (.error 0x04) else .page w (dieOf slice) pc .exec
    | .ok s =>
      let w := { w with s := s }
      see w (w.s.fetch o.core t) (.page w (dieOf slice) pc .exec))

/-- The index of a source bundle from the source's entry (R325, R326). -/
def FSrc.index (c : FSrc) (pc : Nat) : Nat := ((((pc : Int) - (c.base : Int)) / 16) % ((2 ^ 32 : Nat) : Int)).toNat

/-! ### The source's control flow -/

/-- The bundle lies in the source's code. -/
def FSrc.inside (c : FSrc) (pc : Nat) : Bool := decide (c.base ≤ pc) && decide (pc < c.base + 16 * c.size)

/-- A transfer by br, bcmp or loop. -/
def isXfer (op : Nat) : Bool := op == 0x40 || op == 0x41 || op == 0x47
/-- A transfer that calls: nothing is known after it (R320). -/
def isCall (op : Nat) : Bool := op == 0x43 || op == 0x46 || op == 0xB1
/-- An instruction that ends the walk's path where it has no guard. -/
def isEnd (op : Nat) : Bool := op == 0x44 || op == 0x45 || op == 0x8A || op == 0xB2
/-- An instruction that moves the thread. -/
def isMove (op : Nat) : Bool := op == 0x88 || op == 0x89 || op == 0xA1

/-- The bundles that the transfers of a slot A half lead to, the next one among them unless the half ends the path. -/
def succsOf (pc : Nat) (a : Word) : List Nat :=
  let op := opOf a
  (if isXfer op then [abTarget a pc] else []) ++ (if (isEnd op || op == 0x40) && fld a 52 4 == 0 then [] else [(pc + 16) % 2 ^ 57])

/-- The bundles that may follow a bundle of the source; none where it cannot be read. -/
def FWalk.succs (w : FWalk) (c : FSrc) (pc : Nat) : List Nat :=
  if !c.inside pc then []
  else
    match w.fetch c pc with
    | .ok _ (.ok (a, _)) => succsOf pc a
    | _ => []

/-- The bundles of the source that its transfers can reach, each fetched: the unit reads them before it walks, and waits for their pages, so
that nothing it makes depends on which of them are resident (R323): DESIGN CHOICE (assumption log 38). -/
def FWalk.scan (w : FWalk) (c : FSrc) : Nat → List Nat → List Nat → FRes (List Nat)
  | 0, _, seen => .ok w seen
  | _, [], seen => .ok w seen
  | n + 1, x :: l, seen =>
    if seen.contains x ∨ !c.inside x then FWalk.scan w c n l seen
    else
      match w.fetch c x with
      | .ok w (.ok (a, _)) => FWalk.scan w c n (succsOf x a ++ l) (insertNat seen x)
      | .ok w (.error _) => FWalk.scan w c n l (insertNat seen x)
      | .page w d va k => .page w d va k
      | _ => FWalk.scan w c n l seen

/-- The bundles that can be reached from some, by a successor function; n bounds the search. -/
def reach (next : Nat → List Nat) : Nat → List Nat → List Nat → List Nat
  | 0, _, seen => seen
  | _, [], seen => seen
  | n + 1, x :: l, seen =>
    if seen.contains x then reach next n l seen else reach next n (next x ++ l) (insertNat seen x)

/-- The bundles that can be reached; a source has at most 65,536 that the bound on steps admits. -/
def reachable (next : Nat → List Nat) (from_ : List Nat) : List Nat := reach next 262144 from_ []

/-- The rejoin point of paths (R320) under a successor function: the first bundle that one of them and another both reach, through
which they reach every other such bundle. -/
def meetOf (next : Nat → List Nat) (a : Nat) (rest : List Nat) : Option Nat :=
  let ra := reachable next [a]
  let rb := reachable next rest
  let both := ra.filter rb.contains
  both.find? fun j =>
    let r := reachable (fun x => if x = j then [] else next x) (a :: rest)
    both.all fun x => x == j || !r.contains x

/-- A bundle writes a register whatever its predicates. -/
def writesSurely (a v : Word) (r : Nat) : Bool :=
  ((writesA a).contains r && fld a 52 4 == 0) || ((writesV v).contains r && fld v 52 4 == 0)

/-- No bundle from one on reads a general register before it is written anew (R322): a return by reth reads g1 to g4, g14 and g15, and
another transfer out of the walk, a move, a fold, or code beyond the source may read each. -/
def FWalk.dead (w : FWalk) (c : FSrc) (pc r : Nat) : Bool :=
  let words := fun (x : Nat) => match w.fetch c x with
    | .ok _ (.ok y) => y
    | _ => (0, 0)
  let seen := reachable (fun x => if writesSurely (words x).1 (words x).2 r then [] else w.succs c x) [pc]
  seen.all fun x =>
    let (a, v) := words x
    let op := opOf a
    let out := !c.inside x || [0x43, 0x44, 0x45, 0x46, 0x88, 0x89, 0xA1, 0xB0, 0xB1].contains op || (op == 0xB2 && [1, 2, 3, 4, 14, 15].contains r)
    !(readsA a ++ readsV v).contains r && !out

/-- The guard of a half as a register it reads. -/
def guardReads (w : Word) : List Nat := if opOf w = 0 then [] else [pNo (AR.of w).pg.toNat]

/-- The bundles among pieces of the residual. -/
def codes (l : List FItem) : Nat := (l.filter fun x => match x with
  | .lab _ => false
  | .code _ _ _ => true).length

/-- A kept bundle behind the halves that its slot A half needs before it. They write what that half writes, so a slot V half that reads it
stands before them, in a bundle of its own, and reads what it held before the bundle (R155, R322). -/
def withPre (pre : List Word) (a v : Word) (wr rdV : List Nat) (fix : Fix) (keep : Bool) : List FItem :=
  if !keep then pre.map codeA
  else if pre ≠ [] ∧ opOf v ≠ 0 ∧ wr.any rdV.contains then [.code 0 v .none] ++ pre.map codeA ++ [.code a 0 fix]
  else pre.map codeA ++ [.code a v fix]

/-- One source bundle considered on a path (R316 to R320, R325): the residual's pieces, the path after it, where the walk goes. -/
def FWalk.bundle (w : FWalk) (c : FSrc) (p : FPath) (pc : Nat) : FRes (List FItem × FPath × FNext) :=
  let idx := c.index pc
  if 65536 ≤ w.steps then .big w
  else
    ({ w with steps := w.steps + 1 }.fetch c pc).then fun w r =>
      match r with
      | .error code => .ok { w with flags := w.flags ||| 2 ^ 5, size := w.size + 1 } ([codeA (trapWord 0 none 0 code idx)], p, .stop)
      | .ok (a, v) =>
        match decodeA a, decodeV v with
        | .ok ia, .ok iv =>
          let onA := decide (opOf a ≠ 0 ∧ p.guard a ≠ some false)
          let onV := decide (opOf v ≠ 0 ∧ p.guard v ≠ some false)
          if (onA && !marksOk (marksA a) p.derivable) || (onV && !marksOk (marksV v) p.derivable) then .fault w (c.bad 3 idx)
          else
            (if onA then p.halfA c w a ia pc idx else .ok w {}).then fun w ha =>
              let hv : FHalf := if onV then p.halfV v iv pc else {}
              let own := (VF.of v).gs.toNat
              let keepA := ha.out.isSome
              let keepV := hv.out.isSome
              let rdA := inOrder (if keepA then ha.reads else [])
              let rdV := inOrder (if keepV then hv.reads else [])
              let guards := (if keepA ∧ p.guard a = none then [pNo (AR.of a).pg.toNat] else []) ++
                (if keepV ∧ p.guard v = none then [pNo (AR.of v).pg.toNat] else [])
              let rds := rdA ++ rdV ++ guards
              let (w, q, x) := FPath.puts w p own rds (w.dead c pc) rdA
              let (w, q, y) := FPath.puts w q own rds (w.dead c pc) rdV
              let code := withPre (ha.pre) (ha.out.getD 0) (hv.out.getD 0) (writesA a) (hv.reads ++ guardReads v) ha.fix (keepA ∨ keepV)
              let q := if ha.wipe then q.wiped else q
              let q := (q.late (ha.late ++ hv.late) (ha.bound ++ hv.bound)).learn (ha.set ++ hv.set)
              let items := x ++ y ++ code
              .ok { w with flags := if ha.deferred then w.flags ||| 2 ^ 5 else w.flags, size := w.size + codes items } (items, q, ha.next)
        | _, _ => .fault w (c.bad 4 idx)

/-! ### Rejoin points (R320) -/

/-- What is known where paths rejoin (R320): what every path knows with the same value; late because of a bound what every path derives
and some path has late for one, or what differs after a split that only a bound makes late. -/
def joinPaths (bnd : Bool) : List FPath → FPath
  | [] => {}
  | p :: r =>
    let same := fun (f : FPath → Tab Nat) => (f p).filter fun x => r.all fun q => Tab.find (f q) x.1 == some x.2
    let known := same fun q => q.known
    { p with
      known := known
      held := same fun q => q.held
      bound := (List.range 56).filter fun i =>
        !(Tab.find known i).isSome && ((p :: r).all fun q => q.derivable i) && (bnd || (p :: r).any fun q => q.bound.contains i) }

/-- The bundles that may follow one on a path, with what is known there: a transfer that the path decides leads one way, any other both. -/
def FWalk.after (w : FWalk) (c : FSrc) (p : FPath) (pc : Nat) : List (Nat × FPath) :=
  if !c.inside pc then []
  else
    match ({ w with vals := [], steps := 0 } : FWalk).bundle c p pc with
    | .ok _ (_, q, nx) =>
      match nx with
      | .fall => [((pc + 16) % 2 ^ 57, q)]
      | .goto t => [(t, q)]
      | .back t => [(t, q)]
      | .split _ t _ => [((pc + 16) % 2 ^ 57, q), (t, q)]
      | .stop => []
    | _ =>
      match w.fetch c pc with
      | .ok _ (.ok (a, v)) => (succsOf pc a).map fun x => (x, p.late (writesA a ++ writesV v) [])
      | _ => []

/-- The bundles that paths may reach, each with what every path to it knows and with those that may follow it; past a stop none does. n
bounds the search. -/
def FWalk.flow (w : FWalk) (c : FSrc) (stop : Nat → Bool) : Nat → List (Nat × FPath) → Tab (FPath × List Nat) → Tab (FPath × List Nat)
  | 0, _, t => t
  | _, [], t => t
  | n + 1, (pc, p) :: l, t =>
    let old := Tab.find t pc
    let q := match old with
      | none => p
      | some (o, _) => joinPaths false [o, p]
    if old.any fun o => o.1.known == q.known then FWalk.flow w c stop n l t
    else
      let nx := if stop pc then [] else w.after c q pc
      FWalk.flow w c stop n (nx ++ l) (Tab.put t pc (q, nx.map fun x => x.1))

/-- The rejoin point of paths within one pass of the loops that they are in: a pass ends at a loop's first bundle. -/
def FWalk.meet (w : FWalk) (c : FSrc) (loops : List FLoop) (a : Nat × FPath) (rest : List (Nat × FPath)) : Option Nat :=
  let t := w.flow c (fun x => loops.any fun l => l.head == x) 262144 (a :: rest) []
  meetOf (fun x => ((Tab.find t x).map fun y => y.2).getD []) a.1 (rest.map fun x => x.1)

/-! ### Rolled loops (R324) -/

/-- A bundle of a rolled loop. -/
structure FBody where
  pc : Nat
  a : Word
  v : Word
  /-- the fault of its fetch -/
  bad : Option Nat := none
  /-- the words of a bundle that no path reaches: it stands in the residual as it is -/
  raw : Option (Word × Word) := none

/-- The bundles of a loop, of which paths reach some: a reserved encoding or a fetch that faults counts on those alone (R326). -/
def FWalk.body (w : FWalk) (c : FSrc) (reached : Nat → Bool) : Nat → Nat → FRes (List FBody)
  | 0, _ => .ok w []
  | n + 1, pc =>
    let on := fun (w : FWalk) (b : FBody) => (FWalk.body w c reached n (pc + 16)).then fun w l => FRes.ok w (b :: l)
    if 65536 ≤ w.steps then .big w
    else
      ({ w with steps := if reached pc then w.steps + 1 else w.steps }.fetch c pc).then fun w r =>
        match r with
        | .error code => on w { pc := pc, a := 0, v := 0, bad := if reached pc then some code else none }
        | .ok (a, v) =>
          if !reached pc then on w { pc := pc, a := 0, v := 0, raw := some (a, v) }
          else
            match decodeA a, decodeV v with
            | .ok _, .ok _ => on w { pc := pc, a := a, v := v }
            | _, _ => .fault w (c.bad 4 (c.index pc))

/-- What a body reads, and what it writes. -/
def bodyReads (l : List FBody) : List Nat := l.flatMap fun b => readsA b.a ++ readsV b.v ++ guardReads b.a ++ guardReads b.v
/-- What a body writes. -/
def bodyWrites (l : List FBody) : List Nat := l.flatMap fun b => writesA b.a ++ writesV b.v

/-- The registers that are early-derivable where a bundle of a rolled loop begins (R316): those that would be known there were the loop
unrolled. -/
abbrev FKnow := Tab (List Nat)

/-- A register is among the early-derivable ones; g0 and p0 always are. -/
def derivedIn (d : List Nat) (r : Nat) : Bool := r == 0 || r == 16 || d.contains r

/-- What one half of a bundle leaves of the early-derivable registers. -/
def derivedHalf (d0 : List Nat) (half : Word) (rd wr : List Nat) (ev : Bool) (d : List Nat) : List Nat :=
  let ok := derivedIn d0
  let free := fld half 52 4 == 0
  if ev && rd.all ok && (guardReads half).all ok && (free || wr.all ok) then wr.foldl insertNat d else d.filter fun r => !wr.contains r

/-- What a bundle leaves of the early-derivable registers. -/
def FBody.derived (b : FBody) (d : List Nat) : List Nat :=
  let op := opOf b.a
  let x := derivedHalf d b.a (readsA b.a) (writesA b.a) (evaluable op || op == 0x47 || markedLoad b.a) d
  let x := derivedHalf d b.v (readsV b.v) (writesV b.v) (vEvaluable b.v) x
  if isCall op then [] else if isMove op then x.filter fun r => decide (r < 24) else x

/-- A transfer of the body whose condition is late however far the loop is unrolled. -/
def FBody.late (b : FBody) (d : List Nat) : Bool :=
  b.bad.isNone && isXfer (opOf b.a) && !(readsA b.a ++ guardReads b.a).all (derivedIn d)

/-- A transfer of the body that goes back or out of it, or past which the body ends. -/
def FBody.leaves (head last : Nat) (b : FBody) : Bool :=
  let t := abTarget b.a b.pc
  decide (t ≤ b.pc) || decide (last < t) || b.pc == last

/-- Registers written between late forward branches of a body and their rejoin points, with the points (R320): each is late there. -/
def FWalk.joinsLate (w : FWalk) (c : FSrc) (l : List FBody) (head last : Nat) (k : FKnow) : List (Nat × List Nat) :=
  l.filterMap fun b =>
    if b.late (Tab.findD k b.pc []) && !b.leaves head last then
      let next := fun (x : Nat) => (w.succs c x).filter fun y => decide (head < y) && decide (y ≤ last)
      let t := abTarget b.a b.pc
      (meetOf next (b.pc + 16) [t]).map fun j =>
        let between := (reachable (fun x => if x = j then [] else next x) [b.pc + 16, t]).filter fun x => x != j
        (j, bodyWrites (l.filter fun b => between.contains b.pc))
    else none

/-- One round of the early-derivable registers through a body: what each bundle leaves meets what its successors have. -/
def FWalk.derivedRound (w : FWalk) (c : FSrc) (l : List FBody) (head last : Nat) (k : FKnow) : FKnow :=
  let joins := w.joinsLate c l head last k
  l.foldl (fun k b =>
    let d := b.derived (Tab.findD k b.pc [])
    (w.succs c b.pc).foldl (fun k y =>
      if head ≤ y ∧ y ≤ last then
        Tab.put k y ((Tab.findD k y []).filter fun r => d.contains r && !joins.any fun j => j.1 == y && j.2.contains r)
      else k) k) k

/-- The early-derivable registers at each bundle of a body, from those at its entry, once nothing changes; n bounds the rounds. -/
def FWalk.derivedAt (w : FWalk) (c : FSrc) (l : List FBody) (head last : Nat) : Nat → FKnow → FKnow
  | 0, k => k
  | n + 1, k =>
    let k' := w.derivedRound c l head last k
    if k' = k then k else w.derivedAt c l head last n k'

/-- A register that every pass through the body writes without a guard before the path leaves the loop. -/
def FWalk.surelyWritten (w : FWalk) (c : FSrc) (l : List FBody) (head last r : Nat) : Bool :=
  let ends := fun (pc : Nat) => (l.any fun b => b.pc == pc && writesSurely b.a b.v r) || decide (pc < head) || decide (last < pc)
  let seen := reachable (fun x => if ends x then [] else w.succs c x) [head]
  seen.all fun x => ends x || (w.succs c x).all fun y => decide (head ≤ y) && decide (y ≤ last)

/-- The loop's counter is known and lets it run more often than the unroll bound (R201, R324): nothing else in the body writes the
counter or leaves the loop. -/
def FWalk.exceeds (w : FWalk) (c : FSrc) (p : FPath) (head last : Nat) : Bool :=
  match w.fetch c last with
  | .ok _ (.ok (a, _)) =>
    let r := (AR.of a).rd.toNat
    let others := (List.range ((last - head) / 16)).all fun i =>
      match w.fetch c (head + 16 * i) with
      | .ok _ (.ok (x, v)) =>
        let op := opOf x
        let t := abTarget x (head + 16 * i)
        !(writesA x ++ writesV v).contains r && !isEnd op && (!isXfer op || (decide (head ≤ t) && decide (t ≤ last)))
      | _ => false
    opOf a == 0x47 && fld a 52 4 == 0 && others && (match p.get r with
      | some n => decide (c.ub < (if n = 0 then 2 ^ 64 else n))
      | none => false)
  | _ => false

/-- The residual of a rolled body's bundles (R320, R324), with the labels of its bundles from base up and of the ways out: call and
lx evaluate against the source's own addresses. A bundle that no path reaches stands as its source words. -/
def rolledItems (base head last : Nat) (outs : List (Nat × Nat)) (idx : Nat → Nat) (l : List FBody) : List FItem :=
  l.flatMap fun b =>
    let here : FItem := .lab (base + (b.pc - head) / 16)
    match b.bad with
    | some code => [here, codeA (trapWord 0 none 0 code (idx b.pc))]
    | none =>
      let f := AR.of b.a
      let op := opOf b.a
      let rdV := readsV b.v ++ guardReads b.v
      if b.raw.isSome then [here, .code (b.raw.getD (0, 0)).1 (b.raw.getD (0, 0)).2 .none]
      else if isXfer op then
        let t := abTarget b.a b.pc
        let n := if head ≤ t ∧ t ≤ last ∧ (t - head) % 16 = 0 then base + (t - head) / 16
          else ((outs.find? fun o => o.1 == t).map fun o => o.2).getD 0
        [here, .code (setFld b.a 0 32 0) b.v (.label n)]
      else if op = 0x43 then
        let j : AR := { pn := f.pn, pg := f.pg, rd := 15, ra := 15, ea := false, rb := 0, eb := false, fn := 0 }
        here :: withPre (liWords 15 (abTarget b.a b.pc) f.pn f.pg true) (j.bits 0x46) b.v [15] rdV .none true
      else if op = 0x2A then
        let v := (((b.pc : Int) + (AX.of b.a).imm.toInt) % ((2 ^ 57 : Nat) : Int)).toNat
        let ws := liWords f.rd.toNat v f.pn f.pg false
        here :: withPre ws.dropLast (ws.getLast?.getD 0) b.v [f.rd.toNat] rdV .none true
      else [here, .code b.a b.v .none]

/-! ### The walk -/

/-- The beginning of a path: its label in the residual, what it knows, where it is, whether only a bound makes the condition late that
leads to it or past it (R316). -/
structure FEntry where
  lab : Option Nat
  path : FPath
  pc : Nat
  bnd : Bool := false

/-- A stretch of the residual: its pieces, and the rejoin point with the path that arrives there, if one does. -/
structure FChunk where
  items : List FItem
  arr : Option (Nat × FPath) := none

/-- Pieces put before the first stretch. -/
def prepend (l : List FItem) : List FChunk → List FChunk
  | [] => [{ items := l }]
  | x :: r => { x with items := l ++ x.items } :: r

/-- A br to a label. -/
def brTo (n : Nat) : FItem :=
  let f : AB := { pn := false, pg := 0, rd := 0, ra := 0, ea := false, rb := 0, eb := false, cc := 0, off := 0 }
  .code (f.bits 0x40) 0 (.label n)

/-- The paths that arrive at a rejoin point. -/
def arrivals (j : Nat) (l : List FChunk) : List FPath := l.filterMap fun x => x.arr.bind fun y => if y.1 = j then some y.2 else none

/-- The stretches that arrive at a rejoin point are closed (R320): what one path alone knows is materialised, and a br leads to the
point unless the stretch runs on into it. -/
def closeAll (j lab : Nat) (joined : FPath) (dead : Nat → Bool) : FWalk → List FChunk → FWalk × List FChunk
  | w, [] => (w, [])
  | w, x :: r =>
    match x.arr with
    | some (pc, p) =>
      if pc = j then
        let need := inOrder (p.all.filter fun i => !joined.knows i)
        let (w, q, y) := FPath.puts w p 0 need dead need
        let br := if r = [] then [] else [brTo lab]
        let (w, l) := closeAll j lab joined dead { w with size := w.size + codes (y ++ br) } r
        (w, { items := x.items ++ y ++ br, arr := some (pc, q) } :: l)
      else
        let (w, l) := closeAll j lab joined dead w r
        (w, x :: l)
    | none =>
      let (w, l) := closeAll j lab joined dead w r
      (w, x :: l)

/-- A loop rolled from its first bundle on (R324): its pieces and the ways out of it, the fall-through first. -/
def FWalk.rolled (w : FWalk) (c : FSrc) (p : FPath) (head last : Nat) : FRes (List FItem × List FEntry) :=
  let count := (last - head) / 16 + 1
  let all := (List.range count).flatMap fun i => match w.fetch c (head + 16 * i) with
    | .ok _ (.ok (a, v)) => writesA a ++ writesV v
    | _ => []
  let t := w.flow c (fun x => decide (x < head) || decide (last < x)) 262144 [(head, p.late all all)] []
  (w.body c (fun x => (Tab.find t x).isSome) count head).then fun w l =>
    let wr := inOrder (bodyWrites l)
    let calls := l.any fun b => isCall (opOf b.a)
    let moves := l.any fun b => isMove (opOf b.a)
    let leaves := calls || moves || l.any fun b => isEnd (opOf b.a) || opOf b.a == 0xB0
    let k0 : FKnow := l.foldl (fun k b => Tab.put k b.pc (if b.pc = head then (List.range 56).filter p.derivable else List.range 56)) []
    let k := w.derivedAt c l head last (56 * l.length + 1) k0
    let off := fun (half : Word) => p.guard half == some false && (guardReads half).all fun r => !wr.contains r
    let marksBad := fun (b : FBody) =>
      let d := Tab.findD k b.pc []
      !marksOk ((if off b.a then [] else marksA b.a) ++ (if off b.v then [] else marksV b.v)) (derivedIn d)
    match l.find? marksBad with
    | some b => .fault w (c.bad 3 (c.index b.pc))
    | none =>
      let need := if leaves then p.all
        else p.all.filter fun r => (bodyReads l).contains r || (wr.contains r && !w.surelyWritten c l head last r)
      let (w, q, pre) := FPath.puts w p 0 need (w.dead c head) (inOrder need)
      let base := w.lab
      let targets := inOrder ((l.filter fun b => b.bad.isNone && isXfer (opOf b.a)).map fun b => abTarget b.a b.pc)
      let outs := (targets.filter fun t => !(decide (head ≤ t) && decide (t ≤ last))).zipIdx.map fun o => (o.1, base + l.length + o.2)
      let w := { w with
        lab := base + l.length + outs.length
        flags := (w.flags ||| 2 ^ 3) ||| (if l.any fun b => b.bad.isSome then 2 ^ 5 else 0) }
      let open_ := l.any fun b => b.late (Tab.findD k b.pc []) && b.leaves head last
      let at_ := fun (x : Nat) =>
        let ds := (l.filter fun b => (w.succs c b.pc).contains x).map fun b => b.derived (Tab.findD k b.pc [])
        if open_ then [] else wr.filter fun r => ds.all fun d => d.contains r
      let out := fun (lab : Option Nat) (x : Nat) =>
        let q := if calls then q.wiped else q.late (wr ++ (if moves then (List.range 32).map fun i => 24 + i else [])) (at_ x)
        ({ lab := lab, path := { q with loops := q.loops.filter fun y => !(y.head == head && y.last == last) }, pc := x,
           bnd := !open_ } : FEntry)
      let fall := (last + 16) % 2 ^ 57
      let falls := match l.getLast? with
        | some b => b.bad.isNone && !(fld b.a 52 4 == 0 && (opOf b.a == 0x40 || isEnd (opOf b.a)))
        | none => true
      let first : List FEntry := if falls then [out ((outs.find? fun o => o.1 == fall).map fun o => o.2) fall] else []
      let others : List FEntry := (outs.filter fun o => !(falls && o.1 == fall)).map fun o => out (some o.2) o.1
      let items := pre ++ rolledItems base head last outs c.index l
      .ok { w with size := w.size + codes items } (items, first ++ others)

/-- The outermost loop that begins at a bundle and that a path is not in yet: its last bundle. -/
def FSrc.outermost (c : FSrc) (p : FPath) (pc : Nat) : Option Nat :=
  (c.heads.filter fun h => h.1 == pc && !p.loops.any fun l => l.head == h.1 && l.last == h.2).foldl (fun b h => some (max h.2 (b.getD 0))) none

/-- A fold comes to a generic residual: past a bound on size (R324), or for want of a register (assumption log 38). -/
def FWalk.over (w : FWalk) : Bool := w.stuck || decide (4096 < w.size)

/-- The walk (R316, R320, R324, R335) of paths in order, up to the rejoin points given; n bounds its recursion. A loop that turns out to be
rolled gives back the steps and the bundles of its passes (17_prog_handles.md counts nine); past a bound on them before that, the fold
is generic (assumption log 38). -/
def walkAll (c : FSrc) : Nat → FWalk → List FEntry → List Nat → FRes (List FChunk)
  | 0, w, _, _ => .big w
  | n + 1, w, es, stops =>
    if w.over then .big w else
    match es with
    | [] => .ok w []
    | [e] =>
      let pc := e.pc
      let p := { e.path with loops := e.path.loops.filter fun l => decide (l.head ≤ pc) && decide (pc ≤ l.last) }
      let lab : List FItem := match e.lab with
        | some l => [.lab l]
        | none => []
      if stops.contains pc then .ok w [{ items := lab, arr := some (pc, p) }]
      else
        let step := fun (w : FWalk) (p : FPath) =>
          (w.bundle c p pc).then fun w (x : List FItem × FPath × FNext) =>
            let (items, q, nx) := x
            let on := fun (w : FWalk) (q : FPath) (t : Nat) =>
              (walkAll c n w [{ lab := none, path := q, pc := t }] stops).then fun w r => .ok w (prepend (lab ++ items) r)
            match nx with
            | .stop => .ok w [{ items := lab ++ items }]
            | .fall => on w q ((pc + 16) % 2 ^ 57)
            | .goto t => on w q t
            | .back t =>
              let here := fun (l : FLoop) => l.head == t && l.last == pc
              match q.loops.find? here with
              | none => on w q t
              | some l =>
                if c.ub < l.iters + 1 then .roll w t pc
                else on w { q with loops := q.loops.map fun y => if here y then { y with iters := y.iters + 1 } else y } t
            | .split l t bnd =>
              (walkAll c n w [{ lab := none, path := q, pc := (pc + 16) % 2 ^ 57, bnd := bnd },
                              { lab := some l, path := q, pc := t, bnd := bnd }] stops).then
                fun w r => .ok w (prepend (lab ++ items) r)
        let roll := fun (w : FWalk) (last : Nat) =>
          (w.rolled c p pc last).then fun w x => (walkAll c n w x.2 stops).then fun w r => .ok w (prepend (lab ++ x.1) r)
        match c.outermost p pc with
        | none => step w p
        | some last =>
          if w.exceeds c p pc last then roll w last
          else
            match walkAll c n w [{ e with path := { p with loops := { head := pc, last := last, iters := 1 } :: p.loops } }] stops with
            | .roll w' h l =>
              if h ≠ pc ∨ l ≠ last then .roll w' h l
              else roll { w' with flags := w.flags ||| (w'.flags &&& 2 ^ 9), pool := w.pool, steps := w.steps, size := w.size } last
            | r => r
    | e :: rest =>
      let j := w.meet c e.path.loops (e.pc, e.path) (rest.map fun x => (x.pc, x.path))
      let st := match j with
        | some j => if stops.contains j then stops else j :: stops
        | none => stops
      (walkAll c n w [e] st).then fun w c1 =>
        (walkAll c n w rest st).then fun w c2 =>
          let l := c1 ++ c2
          match j with
          | none => .ok w l
          | some j =>
            if stops.contains j then .ok w l
            else
              match arrivals j l with
              | [] => .ok w l
              | ps =>
                let lab := w.lab
                let (w, l) := closeAll j lab (joinPaths e.bnd ps) (w.dead c j) { w with lab := lab + 1 } l
                (walkAll c n w [{ lab := some lab, path := joinPaths e.bnd (arrivals j l), pc := j }] stops).then
                  fun w r => .ok w ((l.map fun x => if x.arr.any fun y => y.1 == j then { x with arr := none } else x) ++ r)

/-! ### The residual's image -/

/-- The labels' places, in bundles, from a bundle on. -/
def labelTab : List FItem → Nat → Tab Nat
  | [], _ => []
  | .lab n :: r, i => Tab.put (labelTab r i) n i
  | .code _ _ _ :: r, i => labelTab r (i + 1)

/-- The bundles with their transfers and constants in place; the pool stands at a byte from the first bundle. -/
def placed (labs : Tab Nat) (pool : Nat → Nat) : List FItem → Nat → List (Word × Word)
  | [], _ => []
  | .lab _ :: r, i => placed labs pool r i
  | .code a v f :: r, i =>
    let a := match f with
      | .none => a
      | .addr _ => a
      | .label n => a ||| ((BitVec.ofInt 32 (((Tab.findD labs n 0 : Nat) : Int) - (i : Int))).setWidth 64)
      | .pool n => a ||| BitVec.ofNat 64 (pool n - 16 * i)
    (a, v) :: placed labs pool r (i + 1)

/-- The constant pool's bytes. -/
def poolBytes (l : List (Nat × Nat)) : List Byte := l.flatMap fun x => bytesOfNat 64 x.2 |>.take 64

/-- What a fold makes: bundles, pool, flags; or the fault of spec. -/
structure FImage where
  image : List (Word × Word) := []
  pool : List Byte := []
  flags : Nat := 0
  fault : Option FaultInfo := none
deriving DecidableEq, Repr

/-- A generic residual (R324): a prologue that materialises each early register, then a br to the source's entry, whose distance is
filled in where the image lies. -/
def genericImage (r : FoldReq) (flags : Nat) : FImage :=
  let regs := (List.range 8).filter fun i => r.em / 2 ^ i % 2 == 1
  let pro := regs.flatMap fun i => (liWords (i + 1) (r.g.getD i 0).toNat false 0 false).map fun w => (w, (0 : Word))
  let f : AB := { pn := false, pg := 0, rd := 0, ra := 0, ea := false, rb := 0, eb := false, cc := 0, off := 0 }
  { image := pro ++ [(f.bits 0x40, 0)], flags := 2 ^ 4 + (flags &&& 2 ^ 9) }

/-- The loops of a source, one for each backward transfer among the bundles that can be reached: its target and the transfer (R320). -/
def FWalk.headsOf (w : FWalk) (c : FSrc) (seen : List Nat) : List (Nat × Nat) :=
  seen.filterMap fun pc =>
    match w.fetch c pc with
    | .ok _ (.ok (a, _)) =>
      let t := abTarget a pc
      if isXfer (opOf a) ∧ t ≤ pc ∧ c.base ≤ t ∧ (t - c.base) % 16 = 0 then some (t, pc) else none
    | _ => none

/-- A fold of a source (R315 to R326): the walk's state with the image, or what it waits for. -/
def foldWalk (s : State) (c0 : FSrc) (vals : List Loaded) : FRes FImage :=
  (FWalk.scan { s := s, vals := vals } c0 262144 [c0.base] []).then fun w0 seen =>
    let c := { c0 with heads := w0.headsOf c0 seen }
    let r := c.req
    let known := (List.range 8).foldl (fun (k : Tab Nat) i =>
      if r.em / 2 ^ i % 2 = 1 then Tab.put k (i + 1) (r.g.getD i 0).toNat else k) []
    match walkAll c (2 ^ 40) w0 [{ lab := none, path := { known := known }, pc := c.base }] [] with
    | .ok w l =>
      let items := l.flatMap fun x => x.items
      let n := codes items
      if 4096 < n ∨ w.over then .ok w (genericImage r w.flags)
      else
        let base := (16 * n + 63) / 64 * 64
        .ok w {
          image := placed (labelTab items 0) (fun i => base + 64 * i) items 0
          pool := poolBytes w.pool
          flags := w.flags }
    | .big w => .ok w (genericImage r w.flags)
    | .fault w f => .ok w { fault := some f }
    | .roll w _ _ => .ok w (genericImage r w.flags)
    | .page w d va k => .page w d va k
    | .foot w => .foot w

end Sys2Proof.Machine
end

