-- ==== Sys2Proof/Machine/EvFold.lean ====
section
/-! DEFINITION. Events of folding and of handles: a fold starts and completes (R22, R323, R327), updates of handle entries (R328), the
depot's images (R330, R437 to R442). -/

namespace Sys2Proof.Machine

/-! ### Depot keys and images (R438, R440) -/

/-- The unroll bound in force: the mask word's, or the tenant's default (R315). -/
def State.boundOf (s : State) (ten ub : Nat) : Nat := if ub = 0 then (s.tenantWord ten 2).toNat else ub

/-- The depot key of a fold (R438), as ten words. -/
def depotKey (ten em ub : Nat) (hash : Word) (g : List Word) : List Word :=
  [BitVec.ofNat 64 (ten + 2 * 2 ^ 8 + em * 2 ^ 12 + ub * 2 ^ 20), hash] ++
    (List.range 8).map fun i => if em / 2 ^ i % 2 = 1 then g.getD i 0 else 0

/-- The bytes of words, least significant first. -/
def bytesOfWords (l : List Word) : List Byte := l.flatMap fun w => bytesOfNat 8 w.toNat

/-- MiB that an image takes in the depot, with its key, rounded up: DESIGN CHOICE (assumption log 79). -/
def Image.mib (i : Image) : Nat := ceilDiv (16 * i.body.length + 80) (2 ^ 20)
/-- The tenant of an image. -/
def Image.ten (i : Image) : Nat := fld (i.key.headD 0) 0 6
/-- MiB held by a tenant's kept images, IUSED (R437). -/
def Hub.iused (h : Hub) (t : Nat) : Nat := (h.images.filter fun i => i.ten == t).foldl (fun a i => a + i.mib) 0
/-- The tenant's image quota, IQUOTA. -/
def State.iquota (s : State) (t : Nat) : Nat := fld (s.tenantWord t 15) 0 16

/-- The tenant's image with the oldest last hit, on equal hits the oldest written (R440). -/
def Hub.oldestImage (h : Hub) (t : Nat) : Option Image :=
  (h.images.filter fun i => i.ten == t).foldl (fun b i =>
    match b with
    | none => some i
    | some x => if i.hit < x.hit ∨ (i.hit = x.hit ∧ i.wrote < x.wrote) then some i else some x) none

/-- Images of a tenant evicted until so many MiB more fit under a quota (R440). -/
def Hub.evict (h : Hub) (t quota more : Nat) : Nat → Hub
  | 0 => h
  | n + 1 =>
    if h.iused t + more ≤ quota then h
    else
      match h.oldestImage t with
      | none => h
      | some x => Hub.evict { h with images := h.images.filter fun i => i.key != x.key } t quota more n

/-- An entry's status bits that a fold sets: ELOAD, FROMDEPOT, DEFERRED, GENERIC, ROLLED (R313). -/
def foldBits : Nat := 2 ^ 9 + 2 ^ 8 + 2 ^ 5 + 2 ^ 4 + 2 ^ 3

/-! ### The fold -/

/-- The fold in progress changed. -/
def State.modFold (s : State) (cl : Nat) (f : FoldRes → FoldRes) : State :=
  s.modCluster cl fun q => { q with folding := q.folding.map f }

/-- A fold's depot key, once its source's HASH is read. -/
def State.foldKey (s : State) (r : FoldReq) : List Word :=
  let t := bindTen r.org.bind
  let hash := match s.entryAddr t r.handle with
    | some a => s.mem64 (a + 24)
    | none => 0
  depotKey t r.em (s.boundOf t r.ub) hash r.g

/-- A lookup of the depot (R327, R439, R441): a kept, persistent image whose tag verifies; one that fails is erased. -/
def State.depotLookup (s : State) (key : List Word) : State × Option Image :=
  match s.hub.images.find? fun i => i.key == key && i.persistent with
  | none => (s, none)
  | some i =>
    if i.intact then
      (s.modHub fun h => { h with images := h.images.map fun x => if x.key = key then { x with hit := s.cycle } else x }, some i)
    else (s.modHub fun h => { h with images := h.images.filter fun x => x.key != key }, none)

/-- The walk of the fold in progress, from its source's entry, with what it has loaded so far (R316 to R327). A kept image holds its
bundles, and from the next 64-byte boundary its constant pool (R330, R440). -/
def State.foldRun (s : State) (cl : Nat) (x : FoldRes) : State :=
  let r := x.req
  let t := bindTen r.org.bind
  let key := s.foldKey r
  match s.depotLookup key with
  | (s, some i) =>
    s.modFold cl fun y => { y with
      walked := true, key := key, image := i.body.take i.size
      pool := (i.body.drop (4 * ceilDiv i.size 4)).flatMap fun w => bytesOfNat 8 w.1.toNat ++ bytesOfNat 8 w.2.toNat
      flags := i.flags + 2 ^ 8 }
  | (s, none) =>
    let a := (s.entryAddr t r.handle).getD 0
    let size := fld (s.mem64 (a + 16)) 0 32
    let src : FSrc := {
      req := r, cl := cl, base := ptrAddr (s.mem64 a), size := size, heads := [], ub := s.boundOf t r.ub, refused := x.refused }
    let before := s
    match foldWalk s src x.vals with
    | .ok w i =>
      w.s.modFold cl fun y => { y with
        walked := true, key := key, image := i.image, pool := i.pool, flags := i.flags, fault := i.fault }
    | .page w d va k =>
      let asked := (w.s.pageRequest d t r.org.core va k (.fold cl)).getD (before.holdRequest d t r.org.core va k (.fold cl))
      (asked.modFold cl fun y => { y with vals := w.done }).modCluster cl fun q => { q with foldPaged := true }
    | .foot w => w.s.modFold cl fun y => { y with vals := w.done }
    | _ => before

/-- The folding unit takes the next queued request, or goes on with a fold that waited (R22, R321). -/
def execFoldStart (cl : Nat) (s : State) : Host.Outcome State Fault Refusal :=
  .next (
    let q := s.cluster cl
    match q.folding with
    | some x => if x.walked ∨ q.foldPaged ∨ x.ending.isSome then s else s.foldRun cl x
    | none =>
      match q.folds with
      | [] => s
      | r :: l =>
        let x : FoldRes := { req := r }
        (s.modCluster cl fun q => { q with folds := l, folding := some x, foldPaged := false }).foldRun cl x)

/-- The answer of the unit reaches the spec that waits (R315, R327). -/
def State.foldReply (s : State) (o : Origin) (a : FoldAns) : State :=
  match s.bound o with
  | none => s
  | some _ => (s.modThr o.core o.slot fun t => { t with foldAns := some a }).wake o.core o.slot

/-- Free space of a code arena (R327): the lowest boundary of so many bytes from which the image fits. -/
def State.arenaSpace (s : State) (t align n : Nat) : Option Nat :=
  let base := (s.tenantWord t 10).toNat
  let top := base + (s.tenantWord t 11).toNat
  let used := s.hub.arenas.filter fun r => r.ten == t
  let starts := (base + align - 1) / align * align :: used.map fun r => (r.lo + r.bytes + align - 1) / align * align
  let ok := fun (a : Nat) => decide (base ≤ a) && decide (a + n ≤ top) &&
    used.all fun r => decide (a + n ≤ r.lo) || decide (r.lo + r.bytes ≤ a)
  (starts.filter ok).foldl (fun b a =>
    match b with
    | none => some a
    | some x => some (min x a)) none

/-- A FREE entry of a tenant's table (R313, R327): the lowest, DESIGN CHOICE (assumption log 78). -/
def State.freeEntry (s : State) (t : Nat) : Option Nat :=
  let base := (s.tenantWord t 0).toNat
  (List.range (fld (s.tenantWord t 1) 0 24)).find? fun i => i != 0 && fld (s.mem64 (base + 32 * i + 8)) 0 2 == 0

/-- The image as it lies at an address: a generic residual's br leads to the source's entry (R324); none beyond OFF32 (R326). -/
def FoldRes.imageAt (x : FoldRes) (va base : Nat) : Option (List (Word × Word)) :=
  if x.flags / 2 ^ 4 % 2 = 1 then
    let n := x.image.length - 1
    let d : Int := ((base : Int) - ((va + 16 * n : Nat) : Int)) / 16
    if -(2 ^ 31 : Int) ≤ d ∧ d < 2 ^ 31 then
      some (x.image.take n ++ (x.image.drop n).map fun p => (p.1 ||| (BitVec.ofInt 32 d).setWidth 64, p.2))
    else none
  else some x.image

/-- The fold in progress is over, and its answer goes to the spec (R327). -/
def State.foldEnd (s : State) (cl : Nat) (x : FoldRes) (a : FoldAns) : State :=
  ((s.modCluster cl fun q => { q with folding := none, foldPaged := false }).usedUp (Waiter.fold cl).who).foldReply x.req.org a

/-- The fold has come to its end with an answer (R327): the source is unpinned unless a generic residual keeps the pin, and then the
answer goes out. -/
def State.foldDone (s : State) (cl : Nat) (x : FoldRes) (a : FoldAns) : State :=
  let keeps := match a with
    | .ok _ => x.flags / 2 ^ 4 % 2 == 1
    | _ => false
  if keeps then s.foldEnd cl x a
  else (s.modFold cl fun y => { y with ending := some (s.fresh, a) }).sendUnpin x.req.org x.req.handle

/-- An unpin has been performed: the fold that it was the end of answers (R327). -/
def State.foldUnpinned (s : State) (cl m : Nat) : State :=
  match (s.cluster cl).folding with
  | none => s
  | some x =>
    match x.ending with
    | some (i, a) => if i = m then s.foldEnd cl x a else s
    | none => s

/-- The image written into the tenant's code arena, fenced at MODULE, and its entry allocated (R313, R327). A fold that only seeks the
faults of spec ends before the writes (R156). -/
def State.install (s : State) (cl : Nat) (x : FoldRes) : State :=
  let r := x.req
  let t := bindTen r.org.bind
  let fail := fun (s : State) (code reason : Nat) => s.foldDone cl x (.fault (handleFault code r.handle reason))
  let pad := List.replicate (if x.pool = [] then 0 else (16 * x.image.length + 63) / 64 * 64 - 16 * x.image.length) (0 : Byte)
  let bytes := 16 * x.image.length + pad.length + x.pool.length
  let src := match s.entryAddr t r.handle with
    | some a => ptrAddr (s.mem64 a)
    | none => 0
  match s.arenaSpace t (if x.pool = [] then 16 else 64) bytes with
  | none => fail s 0x0D 1
  | some va =>
    match s.freeEntry t with
    | none => fail s 0x0D 2
    | some idx =>
      match x.imageAt va src with
      | none => fail s 0x0D 3
      | some img =>
        let code := img.flatMap fun p => bytesOfNat 8 p.1.toNat ++ bytesOfNat 8 p.2.toNat
        let e : EngCtx := { org := r.org, core := r.org.core, ten := t, waiter := .fold cl,
                            refused := x.refused.find? fun p => decide (va / 4096 ≤ p) && decide (p ≤ (va + bytes) / 4096) }
        if r.check then s.foldDone cl x .clean
        else
        match s.engWrite e (.virt va) (code ++ pad ++ x.pool) with
        | .page _ d v k =>
          ((s.pageRequest d t r.org.core v k (.fold cl)).getD (s.holdRequest d t r.org.core v k (.fold cl))).modCluster cl fun q =>
            { q with foldPaged := true }
        | .far s l => s.askFor e l
        | .fault _ _ _ => fail s 0x0D 1
        | .ok s1 _ =>
          let mine := fun (y : CodeStore) => y.uid == r.org.uid && y.fenced.isNone
          let s1 := { s1.bump with codeLog := s1.codeLog.map fun y => if mine y then { y with fenced := some s1.fresh } else y }
          let a := (s.tenantWord t 0).toNat + 32 * idx
          let gen := fld (s1.mem64 (a + 8)) 32 8
          let w1 := gen * 2 ^ 32 + 2 ^ 10 + x.flags + 1
          let w2 := (zextW r.handle 32).toNat * 2 ^ 32 + img.length
          let hash := Config.sha384First8 (bytesOfWords x.key)
          let entry := bytesOfWords [BitVec.ofNat 64 va, BitVec.ofNat 64 w1, BitVec.ofNat 64 w2, hash]
          let s1 := ({ s1 with mem := Mem.writeN s1.mem a entry } : State).dropCopies a 32
          let s1 := s1.modHub fun h => { h with arenas := h.arenas ++ [{ ten := t, idx := idx, lo := va, bytes := bytes, key := x.key }] }
          s1.foldDone cl x (.ok (BitVec.ofNat 64 (gen * 2 ^ 24 + idx)))

/-- A fold completes (R326, R327): its fault, or its residual's entry, is answered to the spec. -/
def execFoldComplete (cl : Nat) (s : State) : Host.Outcome State Fault Refusal :=
  .next (
    let q := s.cluster cl
    match q.folding with
    | none => s
    | some x =>
      if !x.walked ∨ q.foldPaged ∨ x.ending.isSome then s
      else
        match x.fault with
        | some f => s.foldDone cl x (.fault f)
        | none => s.install cl x)

/-! ### Updates of entries -/

/-- An update of an entry at its home slice, one at a time (R328): the thread that waits for it is answered, and a fold whose end it was.
Operations 4 and 6 ask for the faults of a pin by callh and of a release without the update (R156). -/
def execHandleUpdate (m : Nat) (s : State) : Host.Outcome State Fault Refusal :=
  .next (match s.arrived m with
    | none => s
    | some x =>
      match x.body with
      | .handle h op =>
        let t := bindTen x.org.bind
        let s := s.drop m
        let back := fun (s : State) (a : Answer) => s.reply x.dst x.org m a
        match op with
        | 0 =>
          match s.pin t h with
          | (s, .ok code) => back s (.data code.toNat)
          | (s, .error f) => back s (.fault f)
        | 1 => back ((s.unpin t h).foldUnpinned (clusterOf x.org.core) m) (.data 0)
        | 4 =>
          match (s.pin t h).2 with
          | .ok code => back s (if fld code 0 4 = 0 then .data 0 else .fault { code := 0x02 })
          | .error f => back s (.fault f)
        | 6 => back s (match (s.releaseHandle t h).2 with
            | none => .data 0
            | some f => .fault f)
        | _ =>
          match s.releaseHandle t h with
          | (s, none) => back s (.data 0)
          | (s, some f) => back s (.fault f)
      | _ => s)

/-! ### Kept images (R330, R437 to R441) -/

/-- The bytes of a tenant's virtual memory as the hub reads them for a copy to the depot: none where they cannot be read. -/
def State.arenaBytes (s : State) (t lo n : Nat) : Option (List Byte) :=
  match s.hubRead t (BitVec.ofNat 64 lo) n with
  | .ok bs => some bs
  | .error _ => none

/-- Bytes as pairs of words. -/
def bundlesOf (bs : List Byte) (n : Nat) : List (Word × Word) := (List.range n).map fun i => (wordAt bs (2 * i), wordAt bs (2 * i + 1))

/-- The image of an hkeep becomes persistent (R137, R330, R440, R441): stored when it fits under the tenant's quota, room made by
the wear-aware replacement, and KEPT set; a second image of the same key is not stored again. It follows the thread's earlier
durable stores. -/
def execDepotImagePersist (m : Nat) (s : State) : Host.Outcome State Fault Refusal :=
  .next (match s.arrived m with
    | none => s
    | some x =>
      match x.body with
      | .depot h =>
        let t := bindTen x.org.bind
        let earlier := (s.net.takeWhile fun y => y.id != m).any fun y =>
          y.org.uid == x.org.uid && (match y.body with
            | .durable _ _ _ => true
            | _ => false)
        if earlier then s
        else
          let s := s.drop m
          match s.handleValid t h, s.hub.arenas.find? fun r => r.ten == t && r.idx == handleIdx h with
          | some a, some r =>
            let w := s.mem64 (a + 8)
            let keep := fun (s : State) => s.putEntry a (w ||| (1 <<< 6))
            match s.arenaBytes t r.lo r.bytes with
            | none => s
            | some bs =>
              let s := s.hubUsed t (BitVec.ofNat 64 r.lo) r.bytes .read
              let i : Image := {
                key := r.key, body := bundlesOf bs (ceilDiv r.bytes 16), size := fld (s.mem64 (a + 16)) 0 32
                flags := w.toNat &&& (2 ^ 5 + 2 ^ 3), wrote := s.cycle, hit := s.cycle }
              if s.hub.images.any fun y => y.key == r.key then keep s
              else if s.iquota t < i.mib then s
              else
                keep (s.modHub fun q =>
                  let q := q.evict t (s.iquota t) i.mib (q.images.length + 1)
                  { q with images := q.images ++ [i] })
          | _, _ => s
      | _ => s)

end Sys2Proof.Machine
end

