-- ==== Sys2Proof/Machine/EvTrans.lean ====
section
/-! DEFINITION. Events of translation: walks and page requests (R392 to R400), frames (R404, R405), shootdowns (R401 to R403). -/

namespace Sys2Proof.Machine

/-! ### Waiters of a page (R398 to R400) -/

/-- A thread that waits for a walk or a page re-enters. -/
def State.wakeWalk (s : State) (c k uid : Nat) : State :=
  match s.thr c k with
  | none => s
  | some t =>
    match t.st with
    | .waiting .walk false => if t.uid = uid then s.wake c k else s
    | _ => s

/-- A thread's walk is answered with a fault, which its bundle takes when it reissues. -/
def State.faultWalk (s : State) (c k uid : Nat) (va : Word) (f : FaultInfo) : State :=
  match s.thr c k with
  | none => s
  | some t =>
    match t.st with
    | .waiting .walk false =>
      if t.uid = uid then
        (s.modThr c k fun t => { t with acc := some { id := 0, addr := va, since := s.cycle, ans := .fault f } }).wake c k
      else s
    | _ => s

/-- The intake's writes and argument reads that wait for a page of a tenant (R379, R460): they are performed, or dropped with their
fault. -/
def State.intakePage (s : State) (ten page : Nat) (refused : Bool) (f : FaultInfo) : State :=
  let here := fun (w : IntakeWrite) => w.paged && w.ten == ten && ptrAddr w.addr / 4096 == page
  let ws := s.hub.writes.filter here
  let s := s.modHub fun h => { h with writes := h.writes.filter fun w => !here w }
  let s := ws.foldl (fun s w => if refused then s.intakeDrop w f.code else s.intakeWrite { w with paged := false }) s
  s.modHub fun h => { h with launches := h.launches.map fun l =>
    if l.ten ≠ ten then l
    else { l with waits := l.waits.map fun (x : Nat × RootWait) =>
      if x.2.paged ∧ ptrAddr (l.argAddr x.1) / 4096 = page then
        (x.1, if refused then { x.2 with paged := false, args := some [0, 0, 0, 0], argFault := some { f with addr := l.argAddr x.1, aux0 := 0 } }
              else { x.2 with paged := false, next := 0 })
      else x } }

/-- A submission whose record's page was answered is taken up again; a refused page is counted in it (R376). -/
def State.submissionPage (s : State) (m : Nat) (refused : Bool) : State :=
  s.modMsg m fun x => { x with stage := .arrived, refusals := if refused then 1 else x.refusals }

/-- A waiter's page has come (R399): the access is tried again and walks again. -/
def State.pageReady (s : State) (ten va : Nat) (w : Waiter) : State :=
  match w with
  | .thread c k uid => s.wakeWalk c k uid
  | .command c id => s.modCmd c id fun x => { x with paged := false }
  | .fold cl => s.modCluster cl fun q => { q with foldPaged := false }
  | .intake _ _ => s.intakePage ten (va / 4096) false { code := 0x04 }
  | .submit m => s.submissionPage m false

/-- A waiter's page is refused (R399): a thread parks with 0x04 and the address that it waits for, a command halts with it at the access that
waited, a fold ends with it, the intake drops its write or refuses its record. -/
def State.pageRefused (s : State) (ten va : Nat) (f : FaultInfo) (w : Waiter) : State :=
  match w with
  | .thread c k uid =>
    let addr := match s.thr c k with
      | some t => zextW t.w1 57
      | none => f.addr
    s.faultWalk c k uid addr { f with addr := addr }
  | .command c id => s.modCmd c id fun x => { x with paged := false, refused := some (va / 4096) }
  | .fold cl => (s.modCluster cl fun q => { q with foldPaged := false }).modCluster cl fun q =>
      { q with folding := q.folding.map fun r => { r with refused := r.refused ++ [va / 4096] } }
  | .intake _ _ => s.intakePage ten (va / 4096) true f
  | .submit m => s.submissionPage m true

/-! ### The walk (R392, R398) -/

/-- A page fault of a thread's access (R131, R398): the bundles of the chunk before it commit first; then the request is entered,
or held by the slice for 64 cycles while the table is full. A solo thread keeps its commit token while it waits: DESIGN CHOICE (assumption
log 91). -/
def State.pageFault (s : State) (x : Msg) (va : Nat) (kind : Kind) (w : Waiter) : State :=
  let enter := fun (s : State) =>
    match s.pageRequest (dieOf x.dst) x.ten x.org.core va kind w with
    | some s => s.drop x.id
    | none => s.again x.id
  match w with
  | .thread c k uid =>
    match s.thr c k with
    | none => s.drop x.id
    | some t =>
      if t.uid ≠ uid ∨ t.st ≠ .waiting .walk false then s.drop x.id
      else
        match t.chunk with
        | none => enter s
        | some ck =>
          if ck.count = 0 then enter (s.modThr c k fun t => { t with chunk := none })
          else
            let s := (s.drop x.id).askCommit c k
            match s.thr c k with
            | some t => if t.chunk.isNone then s.wake c k else s
            | none => s
  | _ => enter s

/-- The kind of a walk. -/
def kindOf (wr ex : Bool) : Kind := if ex then .exec else if wr then .write else .read

/-- A walk is made for a message (R392): the translation is filled and the waiter goes on, or the access faults, or a page request
is entered. -/
def State.walkFor (s : State) (x : Msg) (va : Nat) (wr ex : Bool) (w : Waiter) : State :=
  let kind := kindOf wr ex
  let s := s.walkTouch x.dst x.ten va
  match s.walkDone x.dst x.ten va kind with
  | .ok s => (s.drop x.id).pageReady x.ten va w
  | .error (some f) =>
    let f := if ex then { f with addr := BitVec.ofNat 64 va } else f
    match w with
    | .thread c k uid =>
      let addr := match s.thr c k with
        | some t => if ex then BitVec.ofNat 64 va else t.w1
        | none => 0
      (s.drop x.id).faultWalk c k uid addr f
    | _ => s.drop x.id
  | .error none => s.pageFault x va kind w

/-- A first slice completes a walk (R392). -/
def execPageWalk (m : Nat) (s : State) : Host.Outcome State Fault Refusal :=
  .next (match s.arrived m with
    | none => s
    | some x =>
      match x.body with
      | .walk va wr ex w => s.walkFor x va wr ex w
      | _ => s)

/-- A page request that found the table full, or no place for its record, is offered again after 64 cycles, without a new walk (R398); number
0 stands for the intake's writes that wait for a place for a record. -/
def execPageRequestResend (m : Nat) (s : State) : Host.Outcome State Fault Refusal :=
  .next (
    if m = 0 then
      let due := fun (w : IntakeWrite) => !w.paged && decide (w.next ≤ s.cycle)
      let ws := s.hub.writes.filter due
      ws.foldl (fun s w =>
        match w.drop with
        | some code => s.intakeDrop { w with drop := none } code
        | none => s.intakeWrite w) (s.modHub fun h => { h with writes := h.writes.filter fun w => !due w })
    else
      match s.due m with
      | none => s
      | some x =>
        match x.body with
        | .walk va wr ex w => s.pageFault x va (kindOf wr ex) w
        | _ => s)

/-- The office's ANSWER stored to an entry of a die's page request table (R399): every waiter goes on or faults, and the entry
frees. -/
def State.answerPage (s : State) (d x ans : Nat) : State :=
  if !s.pagePending d x then s
  else
    let s := s.agentPut (pageReq d x 2) (BitVec.ofNat 64 (ans % 4))
    if ans % 4 ≠ 1 ∧ ans % 4 ≠ 2 then s
    else
      let va := fld (s.mem64 (pageReq d x 0)) 0 57
      let w1 := s.mem64 (pageReq d x 1)
      let ten := fld w1 0 6
      let ws := Tab.findD (s.die d).pageWaiters x []
      let s := s.agentPut (pageReq d x 1) (setFld w1 32 2 0)
      let s := s.modDie d fun q => { q with pageWaiters := Tab.del q.pageWaiters x }
      let f : FaultInfo := {
        code := 0x04, addr := BitVec.ofNat 64 va,
        aux0 := BitVec.ofNat 64 ((if w1.getLsbD 7 then 1 else 0) + (if w1.getLsbD 8 then 2 else 0)) }
      ws.foldl (fun s w => if ans % 4 = 1 then s.pageReady ten va w else s.pageRefused ten va f w) s

/-- The office answers a page request (R399). -/
def execPageRequestAnswer (d x ans : Nat) (s : State) : Host.Outcome State Fault Refusal :=
  .next (if d < 4 ∧ x < 256 then s.answerPage d x ans else s)

/-- The wake of a page that a stop or HALT delivers to a thread at once (R400): its walks are abandoned, and it is no longer a
waiter. -/
def State.wakePage (s : State) (c k : Nat) : State :=
  match s.thr c k with
  | none => s
  | some t =>
    match t.st with
    | .waiting .walk _ =>
      let mine := fun (w : Waiter) => w == .thread c k t.uid
      let s : State := { s with
        net := s.net.filter fun m =>
          match m.body with
          | .walk _ _ _ w => !mine w
          | _ => true
        dies := s.dies.map fun (d : Nat × Die) =>
          (d.1, { d.2 with pageWaiters := d.2.pageWaiters.map fun (e : Nat × List Waiter) => (e.1, e.2.filter fun w => !mine w) }) }
      s.wake c k
    | _ => s

/-! ### Frames (R404, R405) -/

/-- The translations of a frame leave every slice (R404, R405). -/
def State.dropFrame (s : State) (d f : Nat) : State :=
  let base := d * Config.dieBytes + f * Config.frameBytes
  { s with cores := s.cores.map fun (x : Nat × Core) =>
      (x.1, { x.2 with tlb := x.2.tlb.filter fun e => !(e.attr.isSome && e.pa / Config.frameBytes == base / Config.frameBytes) }) }

/-- A line lies in a frame. -/
def inFrame (d f line : Nat) : Bool := 64 * line / Config.frameBytes == d * (Config.dieBytes / Config.frameBytes) + f

/-- The lines of a frame leave every L2 slice and every remote-data cache bank, without write-back (R405). -/
def State.dropLines (s : State) (d f : Nat) : State :=
  { s with
    cores := s.cores.map fun (x : Nat × Core) =>
      (x.1, { x.2 with l2 := x.2.l2.filter (fun l => !inFrame d f l.1), dirs := x.2.dirs.filter fun l => !inFrame d f l.1 })
    dies := s.dies.map fun (x : Nat × Die) => (x.1, { x.2 with bank := x.2.bank.filter fun l => !inFrame d f (l.1 / 4) }) }

/-- A tenant's USED on a die changed (R397). -/
def State.addUsed (s : State) (d t : Nat) (up : Bool) : State :=
  let w := s.mem64 (tenRec d t 2)
  let n := fld w 34 17
  s.agentPut (tenRec d t 2) (setFld w 34 17 (BitVec.ofNat 64 (if up then n + 1 else n - 1)))

/-- The lines of a die that lie in a slice which is no longer their home leave it (R104). -/
def State.settleHomes (s : State) (d : Nat) : State :=
  let home := fun (line : Nat) => s.homeOf (s.fat d (64 * line % Config.dieBytes / Config.frameBytes)) (64 * line)
  let settle := fun (x : Nat × Core) => { x.2 with l2 := x.2.l2.filter fun l => home l.1 == some x.1 }
  { s with cores := s.cores.map fun x => if dieOf x.1 = d then (x.1, settle x) else x }

/-- A store to a frame's attribute entry, checked against its STATE (R395, R404): reserved bits are not stored. -/
def State.writeFat (s : State) (d f : Nat) (v : Word) : State :=
  if Config.frames - 1 ≤ f ∨ 4 ≤ d then s
  else
    let e := s.fat d f
    let v := v &&& BitVec.ofNat 64 (2 ^ 36 - 2 ^ 10)
    let put := fun (s : State) (w : Word) => s.agentPut (fatAddr d f) w
    match fatState e, fatState v with
    | 0, 0 => (put s v).settleHomes d
    | 0, 1 =>
      let t := fatTen v
      let w := s.mem64 (tenRec d t 2)
      if fld w 34 17 < fld w 17 17 then (put (s.addUsed d t true) v).settleHomes d else s
    | 1, 1 =>
      if fatTen e ≠ fatTen v then s
      else
        let same := fatHom e = fatHom v ∧ fatMsk e = fatMsk v ∧ fatNcore e = fatNcore v
        if same then put s v else (put (s.dropFrame d f) v).settleHomes d
    | 1, 2 =>
      let s := (s.dropFrame d f).dropLines d f
      (put s (setFld e 34 2 2)).modDie d fun q => { q with scrubs := insertNat q.scrubs f }
    | _, _ => s

/-- A porter's store to a frame attribute table entry (R404). -/
def execFrameAttributeWrite (d f : Nat) (v : Word) (s : State) : Host.Outcome State Fault Refusal := .next (s.writeFat d f v)

/-- A frame has been zeroed (R405): it is FREE, and its tenant's USED falls. While its vault takes a pre-emption save the zeroing pauses (R450). -/
def execFrameScrubComplete (d f : Nat) (s : State) : Host.Outcome State Fault Refusal :=
  .next (
    let e := s.fat d f
    if fatState e ≠ 2 ∨ !(s.die d).scrubs.contains f ∨ s.saving (256 * d + f % 256) then s
    else
      let base := d * Config.dieBytes + f * Config.frameBytes
      let inside := fun (a : Nat) => decide (base ≤ a) && decide (a < base + Config.frameBytes)
      let s : State := { s with
        mem := Mem.clear s.mem base Config.frameBytes
        poison := s.poison.filter fun x => !inside (32 * x)
        upsets := s.upsets.filter fun x => !inside (32 * x)
        codeLog := s.codeLog.filter fun x => !inside x.addr }
      let s := (s.dropFrame d f).dropLines d f
      let s := s.agentPut (fatAddr d f) (setFld (setFld e 34 2 0) 27 6 0)
      (s.addUsed d (fatTen e) false).modDie d fun q => { q with scrubs := q.scrubs.filter fun x => x != f })

/-! ### Shootdowns (R401 to R403) -/

/-- A shootdown's descriptor as it stands in the ring (R401). -/
structure ShootDesc where
  va : Nat
  pages : Nat
  asid : Nat
  all : Bool

/-- The descriptor matches a translation (R402): by tenant, address space and range; a leaf is matched by any page of it. -/
def ShootDesc.hits (q : ShootDesc) (t : Nat) (e : Tlb) : Bool :=
  let lo := e.vpn * 2 ^ e.shift / 2 ^ e.leaf * 2 ^ e.leaf
  e.ten == t && (q.all || e.asid == q.asid) &&
    (q.pages == 0 || (decide (lo < q.va + 4096 * q.pages) && decide (q.va < lo + 2 ^ e.leaf)))

/-- The matching translations leave a porter's TLB whose satp holds the ASID (R402), with G any porter's. -/
def Hart.shoot (h : Hart) (q : ShootDesc) : Hart :=
  if q.all ∨ fld (Tab.findD h.csr 0x180 (0 : Word)) 44 16 = q.asid then
    { h with tlb := h.tlb.filter fun e =>
        let lo := e.vpn * 2 ^ e.shift % 2 ^ 57
        !((q.all || e.global || e.asid == q.asid) &&
          (q.pages == 0 || (decide (lo < q.va + 4096 * q.pages) && decide (q.va < lo + 2 ^ e.shift)))) }
  else h

/-- The host's interrupt asks for a shootdown (R401, R402): the descriptor is read, the matching translations leave every slice and the
porters' TLBs, the open chunks of the tenant are squashed without counting; the completion waits for the accesses already translated. -/
def execShootdownRequest (t n : Nat) (s : State) : Host.Outcome State Fault Refusal :=
  .next (
    if n = 0 ∨ 64 < n ∨ 64 ≤ t then s
    else
      let a := s.fromHost 0 t ((s.mem64 (tenRec 0 t 4)).toNat + 32 * (n - 1))
      let w1 := s.mem64 (a + 8)
      let q : ShootDesc := { va := fld (s.mem64 a) 0 57, pages := fld w1 0 32, asid := fld w1 32 16, all := w1.getLsbD 63 }
      let s : State := { s with
        cores := s.cores.map fun (x : Nat × Core) => (x.1, { x.2 with tlb := x.2.tlb.filter fun e => !q.hits t e })
        porters := s.porters.map fun (x : Nat × Porter) => (x.1, { x.2 with hart := x.2.hart.shoot q }) }
      let open_ := s.threads.filter fun x => bindTen x.2.bind == t && x.2.chunk.isSome
      let s := open_.foldl (fun s x => s.squashChunk (x.1 / 16) (x.1 % 16) false) s
      s.bump.modHub fun h => { h with shoots := h.shoots ++ [{
        ten := t, word := s.mem64 (a + 16), val := s.mem64 (a + 24), mark := s.fresh }] })

/-- An access of a tenant translated before a number was given, not yet performed. -/
def State.accessBefore (s : State) (t mark : Nat) : Bool :=
  (s.net.any fun m => m.ten == t && decide (m.id < mark) && (match m.body with
    | .access _ _ _ _ => true
    | .rfill _ _ _ _ _ => true
    | .bulk who _ _ _ => who != 0
    | _ => false)) ||
  s.unacked.any fun u => decide (u.num < mark) && bindTen u.org.bind == t

/-- The oldest shootdown of a tenant is complete once every access translated before it is performed (R402): its value is stored to
its completion word. -/
def execShootdownComplete (t : Nat) (s : State) : Host.Outcome State Fault Refusal :=
  .next (match s.hub.shoots.find? fun x => x.ten == t with
    | none => s
    | some q =>
      if s.accessBefore t q.mark then s
      else
        let s := s.modHub fun h => { h with shoots := dropFirst (fun (x : Shoot) => x.ten == t) h.shoots }
        s.perform { bind := BitVec.ofNat 64 (t * 2 ^ 26) } none (s.fromHost 0 t q.word.toNat) (bytesOfNat 8 q.val.toNat))

end Sys2Proof.Machine
end

