-- ==== Sys2Proof/Machine/EvPorter.lean ====
section
/-! DEFINITION. Porters and fault records (R361 to R374): the delivery of records, the device registers that a porter selects,
RESUME, END, HALT and STEP, a porter's accesses to the physical map. -/

namespace Sys2Proof.Machine

/-! ### Records (R369, R370) -/

/-- The eight words of a record as it lies in memory (R369); a page request's copy has its own (R398). -/
def Record.words (r : Record) : List Word :=
  match r.raw with
  | [] =>
    let th := r.slot % 16 + (if r.redir then 64 else 0) + (if r.orphan then 128 else 0)
    [BitVec.ofNat 64 (r.code + th * 2 ^ 8 + r.core % 2 ^ 14 * 2 ^ 16 + r.ten % 64 * 2 ^ 32 + r.cls % 4 * 2 ^ 40),
     r.pc, r.a, r.v, r.addr, r.aux0, r.aux1, BitVec.ofNat 64 r.stamp]
  | l => l

/-- LSIZE of a mailbox word. -/
def Mbox.lsize (m : Mbox) : Nat := fld m.w0 18 4
/-- EN of a mailbox word. -/
def Mbox.en (m : Mbox) : Bool := m.w0.getLsbD 22
/-- The mailbox is full (R370). -/
def Mbox.full (m : Mbox) : Bool := (m.wr + 2 ^ 32 - m.rd) % 2 ^ 32 == 2 ^ m.lsize

/-- A mailbox of a core. -/
def State.mailbox (s : State) (c m : Nat) : Mbox := Tab.findD (s.core c).mbox m {}

/-- The local interrupt 16 of a porter is pending (R361, R370): its record queue holds a record, or an enabled mailbox of its core has WR ≠ RD. -/
def State.interrupt16 (s : State) (p : Nat) : Bool :=
  !(s.core p).recq.isEmpty || (s.core p).mbox.any fun m => m.2.en && m.2.wr != m.2.rd

/-- Where a record of a core goes (R367, R370): a mailbox, or none for the own record queue, and whether it is redirected there. -/
def State.destOf (s : State) (r : Record) : Option (Nat × Nat) × Bool :=
  if r.ftgt.getLsbD 0 then
    let oc := fld r.ftgt 10 14
    let mb := fld r.ftgt 24 6
    if s.isOffice oc ∧ (s.mailbox oc mb).en then (some (oc, mb), false) else (none, true)
  else (none, false)

/-- The core whose porter's queue takes the record: the own core's, or the lowest office's for a record of a launch (R460). -/
def State.accepts (s : State) (c : Nat) (d : Option (Nat × Nat)) : Bool :=
  match d with
  | some (oc, mb) => !(s.mailbox oc mb).full
  | none => decide ((s.core c).recq.length < 8)

/-- A record written whole, and counted (R370). -/
def State.putRecord (s : State) (c : Nat) (d : Option (Nat × Nat)) (r : Record) : State :=
  match d with
  | some (oc, mb) =>
    let m := s.mailbox oc mb
    let pa := Config.localBase + oc * Config.localBytes + fld m.w0 0 18 + 64 * (m.wr % 2 ^ m.lsize)
    let s : State := { s with mem := Mem.writeN s.mem pa (bytesOfWords r.words) }
    s.modCore oc fun k => { k with mbox := Tab.put k.mbox mb { m with wr := (m.wr + 1) % 2 ^ 32 } }
  | none => s.modCore c fun k => { k with recq := k.recq ++ [r] }

/-- The first record that waits at a core, satisfies a test and stands behind no other of the same target (R370), with its place. -/
def State.offerable (s : State) (p : Record → Bool) : List Record → List (Option (Nat × Nat)) → Nat → Option (Nat × Record)
  | [], _, _ => none
  | r :: l, seen, i =>
    let d := (s.destOf r).1
    if p r && !seen.contains d then some (i, r) else s.offerable p l (d :: seen) (i + 1)

/-- A waiting record is offered to its target (R370): delivered, or offered again 64 cycles later. -/
def State.deliverRecord (s : State) (c : Nat) (p : Record → Bool) : State :=
  match s.offerable p (s.core c).waiting [] 0 with
  | none => s
  | some (i, r) =>
    let (d, redir) := s.destOf r
    if s.accepts c d then
      let s := s.modCore c fun k => { k with waiting := k.waiting.eraseIdx i }
      s.putRecord c d { r with redir := redir, next := 0 }
    else s.modCore c fun k => { k with waiting := k.waiting.set i { r with next := s.cycle + 64 } }

/-- A record is offered for the first time (R370). -/
def execFaultRecordDelivery (c : Nat) (s : State) : Host.Outcome State Fault Refusal :=
  .next (s.deliverRecord c fun r => r.next == 0)
/-- A record whose target was full is offered again (R370). -/
def execRecordRedelivery (c : Nat) (s : State) : Host.Outcome State Fault Refusal :=
  .next (s.deliverRecord c fun r => r.next != 0 && decide (r.next ≤ s.cycle))

/-! ### The selected register (R363 to R366, R412, R422, R426, R431, R437, R452) -/

/-- A porter. -/
def State.porter (s : State) (p : Nat) : Porter := Tab.findD s.porters p {}
/-- The state with a porter changed. -/
def State.modPorter (s : State) (p : Nat) (f : Porter → Porter) : State :=
  { s with porters := Tab.put s.porters p (f (s.porter p)) }

/-- UNIT of a selector. -/
def selUnit (w : Word) : Nat := fld w 28 4
/-- INDEX of a selector. -/
def selIndex (w : Word) : Nat := fld w 14 14
/-- CORE of a selector. -/
def selCore (w : Word) : Nat := fld w 0 14

/-- The number of words of a unit (R364, R366, R431). -/
def unitRange : Nat → Nat
  | 0 => 1024
  | 1 => 64
  | 2 => 32
  | 3 => 192
  | 4 => 256
  | 5 => 1152
  | 6 => 256
  | 7 => 64
  | _ => 0

/-- A porter may write this selector (R364). -/
def State.selOk (s : State) (p : Nat) (v : Word) : Bool :=
  fld v 32 32 == 0 && decide (selIndex v < unitRange (selUnit v)) &&
    (s.isOffice p || selCore v == p || selUnit v == 5 || selUnit v == 6)

/-- ST of word 20 (R365). -/
def stOf : Option Thread → Nat
  | none => 0
  | some t =>
    match t.st with
    | .runnable => 1
    | .waiting _ _ => 2
    | .parked => 3
    | .halted => 4

/-- A word of the THREAD unit (R365): none where it may not be read. -/
def State.readThread (s : State) (c i : Nat) : Option Word :=
  let k := i / 64
  let w := i % 64
  let t := (s.thr c k).getD {}
  let st := stOf (s.thr c k)
  let stopped := st == 3 || st == 4
  if 33 ≤ w then none
  else if w < 16 then if stopped then some (if w = 0 then 0 else t.g.toList.getD w 0) else none
  else
    match w with
    | 16 => if stopped then some t.pc else none
    | 17 => if stopped then some (tswOf s c t) else none
    | 18 => some t.w0
    | 19 => some t.w1
    | 20 =>
      let pend := (s.core c).waiting.any fun r => r.slot == k && !r.orphan && r.raw == []
      some (BitVec.ofNat 64 (st + Tab.findD (s.core c).lastCode k 0 * 2 ^ 8 + (if pend then 2 ^ 16 else 0)))
    | 21 => some t.ftgt
    | 22 => some (if (s.core c).dbgs.contains k then 1 else 0)
    | 23 => some t.bind
    | 32 => some (BitVec.ofNat 64 (t.budget + t.squash % 16 * 2 ^ 16))
    | _ =>
      match t.hs[(w - 24) / 2]? with
      | some e => some (if w % 2 = 0 then e.handle else e.ret)
      | none => some 0

/-- A thread's fault target is written (R367): its commands and messages under way report there as well, also once the thread has left
its slot (R90, R369). -/
def State.retarget (s : State) (c k : Nat) (v : Word) : State :=
  match s.thr c k with
  | none => s
  | some t =>
    let org := fun (o : Origin) => if o.uid = t.uid then { o with ftgt := v } else o
    let core := fun (q : Core) => { q with cmds := q.cmds.map fun (x : Cmd) => { x with org := org x.org } }
    let s := s.modThr c k fun t => { t with ftgt := v }
    let s : State := { s with
      cores := s.cores.map fun x => (x.1, core x.2), net := s.net.map fun (m : Msg) => { m with org := org m.org } }
    s.modHub fun h => { h with launches := h.launches.map fun (l : Launch) =>
      { l with saved := l.saved.map fun (x : SavedCore) => { x with img := core x.img } } }

/-- A write of a THREAD word (R365): none where it is illegal. -/
def State.writeThread (s : State) (c i : Nat) (v : Word) : Option State :=
  let k := i / 64
  let w := i % 64
  let st := stOf (s.thr c k)
  let stopped := st == 3 || st == 4
  if w < 16 then
    if stopped then some (if w = 0 then s else s.modThr c k fun t => { t with g := t.g.set (w % 16) v (Nat.mod_lt _ (by decide)) }) else none
  else
    match w with
    | 16 => if stopped then some (s.modThr c k fun t => { t with pc := v }) else none
    | 17 => if stopped ∧ tswOk v then some (s.modThr c k fun t => { t with tsw := v &&& tswMask }) else none
    | 21 => if fld v 30 34 = 0 ∧ fld v 1 9 = 0 then some (s.retarget c k v) else none
    | 22 =>
      if 2 ≤ v.toNat then none
      else some (s.modCore c fun q => { q with
        dbgs := if v.getLsbD 0 then insertNat q.dbgs k else q.dbgs.filter fun x => x != k })
    | _ => none

/-- A word of the CORE unit (R366, R412, R422, R426, R452): none where it is reserved. -/
def State.readCore (s : State) (c i : Nat) : Option Word :=
  let k := s.core c
  let p := s.stop (clusterOf c)
  if 64 ≤ i ∧ i < 128 then some (BitVec.ofNat 64 (k.l2Count (i - 64)))
  else if 128 ≤ i ∧ i < 192 then
    let u := s.purse c (i - 128)
    some (BitVec.ofNat 64 (u.1 + (if u.2 then 2 ^ 12 else 0)))
  else
    match i with
    | 0 => some k.cap0
    | 1 => some k.cap1
    | 2 => some (BitVec.ofNat 64 k.retry)
    | 3 => some (BitVec.ofNat 64 k.watchdog)
    | 4 => some k.part
    | 5 => some (BitVec.ofNat 64 k.recq.length)
    | 6 => some (BitVec.ofNat 64 (min 2047 p.meter + (if p.throt then 2 ^ 16 else 0)))
    | 7 => some (BitVec.ofNat 64 p.thr)
    | 8 => some (BitVec.ofNat 64 k.soft.1)
    | 9 => some (BitVec.ofNat 64 k.soft.2.1)
    | 10 => some (BitVec.ofNat 64 (s.core (clusterOf c * 16)).soft.2.2.1)
    | 11 => some (BitVec.ofNat 64 (s.core (clusterOf c * 16)).soft.2.2.2)
    | _ => none

/-- The core holds nothing (R421): no grant, bound thread, task, channel message, receive frame or saved state. -/
def State.coreEmpty (s : State) (c : Nat) : Bool :=
  let k := s.core c
  k.grant.isNone && (List.range 16).all (fun i => (s.thr c i).isNone) && k.deque.isEmpty && k.remote.isEmpty &&
    k.chans.all (fun x => x.2.pend.isEmpty) && k.frames.isEmpty &&
    s.hub.launches.all fun l => l.saved.all fun x => x.core != c

/-- A write of a partition word (R421): applied only to an empty core; every entry of its homing map gets V = 0. -/
def State.writePart (s : State) (c : Nat) (v : Word) : Option State :=
  if 2 ^ 7 ≤ v.toNat ∨ !s.coreEmpty c then none else some (s.modCore c fun k =>
    { k with part := v, homing := k.homing.map fun e => (e.1, (setFld e.2.1 0 1 0, e.2.2)) })

/-- A pop of the record queue (R366). -/
def State.popRecord (s : State) (c : Nat) : State := s.modCore c fun k => { k with recq := k.recq.drop 1 }

/-- A write of a CORE word. -/
def State.writeCore (s : State) (c i : Nat) (v : Word) : Option State :=
  match i with
  | 0 => if fld v 32 31 = 0 then some (s.modCore c fun k => { k with cap0 := v }) else none
  | 1 => if fld v 32 31 = 0 then some (s.modCore c fun k => { k with cap1 := v }) else none
  | 2 => if 1 ≤ v.toNat ∧ v.toNat < 2 ^ 16 then some (s.modCore c fun k => { k with retry := v.toNat }) else none
  | 3 => if 1024 ≤ v.toNat ∧ v.toNat < 2 ^ 40 then some (s.modCore c fun k => { k with watchdog := v.toNat }) else none
  | 4 => s.writePart c v
  | 5 => some (s.popRecord c)
  | 7 => if v.toNat < 2 ^ 11 then some (s.modStop (clusterOf c) fun p => { p with thr := v.toNat }) else none
  | _ => none

/-- A word of a mailbox (R370). -/
def State.readMbox (s : State) (c i : Nat) : Option Word :=
  let m := s.mailbox c (i / 4)
  match i % 4 with
  | 0 => some m.w0
  | 1 => some (BitVec.ofNat 64 m.wr)
  | 2 => some (BitVec.ofNat 64 m.rd)
  | _ => none

/-- A write of a mailbox word (R366, R370): on an office core only. -/
def State.writeMbox (s : State) (c i : Nat) (v : Word) : Option State :=
  let put := fun (f : Mbox → Mbox) => some (s.modCore c fun k => { k with mbox := Tab.put k.mbox (i / 4) (f (s.mailbox c (i / 4))) })
  if !s.isOffice c then none
  else
    match i % 4 with
    | 0 =>
      let l := fld v 18 4
      if v.toNat < 2 ^ 23 ∧
          (!v.getLsbD 22 ∨ (fld v 0 6 = 0 ∧ 2 ≤ l ∧ l ≤ 10 ∧ fld v 0 18 + 64 * 2 ^ l ≤ Config.localBytes)) then put fun m => { m with w0 := v } else none
    | 2 => if v.toNat < 2 ^ 32 then put fun m => { m with rd := v.toNat } else none
    | _ => none

/-- A word of the TENANT unit and the module words (R366, R431, R437). -/
def State.readTenant (s : State) (i : Nat) : Option Word :=
  if i < 1024 then
    if i % 16 = 15 then some (BitVec.ofNat 64 (s.iquota (i / 16) + min 65535 (s.hub.iused (i / 16)) * 2 ^ 32))
    else some (s.tenantWord (i / 16) (i % 16))
  else if i = 1024 then some s.hub.modid
  else if 1040 ≤ i ∧ i < 1056 then some (Tab.findD s.hub.links (i - 1040) 0)
  else if 1088 ≤ i ∧ i < 1152 then some (Tab.findD s.hub.reach (i - 1088) 0)
  else none

/-- Bytes of the depot that tenants hold, with words 9 and 15 of a tenant as given (R437). -/
def State.depotTotal (s : State) (t area quota : Nat) : Nat :=
  (List.range 64).foldl (fun a i =>
    a + (if i = t then area + quota * 2 ^ 20 else (s.tenantWord i 9).toNat + s.iquota i * 2 ^ 20)) 0

/-- A tenant word that may be written as given (R366, R423, R425, R427). -/
def tenantOk (w : Nat) (v : Word) : Bool :=
  let n := v.toNat
  match w with
  | 0 => n % 32 == 0 && decide (n < 4 * Config.dieBytes)
  | 1 => decide (n < 2 ^ 24)
  | 2 => decide (1 ≤ n) && decide (n ≤ 1024)
  | 3 => n % 8 == 0 && decide (n < 4 * Config.dieBytes)
  | 4 => decide (n ≤ 2 ^ 20)
  | 6 => decide (n < 2 ^ 48) && fld v 15 1 == 0 && decide (fld v 0 15 ≤ 16384)
  | 7 => decide (n < 2 ^ 26)
  | 10 => n % 16 == 0 && decide (n < 2 ^ 56)
  | 12 => decide (n ≤ 1024)
  | 13 => decide (n ≤ 1024)
  | 14 => decide (n < 2)
  | _ => true

/-- A tenant word stored. -/
def State.putTenant (s : State) (t w : Nat) (v : Word) : State :=
  s.modHub fun h => { h with tenants := Tab.put h.tenants (16 * t + w) v }

/-- The image quota written (R437, R440): IUSED is ignored, and images leave until the quota is met. -/
def State.writeQuota (s : State) (t : Nat) (v : Word) : Option State :=
  if fld v 48 16 ≠ 0 ∨ fld v 16 16 ≠ 0 ∨ 224 * 2 ^ 30 < s.depotTotal t (s.tenantWord t 9).toNat (fld v 0 16) then none
  else
    let s := s.putTenant t 15 (v &&& 0xFFFF)
    some (s.modHub fun h => h.evict t (fld v 0 16) 0 (h.images.length + 1))

/-- The module id written (R431): illegal while a peer link is up. -/
def State.writeModid (s : State) (v : Word) : Option State :=
  if 2 ^ 7 ≤ v.toNat ∨ s.hub.links.any fun x => x.2.getLsbD 6 then none else some (s.modHub fun h => { h with modid := v })

/-- A write of a TENANT or module word. -/
def State.writeTenant (s : State) (i : Nat) (v : Word) : Option State :=
  if i < 1024 then
    if i % 16 = 15 then s.writeQuota (i / 16) v
    else if !tenantOk (i % 16) v then none
    else if i % 16 = 9 ∧ 224 * 2 ^ 30 < s.depotTotal (i / 16) v.toNat (s.iquota (i / 16)) then none
    else some (s.putTenant (i / 16) (i % 16) v)
  else if i = 1024 then s.writeModid v
  else if 1088 ≤ i ∧ i < 1152 then
    if v.toNat < 2 ^ 17 then some (s.modHub fun h => { h with reach := Tab.put h.reach (i - 1088) v }) else none
  else none

/-- A homing map word that may be written (R106). -/
def homingOk (i : Nat) (v : Word) : Bool :=
  fld v 57 7 == 0 && (if i % 2 = 0 then fld v 1 20 == 0 else fld v 0 2 == 0)

/-- A channel word that a porter writes (R37, R38, R366): PEND is ignored, the other reserved bits are zero. -/
def State.writeChan (s : State) (c i : Nat) (v : Word) : Option State :=
  if i % 2 = 0 then some (s.modChan c (i / 2) fun h => { h with w0 := v })
  else if fld v 16 48 ≠ 0 ∨ fld v 0 2 ≠ 0 then none
  else some (s.modChan c (i / 2) fun h => { h with
    cls := fld v 14 2, ten := fld v 8 6, en := v.getLsbD 4, hk := v.getLsbD 3, blk := v.getLsbD 2 })

/-- dvdata read: none where the read is illegal. -/
def State.dvRead (s : State) (sel : Word) : Option Word :=
  let c := selCore sel
  let i := selIndex sel
  match selUnit sel with
  | 0 => s.readThread c i
  | 1 => some (if i % 2 = 0 then (s.chan c (i / 2)).w0 else BitVec.ofNat 64 (s.chan c (i / 2)).word1)
  | 2 =>
    let e := Tab.findD (s.core c).homing (i / 2) (0, 0)
    some (if i % 2 = 0 then e.1 else e.2)
  | 3 => s.readCore c i
  | 4 => s.readMbox c i
  | 5 => s.readTenant i
  | 6 => some (Tab.findD s.hub.mask i 0)
  | 7 =>
    match (s.core c).recq[i / 8]? with
    | some r => some (r.words.getD (i % 8) 0)
    | none => some 0
  | _ => none

/-- dvdata written by porter p: none where the write is illegal. -/
def State.dvWrite (s : State) (p : Nat) (sel v : Word) : Option State :=
  let c := selCore sel
  let i := selIndex sel
  match selUnit sel with
  | 0 => s.writeThread c i v
  | 1 => s.writeChan c i v
  | 2 =>
    if homingOk i v then
      some (s.modCore c fun k =>
        let e := Tab.findD k.homing (i / 2) (0, 0)
        { k with homing := Tab.put k.homing (i / 2) (if i % 2 = 0 then (v, e.2) else (e.1, v)) })
    else none
  | 3 => s.writeCore c i v
  | 4 => s.writeMbox c i v
  | 5 => if s.isOffice p then s.writeTenant i v else none
  | _ => none

/-- A porter's access that took effect, or the illegal-instruction exception in the hart, which changes nothing else; any access from user
mode raises it (R363). -/
def State.orIllegal (s : State) (p : Nat) (r : Option State) : State :=
  match (if (s.porter p).hart.priv = 0 then none else r) with
  | some s => s.modPorter p fun q => { q with illegal := false }
  | none => s.modPorter p fun q => { q with illegal := true }

/-! ### RESUME, END, HALT, STEP (R91, R263, R302, R371, R372) -/

/-- A command halted on an accumulator fault of a LAST block (R90). -/
def Cmd.onCheck (x : Cmd) : Bool :=
  match x.halted with
  | some f => f.code == 0x06 || f.code == 0x07
  | none => false

/-- A command goes on as if AOT were 0 (R91). -/
def Cmd.forgive (x : Cmd) : Cmd := { x with halted := none, forgiving := true, started := true }

/-- The saved images of a core changed. -/
def State.modSaved (s : State) (c : Nat) (f : Core → Core) : State :=
  s.modHub fun h => { h with launches := h.launches.map fun (l : Launch) =>
    { l with saved := l.saved.map fun (v : SavedCore) => if v.core = c then { v with img := f v.img } else v } }

/-- The commands that a thread halted go on or are abandoned (R91, R263, R302); an mmar's at its target core as well (R297). -/
def State.settle (s : State) (c uid : Nat) : State :=
  let mine := (s.core c).cmds.filter fun x => x.org.uid == uid && x.halted.isSome && x.from_.isNone
  mine.foldl (fun s x =>
    let there := fun (y : Cmd) => y.from_ == some c && y.peer == x.id
    let d := fld x.gs 0 14
    let remote := match x.instr with
      | .mmar _ => true
      | _ => false
    if x.onCheck then
      if remote then
        let s := s.modCmd c x.id fun y => { y with halted := none }
        let go := fun (k : Core) => { k with cmds := k.cmds.map fun y => if there y then y.forgive else y }
        (s.modCore d go).modSaved d go
      else s.modCmd c x.id Cmd.forgive
    else
      let out := fun (k : Core) => { k with cmds := k.cmds.filter fun y => !there y }
      let s := if remote then ((s.modCore d out).modSaved d out).checkGrant d else s
      match s.cmd c x.id with
      | some y => s.retire c y
      | none => s) s

/-- dvresume with an OP, for the slot that a selector names (R371): none where the command is illegal. -/
def State.command (s : State) (sel : Word) (op : Nat) : Option State :=
  let c := selCore sel
  let k := selIndex sel / 64
  if selUnit sel ≠ 0 then none
  else
    match s.thr c k with
    | none => none
    | some t =>
      let still := t.st == .parked || t.st == .halted
      let stopped := still && !t.endAt
      let settled := (match t.stopBar with
        | some (b, _) => s.unwatch c b k
        | none => s).settle c t.uid
      match op with
      | 1 => if stopped then some (settled.resumeThread c k) else none
      | 2 => if stopped then some (if t.hs = [] then settled.endThread c k else settled.modThr c k fun t => { t with endAt := true }) else none
      | 3 => if still then some s else some ((s.modThr c k fun t => { t with haltAt := true }).wakePage c k)
      | 4 =>
        if t.st == .halted ∧ !t.endAt then some (s.modThr c k fun t => { t with stepping := true }.reenter s.cycle) else none
      | _ => none

/-- RESUME written by a porter (R371). -/
def execResume (p : Nat) (s : State) : Host.Outcome State Fault Refusal :=
  .next (s.orIllegal p (s.command (s.porter p).dvsel 1))
/-- END written by a porter (R371). -/
def execEndThread (p : Nat) (s : State) : Host.Outcome State Fault Refusal :=
  .next (s.orIllegal p (s.command (s.porter p).dvsel 2))
/-- HALT written by a porter (R371, R372). -/
def execHalt (p : Nat) (s : State) : Host.Outcome State Fault Refusal :=
  .next (s.orIllegal p (s.command (s.porter p).dvsel 3))
/-- STEP written by a porter (R371). -/
def execStepThread (p : Nat) (s : State) : Host.Outcome State Fault Refusal :=
  .next (s.orIllegal p (s.command (s.porter p).dvsel 4))

/-! ### Writes and reads of the device registers -/

/-- The selected word is word i of a unit. -/
def selects (sel : Word) (u i : Nat) : Bool := selUnit sel == u && selIndex sel == i

/-- A write of CORE word 5 (R366). -/
def execRecordQueuePop (p : Nat) (s : State) : Host.Outcome State Fault Refusal :=
  let sel := (s.porter p).dvsel
  .next (s.orIllegal p (if selects sel 3 5 then some (s.popRecord (selCore sel)) else none))
/-- A write of CORE word 4 (R421). -/
def execPartitionWrite (p : Nat) (v : Word) (s : State) : Host.Outcome State Fault Refusal :=
  let sel := (s.porter p).dvsel
  .next (s.orIllegal p (if selects sel 3 4 then s.writePart (selCore sel) v else none))
/-- A write of the module id word (R431). -/
def execModuleIdWrite (p : Nat) (v : Word) (s : State) : Host.Outcome State Fault Refusal :=
  .next (s.orIllegal p (if selects (s.porter p).dvsel 5 1024 ∧ s.isOffice p then s.writeModid v else none))
/-- A write of TENANT word 15 (R437). -/
def execImageQuotaWrite (p : Nat) (v : Word) (s : State) : Host.Outcome State Fault Refusal :=
  let i := selIndex (s.porter p).dvsel
  .next (s.orIllegal p
    (if selUnit (s.porter p).dvsel = 5 ∧ i < 1024 ∧ i % 16 = 15 ∧ s.isOffice p then s.writeQuota (i / 16) v else none))

/-- dvid of a core's porter (R363). -/
def State.dvid (s : State) (p : Nat) : Word := BitVec.ofNat 64 (p + s.modid * 2 ^ 14 + if s.isOffice p then 2 ^ 20 else 0)

/-- The selector of dvfaulttgt: word 21 of the selected slot (R363). -/
def faultTgtSel (sel : Word) : Word := BitVec.ofNat 64 (selCore sel + (selIndex sel / 64 * 64 + 21) * 2 ^ 14)

/-- A device register as a porter reads it (R363 to R366); none raises the illegal-instruction exception. -/
def State.dvReads (s : State) (p csr : Nat) : Option Word :=
  let sel := (s.porter p).dvsel
  match csr with
  | 0x5C0 => some sel
  | 0x5C1 => s.dvRead sel
  | 0x5C2 => some 0
  | 0x5C3 => if selUnit sel = 0 then s.dvRead (faultTgtSel sel) else none
  | 0xDC0 => some (s.dvid p)
  | _ => none

/-- A device register written by a porter (R363 to R366, R371); none raises the illegal-instruction exception. -/
def State.dvWrites (s : State) (p csr : Nat) (v : Word) : Option State :=
  let sel := (s.porter p).dvsel
  match csr with
  | 0x5C0 => if s.selOk p v then some (s.modPorter p fun q => { q with dvsel := v }) else none
  | 0x5C1 => s.dvWrite p sel v
  | 0x5C2 => if v.toNat < 8 then s.command sel v.toNat else none
  | 0x5C3 => if selUnit sel = 0 then s.dvWrite p (faultTgtSel sel) v else none
  | _ => none

/-- A porter's access to a device register (R363 to R366): a write of register csr below 0x1000, a read of register
csr - 0x1000 otherwise, which lays the value in lastRead. -/
def execDvdataWrite (p csr : Nat) (v : Word) (s : State) : Host.Outcome State Fault Refusal :=
  .next (s.orIllegal p (
    if csr < 0x1000 then s.dvWrites p csr v
    else (s.dvReads p (csr - 0x1000)).map fun w => s.modPorter p fun q => { q with lastRead := w }))

/-! ### A porter's loads and stores (R362, R394) -/

/-- A whole access lies inside the physical map. -/
def inMap (pa n : Nat) : Bool :=
  decide (pa + n ≤ 4 * Config.dieBytes) ||
    (decide (Config.localBase ≤ pa) && decide (pa + n ≤ Config.localBase + Config.cores * Config.localBytes)) ||
    (decide (Config.accBase ≤ pa) && decide (pa + n ≤ Config.accBase + Config.cores * Config.accBytes))

/-- The offset in its die's system frame of an address there (R394). -/
def sysOffset (pa : Nat) : Option Nat :=
  if isDevice pa ∧ Config.sysFrame ≤ pa % Config.dieBytes then some (pa % Config.dieBytes - Config.sysFrame) else none

/-- A store to the system frame as its agent applies it (R394 to R399): frame attributes by R404, ANSWER by R399, USED and
the reserved bytes keep their values. -/
def State.agentStore (s : State) (d off n v : Nat) : State :=
  let a := sysBase d + off
  let whole := natOfBytes (bytesOfNat n v)
  if off < 0xC0000 then
    let f := off / 8
    let old := (s.fat d f).toNat
    let w := natOfBytes ((List.range 8).map fun i =>
      if off % 8 ≤ i ∧ i < off % 8 + n then (bytesOfNat n v).getD (i - off % 8) 0 else (bytesOfNat 8 old).getD i 0)
    s.writeFat d f (BitVec.ofNat 64 w)
  else if off < 0xC0200 then ({ s with mem := Mem.writeN s.mem a (bytesOfNat n v) } : State).settleHomes d
  else if off < 0xC1000 then s
  else if off < 0xC2000 then
    let w := (off - 0xC1000) / 8 % 8
    let used := fld (s.mem64 (sysBase d + off / 8 * 8)) 34 17
    if 5 ≤ w then s
    else
      let s : State := { s with mem := Mem.writeN s.mem a (bytesOfNat n v) }
      if w = 2 then
        let b := sysBase d + off / 8 * 8
        s.agentPut b (setFld (s.mem64 b) 34 17 (BitVec.ofNat 64 used))
      else s
  else if off < 0xC6000 then
    if (off - 0xC2000) % 64 = 16 then s.answerPage d ((off - 0xC2000) / 64) (whole % 4) else s
  else s

/-- A porter's aligned access of n bytes to an address of the map (R362). -/
def porterAligned (pa n : Nat) : Bool := (n == 1 || n == 2 || n == 4 || n == 8) && pa % n == 0 && inMap pa n

/-- The home slice of a porter's access outside the system frame (R105, R362); its core for the uncached memories. -/
def State.porterHome (s : State) (p pa : Nat) : Option Nat :=
  if isDevice pa then s.homeOf (s.fat (pa / Config.dieBytes) (pa % Config.dieBytes / Config.frameBytes)) pa else some p

/-- A porter's access to device memory at its home slice (R362). -/
def State.porterTouch (s : State) (h pa n : Nat) (wr : Bool) : State :=
  if isDevice pa then s.l2Touch h (fatTen (s.fat (pa / Config.dieBytes) (pa % Config.dieBytes / Config.frameBytes))) pa n 0 wr else s

/-- A porter's load (R362, R394, R395): device memory at its home slice, local memory and the accumulator store uncached and without their
full/empty bits. none raises the access-fault exception: an address outside the map, a misaligned one, a poisoned sector. -/
def State.porterLoad (s : State) (p pa n : Nat) : Option (State × Nat) :=
  if !porterAligned pa n then none
  else
    match sysOffset pa with
    | some off =>
      if off / 8 = Config.frames - 1 then some (s, (s.fat 0 (off / 8)).toNat / 2 ^ (8 * (off % 8)) % 2 ^ (8 * n)) else some (s, s.memNat pa n)
    | none =>
      match s.porterHome p pa with
      | none => none
      | some h => if s.poisoned pa n then none else some (s.porterTouch h pa n false, s.memNat pa n)

/-- A porter's store (R362, R394), to the same places; none raises the access-fault exception. -/
def State.porterStore (s : State) (p pa n : Nat) (v : Word) : Option State :=
  if !porterAligned pa n then none
  else
    match sysOffset pa with
    | some off => some (s.agentStore (pa / Config.dieBytes) off n v.toNat)
    | none =>
      (s.porterHome p pa).map fun h => (s.porterTouch h pa n true).perform { core := p, slot := 16 } none pa (bytesOfNat n v.toNat)

/-- A porter's load or store of n bytes (R362): its value lies in lastRead, and accessFault says whether it raised the exception. -/
def execPorterAccess (p pa n : Nat) (wr : Bool) (v : Word) (s : State) : Host.Outcome State Fault Refusal :=
  let ok := fun (s : State) => s.modPorter p fun q => { q with accessFault := false }
  let done :=
    if wr then (s.porterStore p pa n v).map ok
    else (s.porterLoad p pa n).map fun (s, x) => (ok s).modPorter p fun q => { q with lastRead := BitVec.ofNat 64 x }
  .next (done.getD (s.modPorter p fun q => { q with accessFault := true }))

end Sys2Proof.Machine
end

