-- ==== Sys2Proof/Machine/EvFabric.lean ====
section
/-! DEFINITION. Events of the fabric (R407 to R418), of the coin purses (R424 to R426), of the hub's ways and of the peer links
(R416, R431, R432). -/

namespace Sys2Proof.Machine

/-! ### Ways (R407, R408, R415) -/

/-- TYPE of a message's flits (R413): 0 bulk write, 1 bulk read request, 2 bulk read data, 3 message, 4 answer, 5 invalidate. -/
def Body.typ : Body → Nat
  | .access _ _ _ .load => 1
  | .access _ _ _ (.store _) => 0
  | .rfill _ _ _ _ _ => 1
  | .bulk _ _ wr _ => if wr then 0 else 1
  | .bulkEnd _ _ => 2
  | .answer _ _ => 4
  | .wack _ => 4
  | .inval _ _ _ => 5
  | .reserved => 6
  | _ => 3

/-- SPACE of a physical address and LINE within it (R413): the vault under a cluster, a local memory, an accumulator store. -/
def spaceLine (pa : Nat) : Nat × Nat :=
  if isDevice pa then (0, pa % Config.dieBytes / Config.frameBytes / 256 * 32768 + pa % Config.frameBytes / 64)
  else if pa < Config.accBase then (1, (pa - Config.localBase) % Config.localBytes / 64)
  else if pa < Config.hostBase then (2, (pa - Config.accBase) % Config.accBytes / 64)
  else (0, (pa - Config.hostBase) / 64 % 2 ^ 32)

/-- Header bits [54:0] of a bulk flit (R413): SPACE, LINE, XFER, OFF, LEN. -/
def bulkBits (pa n xfer : Nat) : Nat :=
  let (sp, l) := spaceLine pa
  sp * 2 ^ 53 + l % 2 ^ 32 * 2 ^ 21 + xfer % 256 * 2 ^ 13 + pa % 64 * 2 ^ 7 + n % 128

/-- Header bits [54:0] of a flit (R413). The spec lays them out for TYPE 0 to 3; those of an answer or an invalidation are a free value. The
kind of a message, which never decides between two, is left out (assumption log 11). -/
def State.lowBits (s : State) (f : Flit) : Nat :=
  match s.msg f.msg with
  | none => 0
  | some x =>
    match x.body with
    | .access pa n _ .load => bulkBits pa n x.id
    | .access pa n _ (.store _) => bulkBits pa n x.id
    | .rfill _ pa n _ _ => bulkBits pa n x.id
    | .bulk who line _ _ => bulkBits (64 * line) 64 who
    | .bulkEnd who line => bulkBits (64 * line) 64 who
    | b =>
      if b.typ = 3 then x.num.getD 0 * 2 ^ 47 + f.idx * 2 ^ 45 + (b.flits - 1) * 2 ^ 43
      else Config.answerBits x.id % 2 ^ 55

/-- SRC of a flit, SMOD above SCORE (R408, R413), with one bit more for the hub and the engines, which no core id names. -/
def State.srcRank (s : State) (a : Nat) : Nat := if a < 2 ^ 15 then s.modid * 2 ^ 15 + a else a - 2 ^ 15

/-- P ranks older than Q (R408): by AGE, SRC, and header bits [54:0]; between flits that the spec's order does not tell apart, by the
message's number (assumption log 11). -/
def State.older (s : State) (p q : Flit) : Bool :=
  if p.age ≠ q.age then decide (q.age < p.age)
  else if s.srcRank p.src ≠ s.srcRank q.src then decide (s.srcRank p.src < s.srcRank q.src)
  else if s.lowBits p ≠ s.lowBits q then decide (s.lowBits p < s.lowBits q)
  else if p.msg ≠ q.msg then decide (p.msg < q.msg)
  else decide (p.idx < q.idx)

/-- The nearer of J0 and J1 from a stop of a ring pair, on a tie J0 (R415). -/
def nearJ (p : Nat) : Nat :=
  let d := fun (t : Nat) => min ((t + 32 - p % 32) % 32) ((p % 32 + 32 - t) % 32)
  p / 32 * 32 + (if d 16 < d 0 then 16 else 0)

/-- The stop of p's ring pair at which a flit to (dmod, dst) leaves it, and whether through the tap (R415). -/
def exitOf (modid p dmod dst : Nat) : Nat × Bool :=
  let base := p / 32 * 32
  if dmod ≠ modid ∨ Config.cores ≤ dst then (base + 24, true)
  else
    let ds := clusterOf dst
    if ds / 32 = p / 32 then (ds, false)
    else if ds / 64 = p / 64 then (nearJ p, true)
    else if ds / 256 ≠ p / 256 then (base + 24, true)
    else
      match (BitVec.ofNat 2 (ds / 64) ^^^ BitVec.ofNat 2 (p / 64)).toNat with
      | 2 => if p / 32 % 2 = 1 then (base + 8, true) else (nearJ p, true)
      | _ => if p / 32 % 2 = 0 then (base + 8, true) else (nearJ p, true)

/-- The far side of a bridge station's tap (R415). -/
def farTap (p : Nat) : Nat :=
  if p % 32 = 8 then
    let q := if p / 32 % 2 = 0 then 1 else 2
    (p / 256 * 4 + ((BitVec.ofNat 2 (p / 64)) ^^^ BitVec.ofNat 2 q).toNat) * 64 + p % 64
  else if p / 32 % 2 = 0 then p + 32 else p - 32

/-! ### Ejection (R409, R414 to R416) -/

/-- The flit is of a message of TYPE 3, which takes an entry of the reassembly table (R414). -/
def State.tabled (s : State) (f : Flit) : Bool := (s.msg f.msg).any fun x => x.body.typ == 3

/-- A stop's port accepts a flit: the cluster's by the reassembly table of its core, a bridge tap by its buffer of 64 flits, a die
port's tap by its credit, one flit per cycle. -/
def State.ejectOk (s : State) (p : Nat) (f : Flit) : Bool :=
  if !f.tap then
    let k := s.core f.dst
    !s.tabled f || k.rtable.contains f.msg || decide (k.rtable.length < 32)
  else if p % 32 = 24 then
    let b := s.buf_ (p / 64)
    decide (0 < b.credits) && b.last != some s.cycle
  else decide ((s.stop (farTap p)).tapIn.length < 64)

/-- A flit leaves the ring through its port. -/
def State.eject (s : State) (p : Nat) (f : Flit) : State :=
  if !f.tap then
    if (s.msg f.msg).isNone then s
    else s.modCore f.dst fun k => { k with
      rtable := if s.tabled f then insertNat k.rtable f.msg else k.rtable, landed := k.landed ++ [f.msg] }
  else if p % 32 = 24 then
    s.modBuf (p / 64) fun b => { b with q := b.q ++ [f], credits := b.credits - 1, last := some s.cycle }
  else s.modStop (farTap p) fun q => { q with tapIn := q.tapIn ++ [f] }

/-- A flit sent on a ring's output: it stands at the next stop one cycle later, one hop older (R407 to R409). -/
def State.sendOn (s : State) (p : Nat) (ccw : Bool) (f : Flit) : State :=
  let f := { f with ccw := ccw, age := min (f.age + 1) 1023, at_ := s.cycle + 1 }
  let base := p / 32 * 32
  if ccw then s.modStop (base + (p + 31) % 32) fun q => { q with ccw := q.ccw ++ [f] }
  else s.modStop (base + (p + 1) % 32) fun q => { q with cw := q.cw ++ [f] }

/-- The flit at an input in this cycle. -/
def arriving (l : List Flit) (cycle : Nat) : Option Flit :=
  match l with
  | f :: _ => if f.at_ ≤ cycle then some f else none
  | [] => none

/-- The oldest of flits (R408). -/
def State.oldest (s : State) : List Flit → Option Flit
  | [] => none
  | f :: r =>
    match s.oldest r with
    | some g => if s.older g f then some g else some f
    | none => some f

/-- One ejecting port of a stop (R409): the oldest flit that it can accept leaves; the others stay. -/
def State.ejectPort (s : State) (p : Nat) (tap : Bool) (ins : List Flit) : State × List Flit :=
  match s.oldest (ins.filter fun f => f.exit == p && f.tap == tap && s.ejectOk p f) with
  | some f => (s.eject p f, ins.filter fun g => g != f)
  | none => (s, ins)

/-! ### Injection (R407, R410, R412, R424 to R426) -/

/-- A flit of TYPE 0 or 1, which costs a coin (R413, R424); an atomic, whose TYPE the spec does not name, costs one as well (assumption log
25). -/
def Body.costs : Body → Bool
  | .access _ _ _ _ => true
  | b => decide (b.typ < 2)

/-- A waiting flit's coin: it costs none, or its tenant holds one at its core's port. -/
def State.payable (s : State) (f : Flit) : Bool :=
  match s.msg f.msg with
  | none => true
  | some m => !m.body.costs || decide (0 < (s.purse f.src f.ten).1)

/-- The coin is spent at injection (R426). -/
def State.pay (s : State) (f : Flit) : State :=
  match s.msg f.msg with
  | some m =>
    if m.body.costs then
      s.modCore f.src fun k =>
        let (n, a) := s.purse f.src f.ten
        { k with purses := Tab.put k.purses f.ten (n - 1, a) }
    else s
  | none => s

/-- ACT of the tenants whose flits wait for a coin (R426). -/
def State.markAct (s : State) (fs : List Flit) : State :=
  (fs.filter fun f => !s.payable f).foldl (fun s f => s.modCore f.src fun k =>
    { k with purses := Tab.put k.purses f.ten ((s.purse f.src f.ten).1, true) }) s

/-- A stop holds STARVE on a ring (R410). -/
def Stop.starves (q : Stop) (ccw : Bool) : Bool := q.starve == some ccw || q.tapStarve == some ccw

/-- Another stop of the ring holds STARVE (R410); a stop that holds it itself takes an empty slot. -/
def State.heldBack (s : State) (p : Nat) (ccw : Bool) : Bool :=
  !(s.stop p).starves ccw && s.stops.any fun x => x.1 / 32 == p / 32 && x.1 != p && x.2.starves ccw

/-- The direction in which a flit would be injected (R407), with the outputs that are free; none for its own stop. -/
def State.wayOf (s : State) (p : Nat) (f : Flit) (free : Bool × Bool) : Option Bool :=
  let d := (f.exit + 32 - p) % 32
  if d = 0 then none else if d < 16 then some false else if 16 < d then some true else some (!(free.1 && !s.heldBack p false))

/-- The MSGID of a flit's message (R414): the one it has, or the lowest of its source's 256 that is not in use; a number is used again only
after the destination's answer. None while all are in use. -/
def State.msgid (s : State) (f : Flit) : Option Nat :=
  match s.msg f.msg with
  | none => some 0
  | some x =>
    if x.body.typ ≠ 3 then some 0
    else if x.num.isSome then x.num
    else (List.range 256).find? fun i => !s.net.any fun m => m.src == x.src && m.num == some i && m.stage != .there

/-- The flit that an inject port would send: the tap's in order, the cluster's oldest that has its message number and its coin. -/
def State.nextInject (s : State) (p : Nat) (tap : Bool) : Option Flit :=
  let q := s.stop p
  let f := if tap then q.tapIn.head? else q.inject.find? fun f => s.payable f && (s.msgid f).isSome
  f.map fun f =>
    let e := exitOf s.modid p f.dmod f.dst
    { f with exit := e.1, tap := e.2 }

/-- The port's flit has gone, with its MSGID: the port's wait and its STARVE end; a die port's tap frees a place (R410, R414, R416). -/
def State.injected (s : State) (p : Nat) (tap : Bool) (f : Flit) : State :=
  let i := s.msgid f
  let s := if tap then s else s.modMsg f.msg fun m => { m with num := if m.body.typ = 3 then i else m.num }
  let s := s.modStop p fun q =>
    if tap then { q with tapIn := q.tapIn.drop 1, tapWaited := 0, tapStarve := none }
    else { q with
      inject := dropFirst (fun (g : Flit) => g.msg == f.msg && g.idx == f.idx) q.inject
      waited := 0, starve := none, lastInject := some s.cycle }
  if tap ∧ p % 32 = 24 then s.modBuf (16 + p / 64) fun b => { b with owed := b.owed + 1 } else s

/-- The ports of a stop that are free in a cycle (R407): the outputs of the two rings, the eject ports of the cluster and of the tap. -/
structure Free where
  cw : Bool := true
  ccw : Bool := true
  clus : Bool := true
  tap : Bool := true
deriving DecidableEq, Repr

/-- One inject port of a stop (R409 to R412). A flit for the own stop goes to its eject port, where that has carried no flit in the cycle. -/
def State.injectPort (s : State) (p : Nat) (tap : Bool) (free : Free) : State × Free :=
  let q := s.stop p
  let s := if tap then s else s.markAct q.inject
  let limited := match q.lastInject with
    | some n => !tap && q.throt && decide (s.cycle < n + 4)
    | none => false
  let waits := fun (s : State) => s.modStop p fun q => if tap then { q with tapWaited := q.tapWaited + 1 } else { q with waited := q.waited + 1 }
  match s.nextInject p tap with
  | none => (s, free)
  | some f =>
    let gone := fun (s : State) => (if tap then s else s.pay f).injected p tap f
    if limited then (waits s, free)
    else
      match s.wayOf p f (free.cw, free.ccw) with
      | none =>
        if s.ejectOk p f ∧ (if f.tap then free.tap else free.clus) then
          ((gone s).eject p f, if f.tap then { free with tap := false } else { free with clus := false })
        else (waits s, free)
      | some ccw =>
        if (if ccw then free.ccw else free.cw) ∧ !s.heldBack p ccw then
          ((gone s).sendOn p ccw f, if ccw then { free with ccw := false } else { free with cw := false })
        else (waits s, free)

/-- The turn of a stop (R409): ejection, passing on or deflection, injection with the tap before the cluster; a cluster port that holds
STARVE takes its empty slot before a tap that does not (R410). -/
def State.stopTurn (s : State) (p : Nat) : State :=
  let q := s.stop p
  let a := arriving q.cw s.cycle
  let b := arriving q.ccw s.cycle
  let ins := a.toList ++ b.toList
  let s := s.modStop p fun q => { q with
    turned := some s.cycle
    cw := if a.isSome then q.cw.drop 1 else q.cw
    ccw := if b.isSome then q.ccw.drop 1 else q.ccw }
  let (s, on1) := s.ejectPort p false ins
  let (s, on2) := s.ejectPort p true on1
  let s := on2.foldl (fun s f =>
    let s := if f.exit = p then s.modStop p fun q => { q with defl := min 2047 (q.defl + 1) } else s
    s.sendOn p f.ccw f) s
  let free : Free := {
    cw := !on2.any fun f => !f.ccw, ccw := !on2.any fun f => f.ccw,
    clus := on1.length == ins.length, tap := on2.length == on1.length }
  let first := !(q.starve.isSome && q.tapStarve.isNone)
  let (s, free) := s.injectPort p first free
  (s.injectPort p (!first) free).1

/-- A cycle of a stop (R409): one turn. -/
def execRingStopCycle (p : Nat) (s : State) : Host.Outcome State Fault Refusal :=
  .next (if (s.stop p).turned = some s.cycle then s else s.stopTurn p)

/-- An inject port that has waited 128 cycles raises STARVE on the ring of its flit (R410). -/
def execStarveRaise (p : Nat) (tap : Bool) (s : State) : Host.Outcome State Fault Refusal :=
  .next (
    let q := s.stop p
    match s.nextInject p tap with
    | none => s
    | some f =>
      if (if tap then q.tapWaited else q.waited) < 128 then s
      else
        let ring := s.wayOf p f (true, true)
        s.modStop p fun q => if tap then { q with tapStarve := ring } else { q with starve := ring })

/-- The end of a window of 1,024 cycles at a stop (R412), once in its cycle. -/
def execMeterWindowEnd (p : Nat) (s : State) : Host.Outcome State Fault Refusal :=
  .next (if s.cycle % 1024 ≠ 0 ∨ (s.stop p).windowAt = some s.cycle then s
    else s.modStop p fun q => { q with meter := q.defl, defl := 0, throt := decide (q.thr < q.defl), windowAt := some s.cycle })

/-! ### Reassembly and lost flits (R414, R418) -/

/-- The command with a number, and its core. -/
def State.cmdAnywhere (s : State) (id : Nat) : Option (Nat × Cmd) :=
  s.cores.findSome? fun x => (x.2.cmds.find? fun y => y.id == id).map fun y => (x.1, y)

/-- A message is refused with 0x12 to its sender (R231, R418): an access answers its thread with it, a context goes back to its
source, a message of the module's own protocols is sent again. A command halts for its bulk requests by itself (R263). -/
def State.refuseEcc (s : State) (x : Msg) : State :=
  let f : FaultInfo := { code := 0x12 }
  match x.body with
  | .access _ _ _ _ => (s.drop x.id).deliver x.org x.id (.fault f)
  | .winRead _ => (s.drop x.id).deliver x.org x.id (.fault f)
  | .rfill _ _ _ _ acc => (s.drop x.id).deliver x.org acc (.fault f)
  | .answer acc _ => (s.drop x.id).deliver x.org acc (.fault f)
  | .fe _ _ _ => (s.drop x.id).deliver x.org x.id (.fault f)
  | .barArr _ => (s.drop x.id).deliver x.org x.id (.fault f)
  | .barRead _ _ => (s.drop x.id).deliver x.org x.id (.fault f)
  | .bulk who _ _ _ => if who = 0 then s.drop x.id else if (s.cmdAnywhere who).isSome then s else s.offer x
  | .bulkEnd who _ => if (s.cmdAnywhere who).isSome then s else s.offer x
  | .reserved => s.drop x.id
  | .context ctx =>
    ((s.drop x.id).offPort x.src x.id).send {
      id := 0, src := 16384, dst := x.org.core, dmod := x.org.away.getD s.modid, ten := x.ten, org := x.org,
      body := .context { ctx with fault := some { f with addr := ctx.target }, basket := [] } }
  | .post _ _ _ _ => s.dropWith x { x.body.refusal x.refusals with code := 0x12 }
  | .callat _ _ _ => s.dropWith x { x.body.refusal x.refusals with code := 0x12 }
  | .chan _ _ _ _ _ => s.dropWith x { x.body.refusal x.refusals with code := 0x12 }
  | .chctl _ _ _ => s.dropWith x { x.body.refusal x.refusals with code := 0x12 }
  | _ => s.offer x

/-- What a poisoned flit leaves behind is delivered (R418): a bulk write stores poison, and data carries it to its requester. -/
def Body.carriesPoison : Body → Bool
  | .access _ _ _ (.store _) => true
  | .bulk _ _ _ _ => true
  | .bulkEnd _ _ => true
  | _ => false

/-- A flit reaches its core, that of a message its reassembly entry; the last one hands the message on whole and frees the entry (R414); a
poisoned message is discarded (R418). -/
def execFlitReassembly (c : Nat) (s : State) : Host.Outcome State Fault Refusal :=
  .next (match (s.core c).landed with
    | [] => s
    | m :: _ =>
      let s := s.modCore c fun k => { k with landed := k.landed.drop 1 }
      let free := fun (s : State) => s.modCore c fun k => { k with rtable := removeNat k.rtable m }
      match s.msg m with
      | none => free s
      | some x =>
        if 1 < x.left then s.modMsg m fun y => { y with left := y.left - 1 }
        else if x.poisoned ∧ !x.body.carriesPoison then (free s).refuseEcc { x with poisoned := false }
        else (free s).modMsg m fun y => { y with left := 0, stage := .arrived })

/-- A message unanswered for 2^20 cycles is refused (R418). -/
def execMessageAnswerTimeout (m : Nat) (s : State) : Host.Outcome State Fault Refusal :=
  .next (match s.msg m with
    | none => s
    | some x => if (x.stage = .flits ∨ x.stage = .away) ∧ x.born + 2 ^ 20 ≤ s.cycle then s.refuseEcc x else s)

/-- A thread that has waited 2^20 cycles for a memory reply (R418): its bundle faults with 0x12. -/
def execMemoryReplyTimeout (c k : Nat) (s : State) : Host.Outcome State Fault Refusal :=
  .next (match s.thr c k with
    | none => s
    | some t =>
      let late := (match t.st with
        | .waiting .reply false => true
        | .waiting (.fold 2) false => true
        | _ => false) && decide (t.since + 2 ^ 20 ≤ s.cycle)
      if late then (s.modThr c k fun t => { t with acc := t.acc.map fun a => { a with ans := .fault { code := 0x12 } } }).wake c k
      else s)

/-- A bulk request of a command has had no answer for 2^20 cycles (R418). -/
def State.bulkLate (s : State) (id : Nat) : Bool := s.net.any fun m =>
  match m.body with
  | .bulk w _ _ _ => w == id && decide (m.born + 2 ^ 20 ≤ s.cycle)
  | .bulkEnd w _ => w == id && decide (m.born + 2 ^ 20 ≤ s.cycle)
  | _ => false

/-- A command whose bulk request has had no answer for 2^20 cycles halts with 0x12 (R263, R302, R310, R418), as it does on any other
uncorrected error; m is its number. The block that drains behind the one in hand is drained and checked first (R334). A latch that it was
filling is EMPTY again. -/
def execBulkRequestTimeout (m : Nat) (s : State) : Host.Outcome State Fault Refusal :=
  .next (match s.cmdAnywhere m with
    | none => s
    | some (c, x) =>
      if x.done ∨ x.halted.isSome ∨ x.back.isSome ∨ s.coreFrozen c ∨ !s.bulkLate m ∨ s.recordsFull x.org.core then s
      else
        let f : FaultInfo := { code := 0x12 }
        let s : State := { s with net := s.net.filter fun y =>
          match y.body with
          | .bulk w _ _ _ => w != m
          | .bulkEnd w _ => w != m
          | _ => true }
        match x.instr with
        | .mld g => (s.setLatch c g.vd.toNat {}).haltMatrix c x f
        | .mrot g => (s.setLatch (carouselNext c) (1 - g.va.toNat) {}).haltMatrix c x f
        | _ =>
          if x.eng = .vector then State.haltAtElem c s x ((vWork c x).element x.pos x.cnt 0) f
          else if x.eng = .copy then State.haltAtElem c s x ((copyWork c x).element x.pos x.cnt 0) f
          else
            match mfOf x.instr with
            | none => s.faultMatrix c x f
            | some g =>
              let (s, x) := s.beginBlock c x g
              s.faultMatrix c x f)

/-! ### The hub's ways and credits (R416, R431, R432) -/

/-- The links that may carry a flit to a module (R431, R432). -/
def State.linksTo (s : State) (m : Nat) : List Nat :=
  let w := Tab.findD s.hub.reach m 0
  (List.range 16).filter fun l => w.getLsbD 16 && w.getLsbD l && (Tab.findD s.hub.links l 0).getLsbD 6

/-- An unroutable message is refused (R432): a migration returns to its source with 0x10, a bulk transfer fails for its command, a batch is
answered with none admitted, any other is refused with 0x03; the refusal of another module's message leaves the way it came. -/
def State.unroutable (s : State) (x : Msg) : State :=
  if x.org.away.isSome then s.drop x.id
  else
  match x.body with
  | .bulk who line _ _ => (s.drop x.id).transferred who line false false
  | .rrow ctx =>
    ((s.drop x.id).offPort x.src x.id).send {
      id := 0, src := 16384, dst := x.org.core, dmod := s.modid, ten := x.ten, org := x.org,
      body := .context { ctx with fault := some { code := 0x10, addr := ctx.target, aux0 := 4 }, route := none, basket := [], bad := false } }
  | .context ctx =>
    let s := (s.drop x.id).offPort x.src x.id
    if ctx.route.isSome ∧ Config.cores ≤ x.src then
      s.send { id := 0, src := 16384, dst := x.src, dmod := s.modid, ten := x.ten, org := x.org, body := .routedBack ctx }
    else
      s.send { id := 0, src := 16384, dst := x.org.core, dmod := s.modid, ten := x.ten, org := x.org,
               body := .context { ctx with fault := some { code := 0x10, addr := ctx.target, aux0 := 4 }, basket := [] } }
  | .batch w e _ _ q =>
    (s.drop x.id).send { id := 0, src := 16384, dst := x.src, dmod := s.modid, ten := x.ten, body := .batchAns w e q 0 }
  | .txEnd _ => s.drop x.id
  | _ => s.dropWith x x.outright

/-- A flit at the hub (R415, R416, R432): it is for the hub or an engine, for a die port with a credit, for a peer link with a
credit, or unroutable. none: it waits. -/
def State.hubRoute (s : State) (f : Flit) : Option State :=
  match s.msg f.msg with
  | none => some s
  | some x =>
    if f.dmod = s.modid then
      if Config.cores ≤ f.dst then
        some (if x.left ≤ 1 ∧ x.poisoned ∧ !x.body.carriesPoison then s.refuseEcc { x with poisoned := false }
          else s.modMsg f.msg fun y => { y with left := y.left - 1, stage := if y.left ≤ 1 then .arrived else y.stage })
      else
        let p := clusterOf f.dst / 32 * 32 + 24
        let b := s.buf_ (16 + p / 64)
        if 0 < b.credits ∧ b.last ≠ some s.cycle then
          some ((s.modBuf (16 + p / 64) fun b => { b with credits := b.credits - 1, last := some s.cycle }).modStop p
            fun q => { q with tapIn := q.tapIn ++ [f] })
        else none
    else
      match s.linksTo f.dmod with
      | [] => some (s.unroutable x)
      | ls =>
        let l := ls.getD (Config.linkHash f.src f.dst % ls.length) 0
        let b := s.buf_ (32 + l)
        if 0 < b.credits ∧ b.pause ≤ s.cycle then some (s.modBuf (32 + l) fun b => { b with q := b.q ++ [f], credits := b.credits - 1 }) else none

/-- A flit crosses (R416, R432): from a die port (0 to 15), of the hub (48) or from a peer link (64 to 79) it is routed onward; over a peer link (32 to 47) it
reaches the far module, and a message whose last flit has gone awaits that module's answer (assumption log 63). -/
def execHubCrossing (m : Nat) (s : State) : Host.Outcome State Fault Refusal :=
  .next (match (s.buf_ m).q with
    | [] => s
    | f :: r =>
      let pop := fun (s : State) => s.modBuf m fun b => { b with q := r, owed := b.owed + 1 }
      if 32 ≤ m ∧ m < 48 then
        if s.cycle < (s.buf_ m).pause then s
        else
        let s := pop s
        match s.msg f.msg with
        | none => s
        | some x =>
          if 1 < x.left then s.modMsg f.msg fun y => { y with left := y.left - 1 }
          else if x.org.away.isSome then s.drop f.msg
          else s.modMsg f.msg fun y => { y with left := 0, stage := .away }
      else
        match (pop s).hubRoute f with
        | some s => s
        | none => s)

/-- The receiver returns a credit for a flit it has passed on (R416). -/
def execCreditReturn (q : Nat) (s : State) : Host.Outcome State Fault Refusal :=
  .next (if 0 < (s.buf_ q).owed then s.modBuf q fun b => { b with owed := b.owed - 1, credits := b.credits + 1 } else s)

/-- A peer link comes UP (R431): both ends have a valid module id, and they differ. -/
def execPeerLinkUp (l far : Nat) (s : State) : Host.Outcome State Fault Refusal :=
  .next (if l < 16 ∧ far < 64 ∧ s.hub.modid.getLsbD 6 ∧ far ≠ s.modid then
      s.modHub fun h => { h with links := Tab.put h.links l (BitVec.ofNat 64 (64 + far)) }
    else s)

/-- A peer link goes down (R431). -/
def execPeerLinkDown (l : Nat) (s : State) : Host.Outcome State Fault Refusal :=
  .next (if l < 16 then s.modHub fun h => { h with links := Tab.put h.links l (Tab.findD h.links l 0 &&& ~~~(64 : Word)) } else s)

/-! ### Purses (R425) -/

/-- SHARE of a tenant. -/
def State.share (s : State) (t : Nat) : Nat := fld (s.tenantWord t 13) 0 11

/-- The purses of a port at a multiple of 1,024 cycles (R425), once in its cycle; the SHAREs are read for every port at that cycle. -/
def execPurseRefill (c : Nat) (s : State) : Host.Outcome State Fault Refusal :=
  .next (if s.cycle % 1024 ≠ 0 ∨ (s.core c).refillAt = some s.cycle then s
    else
      let ts := List.range 64
      let before := if s.hub.sharesAt = some s.cycle then s.hub.sharesPrev else s.hub.shares
      let old := fun (t : Nat) => Tab.findD (s.core c).purses t (purseBase (fun i => Tab.findD before i 16) t, false)
      let s := s.modHub fun h => { h with
        shares := (ts.filter fun t => s.share t != 16).map fun t => (t, s.share t), sharesPrev := before, sharesAt := some s.cycle }
      let sum := fun (l : List Nat) => l.foldl (· + ·) 0
      let left := sum ((ts.filter fun t => !(old t).2).map fun t => (old t).1)
      let shares := sum ((ts.filter fun t => (old t).2).map s.share)
      let bonus := fun (t : Nat) => if (old t).2 then left * s.share t / shares else 0
      s.modCore c fun k => { k with refillAt := some s.cycle, purses := (ts.filter fun t => bonus t != 0).map fun t => (t, (purseBase s.shareNow t + bonus t, false)) })

end Sys2Proof.Machine
end

