-- ==== Sys2Proof/Machine/EvLaunch.lean ====
section
/-! DEFINITION. Events of the intake (R375 to R382, R428): submissions from the host, the check of a launch record, dependences. -/

namespace Sys2Proof.Machine

/-! ### The check of a record (R375, R376, R382, R388, R435) -/

/-- The first page of an interval that the hub's read of a tenant misses. -/
def State.missingPage (s : State) (t : Nat) (p : Word) (n : Nat) : Option Nat :=
  let hit := (pagePieces (ptrAddr p) n).find? fun x =>
    match s.hubPa t x.1 .read with
    | .error none => true
    | _ => false
  hit.map fun x => x.1

/-- What the intake has read: bytes, a page to wait for, or nothing readable. -/
inductive Got where
  | bytes (b : List Byte)
  | page (va : Nat)
  | bad

/-- A read of the intake for a tenant. -/
def State.intakeRead (s : State) (t : Nat) (p : Word) (n : Nat) : Got :=
  match s.hubRead t p n with
  | .ok bs => .bytes bs
  | .error (some _) => .bad
  | .error none =>
    match s.missingPage t p n with
    | some va => .page va
    | none => .bad

/-- A field of the record is not as R375 requires, or a table's entry, or the header's MAGIC (reason 0x03). -/
def Launch.badField (l : Launch) (htab : List Byte) (magic : Nat) : Bool :=
  let w := l.w
  let dep := fun (k : Nat) => fld (w (14 + 2 * k)) 59 5 != 0 || l.depKind k == 3
  fld (w 3) 37 27 != 0 || fld (w 5) 44 20 != 0 || fld (w 6) 54 10 != 0 || w 13 != 0 || w 22 != 0 || w 23 != 0 ||
    (List.range 4).any dep ||
    (l.hk && fld (w 0) 32 32 != 0) ||
    fld l.ftgt 30 34 != 0 || fld l.ftgt 1 9 != 0 ||
    (List.range l.roots).any (fun i => w 4 != 0 && 2 ^ 6 ≤ (htab.getD (2 * i + 1) 0).toNat) ||
    l.sd == 0 || decide (7 < l.sd) || decide (l.cscope < 7) || decide (10 < l.cscope) ||
    l.roots == 0 || decide (16777216 < l.roots) ||
    fld (w 1) 0 5 != 0 || fld (w 4) 0 1 != 0 || fld (w 8) 0 3 != 0 || fld (w 9) 0 3 != 0 || fld (w 12) 0 3 != 0 ||
    fld (w 5) 39 4 == 0 || decide (l.lmem < 1024) || l.lmem % 1024 != 0 || l.acc % 64 != 0 || l.sstk % 16 != 0 ||
    fld (w 6) 19 19 % 64 != 0 || fld (w 6) 0 19 % 64 != 0 || magic != 0x434F424A

/-- LMEM beyond what R382 admits. -/
def Launch.badLmem (l : Launch) : Bool :=
  let tgen := fld (l.w 5) 39 4
  decide (262144 < l.lmem) && (tgen == 2 || decide (524288 < l.lmem) || !(l.w 5).getLsbD 38)

/-- The clusters with a core in a tenant's partition. -/
def State.tenantClusters (s : State) (t : Nat) : List Nat :=
  (s.cores.filter fun x => s.admits x.1 t).foldl (fun a x => insertNat a (clusterOf x.1)) []

/-- The reason of a readable record's refusal in the order of R376, 0 where it is accepted; ten and cls are the submitter's. -/
def State.reasonFor (s : State) (l : Launch) (ten cls : Nat) (args : Bool) (htab head : List Byte) : Nat :=
  let h := fun (i : Nat) => wordAt head i
  let lsize := fld (h 5) 0 19
  let open_ := (s.hub.launches.filter fun x => x.st != .complete).length
  if args ∨ l.ptr.toNat % 64 ≠ 0 ∨ l.badField htab (fld (h 0) 32 32) then 3
  else if l.ten ≠ ten then 1
  else if l.cls < cls then 2
  else if 131072 < l.acc then 5
  else if l.badLmem ∨ l.lmem < fld (l.w 6) 0 19 + fld (l.w 6) 19 19 ∨ l.lmem < 16 * l.sstk ∨ l.lmem < lsize then 4
  else if (l.w 5).getLsbD 43 ∧ (h 1).getLsbD 50 then 7
  else if l.w 12 = 0 ∨ (s.tenantClusters l.ten).any fun cl => (s.saveFrame l cl).isNone then 6
  else if 256 ≤ open_ then 8
  else 0

/-- STATUS is written (R377). -/
def State.putStatus (s : State) (l : Launch) (n : Option Nat) (v : Nat) : State :=
  s.intakeWrite { ten := l.ten, what := 1, addr := l.ptr + 88, val := BitVec.ofNat 64 v, scope := l.cscope, launch := n,
                  pa := l.home.map fun x => s.locAddr x.1 (x.2 + 88) }

/-- The decision on a record whose tables are read (R376, R377): accepted, or refused with its reason. -/
def State.judge (s : State) (x : Msg) (l : Launch) (reason : Nat) (chan : Option Nat) : State :=
  let s := s.drop x.id
  let s := match chan with
    | some q => s.modChan (q / 32) (q % 32) fun h => { h with pend := dropFirst (fun (p : Task × Nat) => p.1.a0 == l.ptr) h.pend }
    | none => s
  if reason = 0 then
    let n := s.fresh
    let s := s.bump.modHub fun h => { h with launches := h.launches ++ [{ l with num := n }] }
    s.putStatus l (some n) 1
  else
    let s := if l.words = [] ∧ l.home.isNone then
        s.intakeWrite { ten := x.ten, what := 1, addr := l.ptr + 88, val := BitVec.ofNat 64 (2 + reason * 256), scope := 7, launch := none }
      else s.putStatus l none (2 + reason * 256)
    match chan with
    | some _ => s
    | none =>
      (s.parkLater x.org { code := 0x15, addr := l.ptr, aux0 := BitVec.ofNat 64 reason }).checkRoot x.org.bind x.org.root

/-- A submission waits for a page of its record (R398), or is refused where the page was (R376). -/
def State.pageOrRefuse (s : State) (x : Msg) (l : Launch) (ten va : Nat) (chan : Option Nat) : State :=
  if x.refusals ≠ 0 then s.judge x l 9 chan
  else
    ((s.pageRequest 0 ten 0 va .read (.submit x.id)).getD (s.holdRequest 0 ten 0 va .read (.submit x.id))).modMsg x.id fun y =>
      { y with stage := .wait (2 ^ 64) }

/-- The record of a submission (R244, R376): a thread's may lie in local memory, through any aperture that the thread's core reaches. -/
def State.recordBytes (s : State) (x : Msg) (ten : Nat) (home : Option (Nat × Nat)) (ptr : Word) : Got :=
  match home with
  | some (c, o) => .bytes (Mem.readRuns s.mem (s.locRuns c o 192))
  | none => if 2 ^ 56 ≤ ptrAddr ptr ∧ x.org.slot < 16 then .bad else s.intakeRead ten ptr 192

/-- A record is taken in (R376): it, HTAB, SAVE and the header are read, each a read of the record's tenant, then decided on. -/
def State.takeIn (s : State) (x : Msg) (ptr : Word) (ten cls : Nat) (args : Bool) (chan : Option Nat) : State :=
  let home := if chan.isNone then s.localOf x.org.core ten ptr 192 else none
  let l0 : Launch := { num := 0, words := [], ptr := ptr, home := home }
  match s.recordBytes x ten home ptr with
  | .bad => s.judge x l0 9 chan
  | .page va => s.pageOrRefuse x l0 ten va chan
  | .bytes bs =>
    let s := if home.isSome then s else s.hubUsed ten ptr 192 .read
    let l : Launch := { l0 with words := wordsOf bs 24 }
    let table := fun (s : State) (p : Word) (n : Nat) => if p = 0 then Got.bytes [] else s.intakeRead l.ten p n
    let used := fun (s : State) (p : Word) (n : Nat) => if p = 0 then s else s.hubUsed l.ten p n .read
    let hints := 2 * min l.roots 16777216
    match table s (l.w 4) hints with
    | .bad => s.judge x l 9 chan
    | .page va => s.pageOrRefuse x l l.ten va chan
    | .bytes htab =>
      let s := used s (l.w 4) hints
      match table s (l.w 12) 8192 with
      | .bad => s.judge x l 9 chan
      | .page va => s.pageOrRefuse x l l.ten va chan
      | .bytes _ =>
        let s := used s (l.w 12) 8192
        let head := BitVec.ofNat 64 (ptrAddr (s.entryCode l.ten (l.w 0) l.hk) - 64)
        match s.intakeRead l.ten head 64 with
        | .bad => s.judge x l 9 chan
        | .page va => s.pageOrRefuse x l l.ten va chan
        | .bytes bs =>
          let s := s.hubUsed l.ten head 64 .read
          s.judge x l (s.reasonFor l ten cls args htab bs) chan

/-- A submission reaches the intake (R377): of the host, once its channel delivers and a place is free; of a thread at once. It may
have to wait for a place for its record. -/
def execLaunchSubmission (m : Nat) (s : State) : Host.Outcome State Fault Refusal :=
  .next (match s.arrived m with
    | none => s
    | some x =>
      match x.body with
      | .launch ptr ten cls none => if s.recordsFull x.org.core then s else s.takeIn x ptr ten cls false none
      | .launch ptr ten cls (some q) =>
        let h := s.chan (q / 32) (q % 32)
        let full := decide (256 ≤ (s.hub.launches.filter fun l => l.st != .complete).length)
        if !h.en ∨ h.blk ∨ full then s
        else
          match h.pend with
          | (t, _) :: _ => if t.a0 = ptr then s.takeIn x ptr ten cls (t.a1 != 0 || t.a2 != 0 || t.a3 != 0) (some q) else s
          | [] => s.drop m
      | _ => s)

/-! ### Submission windows (R428) -/

/-- Messages of a tenant that the hub holds undelivered. -/
def State.undelivered (s : State) (t : Nat) : Nat := (s.net.filter fun m =>
  match m.body with
  | .chan _ _ _ _ true => m.ten == t
  | _ => false).length

/-- A write to a tenant's submission window (R428): of eight words in the layout, to an office core of the live mask; any other is
discarded. While 64 messages are held, the link holds the write back. -/
def execSubmissionWrite (t : Nat) (ws : List Word) (s : State) : Host.Outcome State Fault Refusal :=
  .next (
    let w := fun (i : Nat) => ws.getD i 0
    let c := fld (w 0) 0 14
    let task : Task := { a0 := w 1, a1 := w 2, a2 := w 3, a3 := w 4 }
    if ws.length ≠ 8 ∨ fld (w 0) 22 42 ≠ 0 ∨ w 5 ≠ 0 ∨ w 6 ≠ 0 ∨ w 7 ≠ 0 ∨ !s.isOffice c ∨ !s.hub.funcs.contains t then s
    else if 64 ≤ s.undelivered t then s
    else
      s.send { id := 0, src := 16384, dst := c, dmod := s.modid, ten := t,
               body := .chan (fld (w 0) 14 5) task (fld (w 0) 19 3) (w 0) true })

/-- A submission that its channel refused is delivered again after 64 cycles (R428). -/
def execSubmissionResend (m : Nat) (s : State) : Host.Outcome State Fault Refusal :=
  .next (match s.due m with
    | none => s
    | some x =>
      match x.body with
      | .chan _ _ _ _ true => s.offer x
      | _ => s)

/-! ### Dependences (R381) -/

/-- The roots of a launch whose bits of the bitmap at an address are set, not yet met; a root whose byte cannot be read is skipped. -/
def State.metBits (s : State) (l : Launch) (k dval : Nat) (a : Word) : List (Nat × Nat) :=
  (List.range l.roots).filterMap fun r =>
    let i := r + dval
    let set := match s.hubRead l.ten (a + BitVec.ofNat 64 (i / 8)) 1 with
      | .ok bs => (bs.getD 0 0).getLsbD (i % 8)
      | .error _ => false
    if set && !l.metRoots.contains (k, r) then some (k, r) else none

/-- The intake reads an unmet dependence (R381), each read a read of the record's tenant (R392); a read that faults is skipped. -/
def execDependencePoll (l j : Nat) (s : State) : Host.Outcome State Fault Refusal :=
  .next (match s.launch l with
    | none => s
    | some x =>
      let a := BitVec.ofNat 64 (fld (x.w (14 + 2 * j)) 0 57)
      let dval := x.w (15 + 2 * j)
      if 4 ≤ j then s
      else
        match x.depKind j with
        | 1 =>
          if x.met.contains j then s
          else
            match s.hubRead x.ten a 8 with
            | .ok bs =>
              let s := s.hubUsed x.ten a 8 .read
              if dval.toNat ≤ natOfBytes bs then s.modLaunch l fun y => { y with met := insertNat y.met j } else s
            | .error _ => s
        | 2 =>
          let first := dval.toNat / 8
          let n := (x.roots + dval.toNat + 7) / 8 - first
          let new := s.metBits x j dval.toNat a
          (s.hubUsed x.ten (a + BitVec.ofNat 64 first) n .read).modLaunch l fun y => { y with metRoots := y.metRoots ++ new }
        | _ => s)

end Sys2Proof.Machine
end

