-- ==== Sys2Proof/Machine/EvHost.lean ====
section
/-! DEFINITION. The host's accesses to the functions' windows (R428, R447, R448) and streams (R429, R443). -/

namespace Sys2Proof.Machine

/-! ### The device window (R428, R429) -/

/-- The bytes of the window lie in a MAPPED frame (R428). -/
def State.windowMapped (s : State) (off n : Nat) : Bool :=
  decide (off + n ≤ 4 * Config.dieBytes) && n != 0 &&
    (List.range 2).all fun i =>
      let a := off + i * (n - 1)
      fatState (s.fat (a / Config.dieBytes) (a % Config.dieBytes / Config.frameBytes)) == 1 && !s.unhomed a

/-- A host write of bytes performed at its home slice (R108, R428): every remote copy becomes invalid. -/
def State.hostPerform (s : State) (off : Nat) (bytes : List Byte) : State :=
  if s.windowMapped off bytes.length then
    let o : Origin := { core := 16384, slot := 16, csc := 7 }
    let d := off / Config.dieBytes
    let w := s.fat d (off % Config.dieBytes / Config.frameBytes)
    let s := match s.homeOf w off with
      | some h => s.l2Touch h (fatTen w) off bytes.length 0 true
      | none => s
    s.perform o none off bytes
  else s

/-- The boot status word (R448). -/
def State.bootStatus (s : State) : Word :=
  let h := s.hub
  BitVec.ofNat 64 (h.lc * 2 ^ 14 + (if h.min then 2 ^ 13 else 0) + h.stage * 2 ^ 10 + h.fails * 2 ^ 8 + h.reason)

/-- A stream of tenant t's function, or with t = 64 of function 0. -/
def State.stream (s : State) (t st : Nat) : Stream := Tab.findD s.hub.streams (16 * t + st) {}
/-- The state with a stream changed. -/
def State.modStream (s : State) (t st : Nat) (f : Stream → Stream) : State :=
  s.modHub fun h => { h with streams := Tab.put h.streams (16 * t + st) (f (s.stream t st)) }

/-- The status word of a stream (R428); the writes held saturate at 255: DESIGN CHOICE (assumption log 79). -/
def Stream.status (x : Stream) : Word :=
  BitVec.ofNat 64 (x.e + (if x.broken then 2 ^ 16 else 0) + min 255 x.held.length * 2 ^ 24)

/-- The first offset at which the model numbers function 0's BAR0 in a host access; before it lies the device window. -/
def bar0 : Nat := 2 ^ 48
/-- The first offset of the tenants' BAR0 pages, 2^16 apart, in the model's numbering. -/
def tenantBar : Nat := 2 ^ 49

/-- Function 0 writes 0 to a stream's status word (R428). -/
def execStreamStatusReset (t st : Nat) (s : State) : Host.Outcome State Fault Refusal :=
  .next (if t < 64 ∧ st < 16 then s.modStream t st fun y => { y with e := 0, broken := false } else s)

/-- A host write of n bytes to staging word j (R447): of another size than 8 it is discarded. -/
def execOfficeMaskStagingWrite (j n : Nat) (v : Word) (s : State) : Host.Outcome State Fault Refusal :=
  .next (if n = 8 ∧ j < 256 then s.modHub fun h => { h with staged := if v = 0 then Tab.del h.staged j else Tab.put h.staged j v } else s)

/-- What survives a reset (R439, R443, R447, R449): the fuses, FAILS and REASON, the staged office mask, the depot's images and
durable areas, and host memory, which is not the module's. -/
def State.cold (s : State) : State :=
  { (({} : State)) with
    fresh := s.fresh
    mem := s.mem.filter fun x => decide (Config.hostBase ≤ x.1)
    hub := {
      lc := s.hub.lc, min := s.hub.fails == 3, fails := s.hub.fails, reason := s.hub.reason, staged := s.hub.staged
      images := s.hub.images.filter fun i => i.persistent } }

/-- Module reset: OP 2 of the boot command word (R443, R448). -/
def execModuleReset (s : State) : Host.Outcome State Fault Refusal := .next s.cold
/-- OP 1 of the boot command word (R448): FAILS is 0, and so REASON reads 0; then the module resets. -/
def execClearFailsReset (s : State) : Host.Outcome State Fault Refusal :=
  .next (s.modHub fun h => { h with fails := 0, reason := 0 }).cold

/-- A host write of n bytes to function 0's BAR0 (R428, R447, R448): a stream's status word, a staging word, or the boot command word;
elsewhere, and with another command, it is discarded. -/
def State.hostBar0 (s : State) (a n v : Nat) : Host.Outcome State Fault Refusal :=
  if 0x3800 ≤ a ∧ a < 0x4000 ∧ a % 8 = 0 then execOfficeMaskStagingWrite ((a - 0x3800) / 8) n (BitVec.ofNat 64 v) s
  else if 0x4000 ≤ a ∧ a < 0x6000 ∧ a % 8 = 0 ∧ n = 8 ∧ v % 2 ^ 64 = 0 then execStreamStatusReset ((a - 0x4000) / 128) ((a - 0x4000) / 8 % 16) s
  else if a = 0x3008 ∧ n = 8 ∧ v = 1 then execClearFailsReset s
  else if a = 0x3008 ∧ n = 8 ∧ v = 2 then execModuleReset s
  else .next s

/-- A host write of n bytes to tenant t's BAR0 (R428): a submission of 64 bytes, or an identity sent to the interrupt file, in little or big
endian order, as the specification of that page gives its two registers (assumption log 26); elsewhere it is discarded. -/
def State.hostTenantBar (s : State) (t a n v : Nat) : Host.Outcome State Fault Refusal :=
  if a = 0 ∧ n = 64 then execSubmissionWrite t ((List.range 8).map fun i => BitVec.ofNat 64 (v / 2 ^ (64 * i))) s
  else if a = 0x1000 ∧ n = 4 then execShootdownRequest t (v % 2 ^ 32) s
  else if a = 0x1004 ∧ n = 4 then execShootdownRequest t (natOfBytes (bytesOfNat 4 v).reverse) s
  else .next s

/-- A host write of n bytes (R428): to the device window, discarded where the frame is not MAPPED; to function 0's BAR0 at bar0; to tenant
t's BAR0 at tenantBar + 2^16 t. -/
def execHostWindowWrite (off n v : Nat) (s : State) : Host.Outcome State Fault Refusal :=
  if off < bar0 then .next (s.hostPerform off (bytesOfNat n v))
  else if off < tenantBar then s.hostBar0 (off - bar0) n v
  else s.hostTenantBar ((off - tenantBar) / 2 ^ 16) ((off - tenantBar) % 2 ^ 16) n v

/-- A host read of n bytes (R428, R447, R448): of the device window, of function 0's BAR0 at bar0, of tenant t's BAR0 at
tenantBar + 2^16 t, whose interrupt file reads 0; none stands for Unsupported Request. -/
def State.hostReadAt (s : State) (off n : Nat) : Option Nat :=
  if off < bar0 then
    if s.windowMapped off n ∧ !s.poisoned off n then some (s.memNat off n) else none
  else if off < tenantBar then
    let a := off - bar0
    if n ≠ 8 ∨ a % 8 ≠ 0 then none
    else if a = 0x3000 then some s.bootStatus.toNat
    else if 0x3800 ≤ a ∧ a < 0x4000 then some (Tab.findD s.hub.staged ((a - 0x3800) / 8) 0).toNat
    else if 0x4000 ≤ a ∧ a < 0x6000 then some (s.stream ((a - 0x4000) / 128) ((a - 0x4000) / 8 % 16)).status.toNat
    else none
  else
    let a := (off - tenantBar) % 2 ^ 16
    let t := (off - tenantBar) / 2 ^ 16
    if n = 8 ∧ a % 8 = 0 ∧ 0x2000 ≤ a ∧ a < 0x2080 ∧ t < 64 then some (s.stream t ((a - 0x2000) / 8)).status.toNat
    else if n = 4 ∧ a % 4 = 0 ∧ 0x1000 ≤ a ∧ a < 0x2000 ∧ t < 64 then some 0
    else none

/-- A host read (R428). -/
def execHostWindowRead (off n : Nat) (s : State) : Host.Outcome State Fault Refusal :=
  .next (s.modHub fun h => { h with hostRead := s.hostReadAt off n })

/-! ### Streams (R429) -/

/-- Held writes performed in turn as the sequence reaches them. -/
def State.streamTurn (s : State) (t st : Nat) : Nat → State
  | 0 => s
  | n + 1 =>
    let x := s.stream t st
    match x.held.find? fun w => w.1 == x.e with
    | none => s
    | some w =>
      let s := s.hostPerform w.2.1 w.2.2
      let s := s.modStream t st fun x => { x with
        e := (x.e + 1) % 2 ^ 16, held := dropFirst (fun (y : Nat × Nat × List Byte) => y.1 == w.1) x.held, since := s.cycle }
      State.streamTurn s t st n

/-- Writes that the hub holds, of all streams (R429). -/
def State.heldWrites (s : State) : Nat := s.hub.streams.foldl (fun a x => a + x.2.held.length) 0

/-- A host write of function t + 1, or with t = 64 of function 0, with a stream and a sequence number (R429): performed, held, or discarded. While 1,024 are held, the link holds
it back. -/
def execHostStreamWrite (t st sq off n v : Nat) (s : State) : Host.Outcome State Fault Refusal :=
  .next (
    let x := s.stream t st
    let d := (sq % 2 ^ 16 + 2 ^ 16 - x.e) % 2 ^ 16
    let bytes := bytesOfNat n v
    if 64 < t ∨ 16 ≤ st ∨ x.broken then s
    else if d = 0 then
      let s := s.hostPerform off bytes
      let s := s.modStream t st fun x => { x with e := (x.e + 1) % 2 ^ 16, since := s.cycle }
      s.streamTurn t st x.held.length
    else if 255 < d ∨ 1024 ≤ s.heldWrites then s
    else
      s.modStream t st fun y => { y with
        held := y.held ++ [(sq % 2 ^ 16, off, bytes)], since := if y.held = [] then s.cycle else y.since })

/-- A stream that holds writes and has not advanced for 2^20 cycles is BROKEN (R429). -/
def execStreamBrokenTimeout (t st : Nat) (s : State) : Host.Outcome State Fault Refusal :=
  .next (
    let x := s.stream t st
    if x.held ≠ [] ∧ x.since + 2 ^ 20 ≤ s.cycle then s.modStream t st fun y => { y with broken := true, held := [] } else s)

/-- A function-level reset (R429, R443): the function's streams begin anew. -/
def execFunctionLevelReset (t : Nat) (s : State) : Host.Outcome State Fault Refusal :=
  .next (s.modHub fun h => { h with streams := h.streams.filter fun x => x.1 / 16 != t })

end Sys2Proof.Machine
end

