-- ==== Sys2Proof/Machine/EvPeer.lean ====
section
/-! DEFINITION. What the other modules of a peer group do to this one (R45, R231, R241, R308, R345 to R350, R432; assumption log 63):
messages that come in over a peer link, the answers to those that have gone out, and the bytes that a copy pushes. -/

namespace Sys2Proof.Machine

/-- A peer link is up. -/
def State.linked (s : State) : Bool := s.hub.links.any fun l => l.2.getLsbD 6
/-- Peer link l is up and leads to module far, and no calibration pauses it (R431, R450). -/
def State.linkFrom (s : State) (l far : Nat) : Bool :=
  decide (l < 16) && decide (far < 64) && (Tab.findD s.hub.links l 0).toNat == 64 + far && decide ((s.buf_ (64 + l)).pause ≤ s.cycle)

/-- What may come from another module: posts, remote calls, channel messages and controls, migrations, batch headers, rows and the ends
of transactions; other modules' memory is reached by nothing else (R97). -/
def Body.crosses : Body → Bool
  | .post _ _ _ _ => true
  | .callat _ _ _ => true
  | .chan _ _ _ _ host => !host
  | .chctl _ _ _ => true
  | .context c => c.fault.isNone
  | .batch _ _ _ _ _ => true
  | .rrow _ => true
  | .txEnd _ => true
  | .reserved => true
  | _ => false

/-- Rows go to a routing engine, everything else to a core. -/
def Body.toEngine : Body → Bool
  | .rrow _ => true
  | _ => false

/-- The number of another module's core or engine as a source, beyond the own ones. -/
def farSource (far a : Nat) : Nat := 2 ^ 15 * (far + 1) + a % 2 ^ 15

/-- A context as it comes in: the number of a thread that left for another module, or a new one; routed here by the other module's
engine, it returns there. -/
def State.farContext (s : State) (far : Nat) (c : Context) : Context :=
  let left := s.net.any fun m => m.stage == .there && (match m.body with
    | .context d => d.uid == c.uid
    | _ => false)
  let back := c.away.bind fun m => if m = s.modid then none else some m
  { c with uid := if left then c.uid else s.fresh, entered := s.fresh, away := if c.route.isSome then some far else back }

/-- A message of module far comes in over peer link l (R416, R431, R432): its flits, age ring hops old (R408), take places of the link's
buffer, one credit each. -/
def State.peerIn (s : State) (l far age : Nat) (x : Msg) : State :=
  let goes := if x.body.toEngine then (engineDie x.dst).isSome else decide (x.dst < Config.cores)
  if !s.linkFrom l far ∨ far = s.modid ∨ !x.body.crosses ∨ !goes ∨ (s.buf_ (64 + l)).credits < x.body.flits then s
  else
    let id := s.fresh
    let o : Origin := { core := x.org.core, uid := id, bind := x.org.bind, away := some far }
    let y : Msg := { id := id, src := farSource far x.src, dst := x.dst, dmod := x.dmod, ten := x.ten % 64, org := o, body := x.body,
                     stage := .flits, left := x.body.flits, born := s.cycle }
    let y := match x.body with
      | .context c =>
        let c := s.farContext far c
        { y with body := .context c, ten := bindTen c.bind, org := { o with bind := c.bind, root := c.root } }
      | .rrow c => { y with body := .rrow { s.farContext far c with away := none }, ten := bindTen c.bind }
      | _ => y
    let fs := (y.toFlits y.body.flits).map fun f => { f with age := min age 1023 }
    { s.bump with net := s.net ++ [y] }.modBuf (64 + l) fun b => { b with q := b.q ++ fs, credits := b.credits - fs.length }

/-- A message that has crossed a peer link and has no answer. -/
def State.abroad (s : State) (m : Nat) : Option Msg :=
  match s.msg m with
  | none => none
  | some x => if x.stage = .away then some x else none

/-- The root of the work that a message carries: a thread or a task. -/
def Body.work : Body → Option (Word × Nat)
  | .context c => if c.fault.isNone then some (c.bind, c.root) else none
  | .callat t _ _ => some (t.bind, t.root)
  | .chan _ t _ _ _ => some (t.bind, t.root)
  | _ => none

/-- A bulk write of a basket is not yet answered (R240). -/
def State.basketDue (s : State) (m : Nat) : Bool := s.net.any fun y =>
  match y.body with
  | .bulk who _ _ _ => who == m
  | _ => false

/-- A message that has crossed a peer link and that the peer module answers: a post only after the older unaccepted ones of its core for the
same register (R226), a context only after its basket's bulk writes (R240). -/
def State.offered (s : State) (m : Nat) : Option Msg := (s.abroad m).filter fun x => !s.heldPost x && !s.basketDue m

/-- A peer module accepts a message (R226, R231, R241): a context leaves its port, a routed one counts into SENT (R348), a batch is
answered with n tokens at most; the work of a root goes on there. -/
def State.peerTakes (s : State) (m n : Nat) : State :=
  match s.offered m with
  | none => s
  | some x =>
    let s := if x.body.isContext then s.offPort x.src m else s
    let s := if x.body.work.isSome then s.modMsg m fun y => { y with stage := .there } else (s.drop m).checkRoot x.org.bind x.org.root
    match x.body with
    | .context ctx => s.countSent x ctx
    | .batch w e count cap q =>
      s.send { id := 0, src := 16384, dst := x.src, dmod := s.modid, ten := x.ten, body := .batchAns w e q (min n (min count cap)) }
    | .bulk who line _ _ => s.transferred who line true x.poisoned
    | _ => s

/-- A peer module refuses a message (R226, R231, R241): for a full queue it is offered again, a context without limit; otherwise it is
dropped with a record for its sender, and a context comes back to its engine or, with code 0x10, to its source. -/
def State.peerRefuses (s : State) (m why : Nat) : State :=
  match s.offered m with
  | none => s
  | some x =>
    match x.body with
    | .context ctx =>
      if why = 1 ∨ ctx.fault.isSome then s.again m
      else
        let s := (s.drop m).offPort x.src m
        match engineDie x.src, ctx.route with
        | some _, some _ => s.send { id := 0, src := 16384, dst := x.src, dmod := s.modid, ten := x.ten, org := x.org, body := .routedBack ctx }
        | _, _ =>
          let f : FaultInfo := { code := 0x10, addr := ctx.target, aux0 := if why = 3 then 3 else 2 }
          s.send { id := 0, src := 16384, dst := x.org.core, dmod := s.modid, ten := x.ten, org := x.org,
                   body := .context { ctx with fault := some f, basket := [] } }
    | .batch _ _ _ _ _ => s
    | .rrow _ => s
    | .txEnd _ => s
    | .bulk who line _ _ => (s.drop m).transferred who line false false
    | b => if why = 1 then s.refuseFull x b.refusal else s.dropWith x x.outright

/-- The cores that a token on its way was routed from, if any (R346). -/
def Body.homes (b : Body) : List Nat := (b.theContext.map fun c => c.homes).getD []

/-- The work that a message brought to a peer module has ended there, or has come back (R45); the grants of the cores it was routed from may
be released (R378). -/
def State.peerEnds (s : State) (m : Nat) : State :=
  match s.msg m with
  | none => s
  | some x =>
    match x.stage, x.body.work with
    | .there, some (b, r) => x.body.homes.foldl State.checkGrant ((s.drop m).checkRoot b r)
    | _, _ => s

/-- Bytes of a peer module's cpr for a tenant (R308): checked here, and written to shared virtual memory or to the memories of a core
that the pointer names. -/
def State.peerPush (s : State) (ten : Nat) (p : Word) (bytes : List Byte) : State :=
  let o : Origin := { core := 16384, slot := 16, bind := BitVec.ofNat 64 (ten * 2 ^ 26), csc := 7 }
  let n := bytes.length
  if !s.linked ∨ 64 < n then s
  else
    match s.spaceOf 16384 ten p with
    | .ok (.virt a) =>
      if 64 < a % 64 + n then s
      else
        match s.hubPa ten a .write with
        | .ok pa => (s.hubUsed ten (BitVec.ofNat 64 a) n .write).perform o none pa bytes
        | .error _ => s
    | .ok (.loc c off) =>
      if c < Config.cores ∧ off + n ≤ Config.localBytes then s.perform o none (Config.localBase + c * Config.localBytes + off) bytes else s
    | .ok (.acc c off) => if c < Config.cores ∧ off + n ≤ Config.accBytes then s.perform o none (accAddr c off) bytes else s
    | _ => s

end Sys2Proof.Machine
end

