-- ==== Sys2Proof/Machine/Hart.lean ====
section
/-! DEFINITION. A porter as the hart that it is (R361 to R363, R373, R393): RV64IMAC with Zicsr, Zifencei, Zba, Zbb and Svpbmt, machine,
supervisor and user modes. R361 gives the set by reference to the RISC-V unprivileged and privileged specifications, which are not in the
manual: everything in this file but the device's own registers, its local interrupt 16 and the physical map is PRESUMED from them
(assumption log 90). A hart takes a step where the agenda says so. -/

namespace Sys2Proof.Machine

/-! ### Registers -/

/-- The hart of a porter. -/
def State.hart (s : State) (p : Nat) : Hart := (s.porter p).hart
/-- The state with a hart changed. -/
def State.modHart (s : State) (p : Nat) (f : Hart → Hart) : State := s.modPorter p fun q => { q with hart := f q.hart }

/-- A general register; x0 reads 0. -/
def Hart.r (h : Hart) (i : Nat) : Word := if i = 0 then 0 else Tab.findD h.x i 0
/-- A general register written; x0 discards it. -/
def Hart.put (h : Hart) (i : Nat) (v : Word) : Hart := if i = 0 then h else { h with x := Tab.put h.x i v }
/-- A control register as it is held. -/
def Hart.held (h : Hart) (n : Nat) : Word := Tab.findD h.csr n 0
/-- A control register set as it is held. -/
def Hart.hold (h : Hart) (n : Nat) (v : Word) : Hart := { h with csr := Tab.put h.csr n v }
/-- A bit of mstatus. -/
def Hart.status (h : Hart) (b : Nat) : Bool := (h.held 0x300).getLsbD b

/-- What an instruction of a hart comes to: the state behind it, with the program counter set, or an exception. -/
inductive HEnd where
  | done (s : State)
  | trap (s : State) (cause : Nat) (tval : Word)

/-! ### Control registers -/

/-- Bits of mstatus that software writes: SIE, MIE, SPIE, MPIE, SPP, MPP, MPRV, SUM, MXR, TVM, TW, TSR. -/
def mstatusBits : Word := 0x7E19AA
/-- Those that sstatus shows: SIE, SPIE, SPP, SUM, MXR. -/
def sstatusBits : Word := 0xC0122
/-- Interrupts that may be enabled: software, timer and external ones of both levels, and the local interrupt 16. -/
def mieBits : Word := 0x10AAA
/-- Interrupts that may be delegated. -/
def midelegBits : Word := 0x10222
/-- Exceptions that may be delegated: all but a call from machine mode. -/
def medelegBits : Word := 0xB3FF

/-- The register under a mask takes a value. -/
def masked (old v mask : Word) : Word := (old &&& ~~~mask) ||| (v &&& mask)

/-- The pending interrupts (R361): those that machine mode sets, and number 16 while a record awaits the porter. -/
def State.mip (s : State) (p : Nat) : Word :=
  ((s.hart p).held 0x344 &&& 0x222) ||| (if s.interrupt16 p then 0x10000 else 0)

/-- A control register read; none is an illegal instruction. -/
def State.csrRead (s : State) (p n : Nat) : Option Word :=
  let h := s.hart p
  let del := h.held 0x303
  if h.priv < n / 256 % 4 then none
  else if 0x323 ≤ n ∧ n ≤ 0x33F ∨ 0xB03 ≤ n ∧ n ≤ 0xB1F ∨ 0xF11 ≤ n ∧ n ≤ 0xF13 then some 0
  else
    match n with
    | 0x100 => some ((h.held 0x300 &&& sstatusBits) ||| 0x200000000)
    | 0x104 => some (h.held 0x304 &&& del)
    | 0x144 => some (s.mip p &&& del)
    | 0x180 => if h.priv = 1 ∧ h.status 20 then none else some (h.held n)
    | 0x300 => some (h.held n ||| 0xA00000000)
    | 0x301 => some 0x8000000000141105
    | 0x344 => some (s.mip p)
    | 0x106 => some 0
    | 0x306 => some 0
    | 0x320 => some 0
    | 0xB00 => some (BitVec.ofNat 64 s.cycle + h.held n)
    | 0xB02 => some h.instret
    | 0xF14 => some (BitVec.ofNat 64 p)
    | 0xF15 => some 0
    | 0x5C0 => s.dvReads p n
    | 0x5C1 => s.dvReads p n
    | 0x5C2 => s.dvReads p n
    | 0x5C3 => s.dvReads p n
    | 0xDC0 => s.dvReads p n
    | _ => if n ∈ [0x105, 0x10A, 0x140, 0x141, 0x142, 0x143, 0x302, 0x303, 0x304, 0x305, 0x30A, 0x340, 0x341, 0x342, 0x343] then some (h.held n) else none

/-- A control register written; none is an illegal instruction. -/
def State.csrWrite (s : State) (p n : Nat) (v : Word) : Option State :=
  let h := s.hart p
  let set := fun (m : Nat) (mask : Word) => some (s.modHart p fun h => h.hold m (masked (h.held m) v mask))
  let status := fun (mask : Word) =>
    let v := if mask.getLsbD 11 ∧ fld v 11 2 = 2 then setFld v 11 2 (h.held 0x300 >>> 11) else v
    some (s.modHart p fun h => h.hold 0x300 (masked (h.held 0x300) v mask))
  if h.priv < n / 256 % 4 ∨ n / 1024 = 3 then none
  else if 0x323 ≤ n ∧ n ≤ 0x33F ∨ 0xB03 ≤ n ∧ n ≤ 0xB1F then some s
  else
    match n with
    | 0x100 => status sstatusBits
    | 0x104 => set 0x304 (h.held 0x303 &&& mieBits)
    | 0x144 => set 0x344 (h.held 0x303 &&& 2)
    | 0x180 =>
      if h.priv = 1 ∧ h.status 20 then none
      else if fld v 60 4 ∈ [0, 8, 9, 10] then set n (BitVec.allOnes 64) else some s
    | 0x300 => status mstatusBits
    | 0x301 => some s
    | 0x302 => set n medelegBits
    | 0x303 => set n midelegBits
    | 0x304 => set n mieBits
    | 0x344 => set n 0x222
    | 0x105 => set n (~~~2)
    | 0x305 => set n (~~~2)
    | 0x141 => set n (~~~1)
    | 0x341 => set n (~~~1)
    | 0x106 => some s
    | 0x306 => some s
    | 0x320 => some s
    | 0x10A => set n 1
    | 0x30A => set n 0x4000000000000001
    | 0xB00 => some (s.modHart p fun h => h.hold n (v - BitVec.ofNat 64 s.cycle))
    | 0xB02 => some (s.modHart p fun h => { h with instret := v })
    | 0x5C0 => s.dvWrites p n v
    | 0x5C1 => s.dvWrites p n v
    | 0x5C2 => s.dvWrites p n v
    | 0x5C3 => s.dvWrites p n v
    | _ => if n ∈ [0x140, 0x142, 0x143, 0x340, 0x342, 0x343] then set n (BitVec.allOnes 64) else none

/-! ### Traps -/

/-- A trap of the hart: to supervisor mode where it is delegated and the hart is not in machine mode, otherwise to machine mode. -/
def State.hartTrap (s : State) (p cause : Nat) (intr : Bool) (tval : Word) : State :=
  s.modHart p fun h =>
    let up := h.priv ≤ 1 && (h.held (if intr then 0x303 else 0x302)).getLsbD cause
    let base := h.held (if up then 0x105 else 0x305)
    let c : Word := BitVec.ofNat 64 (cause + if intr then 2 ^ 63 else 0)
    let e := if up then 0x141 else 0x341
    let h := ((h.hold e h.pc).hold (e + 1) c).hold (e + 2) tval
    let m := h.held 0x300
    let m :=
      if up then setFld (setFld (setFld m 5 1 (m >>> 1)) 1 1 0) 8 1 (BitVec.ofNat 64 h.priv)
      else setFld (setFld (setFld m 7 1 (m >>> 3)) 3 1 0) 11 2 (BitVec.ofNat 64 h.priv)
    { h.hold 0x300 m with
      priv := if up then 1 else 3
      wfi := false
      pc := (base &&& ~~~3) + (if intr && base.getLsbD 0 then BitVec.ofNat 64 (4 * cause) else 0) }

/-- The interrupt that the hart takes next, if any: of those for machine mode first, and among them external, software, timer, supervisor
ones, the local one last. -/
def State.hartInterrupt (s : State) (p : Nat) : Option Nat :=
  let h := s.hart p
  let on := s.mip p &&& h.held 0x304
  let m := on &&& ~~~(h.held 0x303)
  let d := on &&& h.held 0x303
  let first := fun (w : Word) => [11, 3, 7, 9, 1, 5, 16].find? fun i => w.getLsbD i
  match (if h.priv < 3 ∨ h.status 3 then first m else none) with
  | some i => some i
  | none => if h.priv < 1 ∨ (h.priv = 1 ∧ h.status 1) then first d else none

/-! ### Translation (R361, R393) -/

/-- What a translation of a hart comes to. -/
inductive HAddr where
  | pa (s : State) (a : Nat)
  | page (s : State)
  | access (s : State)

/-- An access of a hart: what the exceptions name. -/
inductive HKind where
  | fetch
  | load
  | store
deriving DecidableEq, Repr

/-- The exceptions of an access: misaligned, access fault, page fault. -/
def HKind.causes : HKind → Nat × Nat × Nat
  | .fetch => (0, 1, 12)
  | .load => (4, 5, 13)
  | .store => (6, 7, 15)

/-- The mode whose rights an access has: a fetch the hart's own, data that of MPP under MPRV. -/
def Hart.rights (h : Hart) (k : HKind) : Nat := if k ≠ .fetch ∧ h.status 17 then fld (h.held 0x300) 11 2 else h.priv

/-- A leaf allows an access: U, SUM, MXR, R, W, X; A is set, and D for a store, for the hart sets neither. -/
def Hart.allows (h : Hart) (k : HKind) (pte : Word) : Bool :=
  let mode := h.rights k
  let user := if mode = 0 then pte.getLsbD 4 else !pte.getLsbD 4 || (k != .fetch && h.status 18)
  let right := match k with
    | .fetch => pte.getLsbD 3
    | .load => pte.getLsbD 1 || (h.status 19 && pte.getLsbD 3)
    | .store => pte.getLsbD 2
  user && right && pte.getLsbD 6 && (k != .store || pte.getLsbD 7)

/-- A page table entry that no walk accepts: not valid, write without read, a reserved bit, N, a memory type that is reserved or not
enabled. -/
def Hart.badPte (h : Hart) (pte : Word) : Bool :=
  let pb := fld pte 61 2
  !pte.getLsbD 0 || (pte.getLsbD 2 && !pte.getLsbD 1) || fld pte 54 7 != 0 || pte.getLsbD 63 ||
    pb == 3 || (pb != 0 && !(h.held 0x30A).getLsbD 62)

/-- The walk from a level down: the leaf and the level it lies at. -/
def State.hartWalk (s : State) (p va table : Nat) : Nat → State × Except Bool (Word × Nat)
  | 0 => (s, .error false)
  | i + 1 =>
    match s.porterLoad p (table + va / 2 ^ (12 + 9 * i) % 512 * 8) 8 with
    | none => (s, .error true)
    | some (s, v) =>
      let pte := BitVec.ofNat 64 v
      let h := s.hart p
      if h.badPte pte then (s, .error false)
      else if pte.getLsbD 1 ∨ pte.getLsbD 3 then
        if fld pte 10 44 % 2 ^ (9 * i) ≠ 0 then (s, .error false) else (s, .ok (pte, i))
      else if pte.getLsbD 4 ∨ pte.getLsbD 6 ∨ pte.getLsbD 7 ∨ fld pte 61 2 ≠ 0 then (s, .error false)
      else State.hartWalk s p va (fld pte 10 44 * 4096) i

/-- The TLB of a porter holds the entries of the last 64 walks: DESIGN CHOICE (assumption log 90), R393 gives it no size. -/
def Hart.fill (h : Hart) (e : PTlb) : Hart := { h with tlb := (e :: h.tlb).take 64 }

/-- An address of a hart as its mode translates it: as it stands in machine mode and with MODE 0, otherwise through the TLB or a walk of
satp's table. -/
def State.hartVm (s : State) (p : Nat) (k : HKind) (va : Word) : HAddr :=
  let h := s.hart p
  let satp := h.held 0x180
  let lv := match fld satp 60 4 with
    | 8 => 3
    | 9 => 4
    | _ => 5
  if h.rights k = 3 ∨ fld satp 60 4 = 0 then .pa s va.toNat
  else if sextW va (12 + 9 * lv) ≠ va then .page s
  else
    let asid := fld satp 44 16
    let at_ := fun (s : State) (pte : Word) (sh : Nat) =>
      if h.allows k pte then HAddr.pa s (fld pte 10 44 * 4096 / 2 ^ sh * 2 ^ sh + va.toNat % 2 ^ sh) else .page s
    match h.tlb.find? fun e => (e.global || e.asid == asid) && va.toNat / 2 ^ e.shift == e.vpn with
    | some e => at_ s e.pte e.shift
    | none =>
      match s.hartWalk p va.toNat (fld satp 0 44 * 4096) lv with
      | (s, .error true) => .access s
      | (s, .error false) => .page s
      | (s, .ok (pte, i)) =>
        let sh := 12 + 9 * i
        if h.allows k pte then
          at_ (s.modHart p fun h => h.fill { asid := asid, global := pte.getLsbD 5, vpn := va.toNat / 2 ^ sh, shift := sh, pte := pte }) pte sh
        else .page s

/-- An access of n bytes goes on with its physical address, or raises its exception. -/
def State.hartAt (s : State) (p : Nat) (k : HKind) (va : Word) (n : Nat) (go : State → Nat → Option HEnd) : HEnd :=
  let (mis, acc, page) := k.causes
  if va.toNat % n ≠ 0 then .trap s mis va
  else
    match s.hartVm p k va with
    | .page s => .trap s page va
    | .access s => .trap s acc va
    | .pa s a => (go s a).getD (.trap s acc va)

/-! ### Arithmetic -/

/-- The low half sign-extended. -/
def sx32 (v : Word) : Word := sextW v 32
/-- Signed division: by 0 all ones, an overflow wraps. -/
def rvDiv (a b : Word) : Word := if b = 0 then BitVec.allOnes 64 else a.sdiv b
/-- Unsigned division: by 0 all ones. -/
def rvDivu (a b : Word) : Word := if b = 0 then BitVec.allOnes 64 else a / b
/-- A 32-bit division, sign-extended; by 0 all ones. -/
def rvDivW (signed : Bool) (a b : Word) : Word :=
  let x := a.setWidth 32
  let y := b.setWidth 32
  if y = 0 then BitVec.allOnes 64 else (if signed then x.sdiv y else x / y).signExtend 64
/-- A 32-bit remainder, sign-extended; by 0 the dividend. -/
def rvRemW (signed : Bool) (a b : Word) : Word :=
  let x := a.setWidth 32
  let y := b.setWidth 32
  (if signed then x.srem y else x % y).signExtend 64
/-- The high 64 bits of a product of numbers. -/
def mulHigh (a b : Int) : Word := BitVec.ofInt 64 (a * b / 2 ^ 64)
/-- Leading zeros of the low n bits. -/
def rvClz (n : Nat) (v : Word) : Word :=
  BitVec.ofNat 64 (((List.range n).find? fun i => v.getLsbD (n - 1 - i)).getD n)
/-- Trailing zeros of the low n bits. -/
def rvCtz (n : Nat) (v : Word) : Word := BitVec.ofNat 64 (((List.range n).find? fun i => v.getLsbD i).getD n)
/-- Ones of the low n bits. -/
def rvCpop (n : Nat) (v : Word) : Word := BitVec.ofNat 64 (((List.range n).filter fun i => v.getLsbD i).length)
/-- Each byte all ones where it is not 0. -/
def orcB (v : Word) : Word :=
  BitVec.ofNat 64 (natOfBytes ((bytesOfNat 8 v.toNat).map fun b => if b = 0 then 0 else BitVec.allOnes 8))
/-- The bytes in the other order. -/
def rev8 (v : Word) : Word := BitVec.ofNat 64 (natOfBytes (bytesOfNat 8 v.toNat).reverse)
/-- The low half of an address-generation operand. -/
def uw (v : Word) : Word := zextW v 32

/-- Register operations of major opcode OP: base, M, Zba, Zbb. -/
def rvOp (f7 f3 : Nat) (a b : Word) : Option Word :=
  let sh := b.toNat % 64
  match f7, f3 with
  | 0x00, 0 => some (a + b)
  | 0x00, 1 => some (a <<< sh)
  | 0x00, 2 => some (if a.slt b then 1 else 0)
  | 0x00, 3 => some (if a.ult b then 1 else 0)
  | 0x00, 4 => some (a ^^^ b)
  | 0x00, 5 => some (a >>> sh)
  | 0x00, 6 => some (a ||| b)
  | 0x00, 7 => some (a &&& b)
  | 0x20, 0 => some (a - b)
  | 0x20, 5 => some (a.sshiftRight sh)
  | 0x20, 4 => some (~~~(a ^^^ b))
  | 0x20, 6 => some (a ||| ~~~b)
  | 0x20, 7 => some (a &&& ~~~b)
  | 0x01, 0 => some (a * b)
  | 0x01, 1 => some (mulHigh a.toInt b.toInt)
  | 0x01, 2 => some (mulHigh a.toInt b.toNat)
  | 0x01, 3 => some (mulHigh a.toNat b.toNat)
  | 0x01, 4 => some (rvDiv a b)
  | 0x01, 5 => some (rvDivu a b)
  | 0x01, 6 => some (a.srem b)
  | 0x01, 7 => some (a % b)
  | 0x10, 2 => some ((a <<< 1) + b)
  | 0x10, 4 => some ((a <<< 2) + b)
  | 0x10, 6 => some ((a <<< 3) + b)
  | 0x05, 4 => some (if a.slt b then a else b)
  | 0x05, 5 => some (if a.ult b then a else b)
  | 0x05, 6 => some (if a.slt b then b else a)
  | 0x05, 7 => some (if a.ult b then b else a)
  | 0x30, 1 => some (a.rotateLeft sh)
  | 0x30, 5 => some (a.rotateRight sh)
  | _, _ => none

/-- Register operations of major opcode OP-32; zext.h is the one with rs2 = 0. -/
def rvOpW (f7 f3 rs2 : Nat) (a b : Word) : Option Word :=
  let sh := b.toNat % 32
  let w : BitVec 32 := a.setWidth 32
  match f7, f3 with
  | 0x00, 0 => some (sx32 (a + b))
  | 0x00, 1 => some (sx32 (a <<< sh))
  | 0x00, 5 => some ((w >>> sh).signExtend 64)
  | 0x20, 0 => some (sx32 (a - b))
  | 0x20, 5 => some ((w.sshiftRight sh).signExtend 64)
  | 0x01, 0 => some (sx32 (a * b))
  | 0x01, 4 => some (rvDivW true a b)
  | 0x01, 5 => some (rvDivW false a b)
  | 0x01, 6 => some (rvRemW true a b)
  | 0x01, 7 => some (rvRemW false a b)
  | 0x04, 0 => some (uw a + b)
  | 0x04, 4 => if rs2 = 0 then some (zextW a 16) else none
  | 0x10, 2 => some ((uw a <<< 1) + b)
  | 0x10, 4 => some ((uw a <<< 2) + b)
  | 0x10, 6 => some ((uw a <<< 3) + b)
  | 0x30, 1 => some ((w.rotateLeft sh).signExtend 64)
  | 0x30, 5 => some ((w.rotateRight sh).signExtend 64)
  | _, _ => none

/-- Immediate operations of major opcode OP-IMM; imm is sign-extended. -/
def rvImm (f3 imm12 : Nat) (a imm : Word) : Option Word :=
  let sh := imm12 % 64
  match f3 with
  | 0 => some (a + imm)
  | 2 => some (if a.slt imm then 1 else 0)
  | 3 => some (if a.ult imm then 1 else 0)
  | 4 => some (a ^^^ imm)
  | 6 => some (a ||| imm)
  | 7 => some (a &&& imm)
  | 1 =>
    match imm12 with
    | 0x600 => some (rvClz 64 a)
    | 0x601 => some (rvCtz 64 a)
    | 0x602 => some (rvCpop 64 a)
    | 0x604 => some (sextW a 8)
    | 0x605 => some (sextW a 16)
    | _ => if imm12 / 64 = 0 then some (a <<< sh) else none
  | _ =>
    match imm12 with
    | 0x287 => some (orcB a)
    | 0x6B8 => some (rev8 a)
    | _ =>
      match imm12 / 64 with
      | 0x00 => some (a >>> sh)
      | 0x10 => some (a.sshiftRight sh)
      | 0x18 => some (a.rotateRight sh)
      | _ => none

/-- Immediate operations of major opcode OP-IMM-32. -/
def rvImmW (f3 imm12 : Nat) (a imm : Word) : Option Word :=
  let sh := imm12 % 32
  let w : BitVec 32 := a.setWidth 32
  match f3 with
  | 0 => some (sx32 (a + imm))
  | 1 =>
    match imm12 with
    | 0x600 => some (rvClz 32 a)
    | 0x601 => some (rvCtz 32 a)
    | 0x602 => some (rvCpop 32 a)
    | _ =>
      if imm12 / 32 = 0 then some (sx32 (a <<< sh)) else if imm12 / 64 = 2 then some (uw a <<< (imm12 % 64)) else none
  | 5 =>
    match imm12 / 32 with
    | 0x00 => some ((w >>> sh).signExtend 64)
    | 0x20 => some ((w.sshiftRight sh).signExtend 64)
    | 0x30 => some ((w.rotateRight sh).signExtend 64)
    | _ => none
  | _ => none

/-- The value that an atomic stores, by its funct5; none for lr, sc and what is reserved. Operands are of n bytes. -/
def rvAmo (f5 n : Nat) (old b : Word) : Option Word :=
  let w := 8 * n
  let (x, y) := (sextW old w, sextW b w)
  match f5 with
  | 0x00 => some (old + b)
  | 0x01 => some b
  | 0x04 => some (old ^^^ b)
  | 0x08 => some (old ||| b)
  | 0x0C => some (old &&& b)
  | 0x10 => some (if x.slt y then old else b)
  | 0x14 => some (if x.slt y then b else old)
  | 0x18 => some (if (zextW old w).ult (zextW b w) then old else b)
  | 0x1C => some (if (zextW old w).ult (zextW b w) then b else old)
  | _ => none

/-! ### Compressed instructions -/

/-- The word of an instruction of format I. -/
def encRvI (op f3 rd rs1 imm : Nat) : Nat := op + rd * 2 ^ 7 + f3 * 2 ^ 12 + rs1 * 2 ^ 15 + imm % 2 ^ 12 * 2 ^ 20
/-- The word of an instruction of format R. -/
def encRvR (op f3 f7 rd rs1 rs2 : Nat) : Nat := op + rd * 2 ^ 7 + f3 * 2 ^ 12 + rs1 * 2 ^ 15 + rs2 * 2 ^ 20 + f7 * 2 ^ 25
/-- The word of an instruction of format S. -/
def encRvS (f3 rs1 rs2 imm : Nat) : Nat :=
  0x23 + imm % 32 * 2 ^ 7 + f3 * 2 ^ 12 + rs1 * 2 ^ 15 + rs2 * 2 ^ 20 + imm / 32 % 128 * 2 ^ 25
/-- The word of a branch. -/
def encRvB (f3 rs1 rs2 imm : Nat) : Nat :=
  0x63 + imm / 2 ^ 11 % 2 * 2 ^ 7 + imm / 2 % 16 * 2 ^ 8 + f3 * 2 ^ 12 + rs1 * 2 ^ 15 + rs2 * 2 ^ 20 + imm / 32 % 64 * 2 ^ 25 +
    imm / 2 ^ 12 % 2 * 2 ^ 31
/-- The word of jal x0. -/
def encRvJ (imm : Nat) : Nat :=
  0x6F + imm / 2 ^ 12 % 256 * 2 ^ 12 + imm / 2 ^ 11 % 2 * 2 ^ 20 + imm / 2 % 1024 * 2 ^ 21 + imm / 2 ^ 20 % 2 * 2 ^ 31

/-- Bits [hi:lo] of a halfword, moved to place at. -/
def bits (w hi lo at_ : Nat) : Nat := w / 2 ^ lo % 2 ^ (hi - lo + 1) * 2 ^ at_
/-- A number of n bits, sign-extended to 32. -/
def sx (n v : Nat) : Nat := if v / 2 ^ (n - 1) % 2 = 1 then 2 ^ 32 - 2 ^ n + v else v

/-- Compressed instructions of quadrant 0, as the words that they stand for. -/
def rvc0 (w : Nat) : Option Nat :=
  let r1 := 8 + bits w 9 7 0
  let r2 := 8 + bits w 4 2 0
  let i4 := bits w 12 10 3 + bits w 6 6 2 + bits w 5 5 6
  let i8 := bits w 12 10 3 + bits w 6 5 6
  match w / 2 ^ 13 with
  | 0 =>
    let i := bits w 12 11 4 + bits w 10 7 6 + bits w 6 6 2 + bits w 5 5 3
    if i = 0 then none else some (encRvI 0x13 0 r2 2 i)
  | 2 => some (encRvI 0x03 2 r2 r1 i4)
  | 3 => some (encRvI 0x03 3 r2 r1 i8)
  | 6 => some (encRvS 2 r1 r2 i4)
  | 7 => some (encRvS 3 r1 r2 i8)
  | _ => none

/-- Compressed instructions of quadrant 1. -/
def rvc1 (w : Nat) : Option Nat :=
  let rd := bits w 11 7 0
  let r1 := 8 + bits w 9 7 0
  let r2 := 8 + bits w 4 2 0
  let u := bits w 12 12 5 + bits w 6 2 0
  let i := sx 6 u
  let b := sx 9 (bits w 12 12 8 + bits w 11 10 3 + bits w 6 5 6 + bits w 4 3 1 + bits w 2 2 5)
  match w / 2 ^ 13 with
  | 0 => some (encRvI 0x13 0 rd rd i)
  | 1 => if rd = 0 then none else some (encRvI 0x1B 0 rd rd i)
  | 2 => some (encRvI 0x13 0 rd 0 i)
  | 3 =>
    if rd = 2 then
      let j := bits w 12 12 9 + bits w 6 6 4 + bits w 5 5 6 + bits w 4 3 7 + bits w 2 2 5
      if j = 0 then none else some (encRvI 0x13 0 2 2 (sx 10 j))
    else if u = 0 then none
    else some (0x37 + rd * 2 ^ 7 + i % 2 ^ 20 * 2 ^ 12)
  | 4 =>
    match bits w 11 10 0 with
    | 0 => some (encRvI 0x13 5 r1 r1 u)
    | 1 => some (encRvI 0x13 5 r1 r1 (0x400 + u))
    | 2 => some (encRvI 0x13 7 r1 r1 i)
    | _ =>
      match bits w 12 12 0, bits w 6 5 0 with
      | 0, 0 => some (encRvR 0x33 0 0x20 r1 r1 r2)
      | 0, 1 => some (encRvR 0x33 4 0 r1 r1 r2)
      | 0, 2 => some (encRvR 0x33 6 0 r1 r1 r2)
      | 0, _ => some (encRvR 0x33 7 0 r1 r1 r2)
      | _, 0 => some (encRvR 0x3B 0 0x20 r1 r1 r2)
      | _, 1 => some (encRvR 0x3B 0 0 r1 r1 r2)
      | _, _ => none
  | 5 => some (encRvJ (sx 12 (bits w 12 12 11 + bits w 11 11 4 + bits w 10 9 8 + bits w 8 8 10 + bits w 7 7 6 + bits w 6 6 7 +
      bits w 5 3 1 + bits w 2 2 5)))
  | 6 => some (encRvB 0 r1 0 b)
  | _ => some (encRvB 1 r1 0 b)

/-- Compressed instructions of quadrant 2. -/
def rvc2 (w : Nat) : Option Nat :=
  let rd := bits w 11 7 0
  let rs2 := bits w 6 2 0
  match w / 2 ^ 13 with
  | 0 => some (encRvI 0x13 1 rd rd (bits w 12 12 5 + rs2))
  | 2 => if rd = 0 then none else some (encRvI 0x03 2 rd 2 (bits w 12 12 5 + bits w 6 4 2 + bits w 3 2 6))
  | 3 => if rd = 0 then none else some (encRvI 0x03 3 rd 2 (bits w 12 12 5 + bits w 6 5 3 + bits w 4 2 6))
  | 4 =>
    if bits w 12 12 0 = 0 then
      if rs2 = 0 then (if rd = 0 then none else some (encRvI 0x67 0 0 rd 0)) else some (encRvR 0x33 0 0 rd 0 rs2)
    else if rs2 = 0 then (if rd = 0 then some 0x100073 else some (encRvI 0x67 0 1 rd 0))
    else some (encRvR 0x33 0 0 rd rd rs2)
  | 6 => some (encRvS 2 2 rs2 (bits w 12 9 2 + bits w 8 7 6))
  | 7 => some (encRvS 3 2 rs2 (bits w 12 10 3 + bits w 9 7 6))
  | _ => none

/-- The word that a compressed instruction stands for. -/
def rvc (w : Nat) : Option Nat :=
  match w % 4 with
  | 0 => rvc0 w
  | 1 => rvc1 w
  | _ => rvc2 w

/-! ### Execution -/

/-- Immediate of format I. -/
def immI (w : Nat) : Word := sextW (BitVec.ofNat 64 (w / 2 ^ 20)) 12
/-- Immediate of format S. -/
def immS (w : Nat) : Word := sextW (BitVec.ofNat 64 (w / 2 ^ 25 * 32 + w / 2 ^ 7 % 32)) 12
/-- Immediate of a branch. -/
def immB (w : Nat) : Word := sextW (BitVec.ofNat 64 (bits w 31 31 12 + bits w 7 7 11 + bits w 30 25 5 + bits w 11 8 1)) 13
/-- Immediate of jal. -/
def immJ (w : Nat) : Word := sextW (BitVec.ofNat 64 (bits w 31 31 20 + bits w 19 12 12 + bits w 20 20 11 + bits w 30 21 1)) 21
/-- Immediate of lui and auipc. -/
def immU (w : Nat) : Word := sextW (BitVec.ofNat 64 (w / 2 ^ 12 * 2 ^ 12)) 32

/-- A branch is taken. -/
def rvTakes (f3 : Nat) (a b : Word) : Option Bool :=
  match f3 with
  | 0 => some (a == b)
  | 1 => some (a != b)
  | 4 => some (a.slt b)
  | 5 => some (!a.slt b)
  | 6 => some (a.ult b)
  | 7 => some (!a.ult b)
  | _ => none

/-- The porter's earlier accesses are ordered before its later ones for every observer (R362): its stores count as fenced at MODULE (R159). -/
def State.porterFence (s : State) (p : Nat) : State :=
  { s.bump with codeLog := s.codeLog.map fun x =>
      if x.core = p ∧ x.slot = 16 ∧ x.uid = 0 ∧ x.fenced = none then { x with fenced := some s.fresh } else x }

/-- The state behind an instruction: a register written, the program counter moved. -/
def State.hartNext (s : State) (p : Nat) (pc : Word) (rd : Nat) (v : Word) : HEnd :=
  .done (s.modHart p fun h => { h.put rd v with pc := pc })

/-- An atomic instruction of n bytes at the address in rs1. -/
def State.hartAmo (s : State) (p w n : Nat) (next : Word) : HEnd :=
  let h := s.hart p
  let rd := bits w 11 7 0
  let va := h.r (bits w 19 15 0)
  let b := h.r (bits w 24 20 0)
  let f5 := w / 2 ^ 27
  let ill := HEnd.trap s 2 (BitVec.ofNat 64 w)
  match f5 with
  | 0x02 =>
    if bits w 24 20 0 ≠ 0 then ill
    else s.hartAt p .load va n fun s a =>
      (s.porterLoad p a n).map fun (s, v) =>
        (s.modHart p fun h => { h with resv := some (a, n) }).hartNext p next rd (sextW (BitVec.ofNat 64 v) (8 * n))
  | 0x03 =>
    s.hartAt p .store va n fun s a =>
      if h.resv = some (a, n) then
        (s.porterStore p a n b).map fun s => (s.modHart p fun h => { h with resv := none }).hartNext p next rd 0
      else if (s.porterLoad p a n).isNone then none
      else some ((s.modHart p fun h => { h with resv := none }).hartNext p next rd 1)
  | _ =>
    if (rvAmo f5 n 0 0).isNone then ill
    else s.hartAt p .store va n fun s a =>
      (s.porterLoad p a n).bind fun (s, v) =>
        let old := BitVec.ofNat 64 v
        (s.porterStore p a n ((rvAmo f5 n old b).getD 0)).map fun s => s.hartNext p next rd (sextW old (8 * n))

/-- mret and sret: the mode and the interrupt enable that the trap saved. -/
def State.hartReturn (s : State) (p : Nat) (machine : Bool) : State :=
  s.modHart p fun h =>
    let m := h.held 0x300
    let mode := if machine then fld m 11 2 else fld m 8 1
    let m :=
      if machine then setFld (setFld (setFld m 3 1 (m >>> 7)) 7 1 1) 11 2 0
      else setFld (setFld (setFld m 1 1 (m >>> 5)) 5 1 1) 8 1 0
    let m := if mode = 3 then m else setFld m 17 1 0
    { h.hold 0x300 m with priv := mode, pc := h.held (if machine then 0x341 else 0x141) }

/-- sfence.vma: the entries of an address, of an ASID, or all, leave the TLB; one of an ASID leaves the global ones. -/
def Hart.sfence (h : Hart) (va asid : Option Word) : Hart :=
  { h with tlb := h.tlb.filter fun e =>
      !((va.all fun a => a.toNat / 2 ^ e.shift == e.vpn) && asid.all fun a => !e.global && e.asid == a.toNat % 2 ^ 16) }

/-- An instruction that reads and writes a control register. -/
def State.hartCsr (s : State) (p w : Nat) (next : Word) : HEnd :=
  let h := s.hart p
  let n := w / 2 ^ 20
  let rd := bits w 11 7 0
  let f3 := bits w 14 12 0
  let rs := bits w 19 15 0
  let v := if 4 ≤ f3 then BitVec.ofNat 64 rs else h.r rs
  let ill := HEnd.trap s 2 (BitVec.ofNat 64 w)
  let reads := f3 % 4 ≠ 1 ∨ rd ≠ 0
  match (if reads then s.csrRead p n else some 0) with
  | none => ill
  | some old =>
    if f3 % 4 ≠ 1 ∧ rs = 0 then s.hartNext p next rd old
    else
      let new := match f3 % 4 with
        | 1 => v
        | 2 => old ||| v
        | _ => old &&& ~~~v
      match s.csrWrite p n new with
      | none => ill
      | some s => s.hartNext p next rd old

/-- The privileged instructions, calls and breakpoints. -/
def State.hartSystem (s : State) (p w : Nat) (next : Word) : HEnd :=
  let h := s.hart p
  let ill := HEnd.trap s 2 (BitVec.ofNat 64 w)
  let ok := fun (s : State) => s.hartNext p next 0 0
  let opt := fun (i : Nat) => if i = 0 then none else some (h.r i)
  match w / 2 ^ 7 with
  | 0x000000 => .trap s (8 + h.priv) 0
  | 0x002000 => .trap s 3 h.pc
  | 0x204000 => if h.priv = 0 ∨ (h.priv = 1 ∧ h.status 22) then ill else .done (s.hartReturn p false)
  | 0x604000 => if h.priv < 3 then ill else .done (s.hartReturn p true)
  | 0x20A000 =>
    if h.priv = 0 ∨ (h.priv = 1 ∧ h.status 21) then ill else ok (s.modHart p fun h => { h with wfi := true })
  | _ =>
    if w / 2 ^ 25 = 0x09 ∧ bits w 14 7 0 = 0 then
      if h.priv = 0 ∨ (h.priv = 1 ∧ h.status 20) then ill
      else ok (s.modHart p fun h => h.sfence (opt (bits w 19 15 0)) (opt (bits w 24 20 0)))
    else ill

/-- The instruction w, of len bytes. -/
def State.hartExec (s : State) (p w len : Nat) : HEnd :=
  let h := s.hart p
  let next := h.pc + BitVec.ofNat 64 len
  let rd := bits w 11 7 0
  let f3 := bits w 14 12 0
  let f7 := w / 2 ^ 25
  let rs2 := bits w 24 20 0
  let a := h.r (bits w 19 15 0)
  let b := h.r rs2
  let ill := HEnd.trap s 2 (BitVec.ofNat 64 w)
  let value := fun (v : Option Word) => match v with
    | some v => s.hartNext p next rd v
    | none => ill
  match w % 128 with
  | 0x37 => value (some (immU w))
  | 0x17 => value (some (h.pc + immU w))
  | 0x6F => s.hartNext p (h.pc + immJ w) rd next
  | 0x67 => if f3 = 0 then s.hartNext p ((a + immI w) &&& ~~~1) rd next else ill
  | 0x63 =>
    match rvTakes f3 a b with
    | none => ill
    | some t => s.hartNext p (if t then h.pc + immB w else next) 0 0
  | 0x03 =>
    if f3 = 7 then ill
    else
      let n := 2 ^ (f3 % 4)
      s.hartAt p .load (a + immI w) n fun s x => (s.porterLoad p x n).map fun (s, v) =>
        let v := BitVec.ofNat 64 v
        s.hartNext p next rd (if f3 < 4 then sextW v (8 * n) else v)
  | 0x23 =>
    if 4 ≤ f3 then ill
    else
      let n := 2 ^ f3
      s.hartAt p .store (a + immS w) n fun s x => (s.porterStore p x n b).map fun s => s.hartNext p next 0 0
  | 0x13 => value (rvImm f3 (w / 2 ^ 20) a (immI w))
  | 0x1B => value (rvImmW f3 (w / 2 ^ 20) a (immI w))
  | 0x33 => value (rvOp f7 f3 a b)
  | 0x3B => value (rvOpW f7 f3 rs2 a b)
  | 0x0F =>
    match f3 with
    | 0 => (if bits w 25 24 0 = 3 ∧ bits w 21 20 0 = 3 then s.porterFence p else s).hartNext p next 0 0
    | 1 => s.hartNext p next 0 0
    | _ => ill
  | 0x2F =>
    match f3 with
    | 2 => s.hartAmo p w 4 next
    | 3 => s.hartAmo p w 8 next
    | _ => ill
  | 0x73 =>
    match f3 with
    | 0 => s.hartSystem p w next
    | 4 => ill
    | _ => s.hartCsr p w next
  | _ => ill

/-- Two bytes of code. -/
def State.hartParcel (s : State) (p : Nat) (va : Word) : State × Except Nat Nat :=
  match s.hartVm p .fetch va with
  | .page s => (s, .error 12)
  | .access s => (s, .error 1)
  | .pa s a =>
    match s.porterLoad p a 2 with
    | none => (s, .error 1)
    | some (s, v) => (s, .ok v)

/-- The instruction at the program counter, fetched and executed. -/
def State.hartRun (s : State) (p : Nat) : HEnd :=
  let pc := (s.hart p).pc
  match s.hartParcel p pc with
  | (s, .error c) => .trap s c pc
  | (s, .ok lo) =>
    if lo % 4 ≠ 3 then
      match rvc lo with
      | some w => s.hartExec p w 2
      | none => .trap s 2 (BitVec.ofNat 64 lo)
    else
      match s.hartParcel p (pc + 2) with
      | (s, .error c) => .trap s c (pc + 2)
      | (s, .ok hi) => s.hartExec p (lo + hi * 2 ^ 16) 4

/-- A step of the hart of core p (R361, R373): an interrupt, an instruction, or none while wfi waits. Exceptions go to the trap vector, and
never to a compute thread. -/
def State.hartStep (s : State) (p : Nat) : State :=
  if Config.cores ≤ p then s
  else
    match s.hartInterrupt p with
    | some i => s.hartTrap p i true 0
    | none =>
      let h := s.hart p
      if h.wfi ∧ s.mip p &&& h.held 0x304 = 0 then s
      else
        match (s.modHart p fun h => { h with wfi := false }).hartRun p with
        | .trap s c v => s.hartTrap p c false v
        | .done s => s.modHart p fun h => { h with instret := h.instret + 1 }

/-! ### Reservations -/

/-- A reservation of a hart has lapsed: the bytes of its set of 64 bytes are no longer those of the step before. -/
def lapses (before after : State) (r : Nat × Nat) : Bool :=
  let a := r.1 / 64 * 64
  Mem.readN before.mem a 64 != Mem.readN after.mem a 64

/-- The reservations that a step has ended by changing their bytes: DESIGN CHOICE (assumption log 90), the set is the line. -/
def State.lapse (before after : State) : State :=
  if after.porters.all fun x => x.2.hart.resv.isNone then after
  else
    { after with porters := after.porters.map fun (x : Nat × Porter) =>
        (x.1, if x.2.hart.resv.any (lapses before after) then { x.2 with hart := { x.2.hart with resv := none } } else x.2) }

end Sys2Proof.Machine
end

