-- ==== Sys2Proof/Machine/EvBoot.lean ====
section
/-! DEFINITION. Resets and the boot stages (R443 to R449). -/

namespace Sys2Proof.Machine

/-- A failed start (R449): FAILS and REASON are recorded, the stage that failed stays readable until the next start begins; in
minimal mode FAILS stays 3. -/
def State.failStart (s : State) (r : Nat) : State :=
  let st := s.hub.stage
  let n := if s.hub.fails < 3 then s.hub.fails + 1 else 3
  let m := s.hub.min
  (s.modHub fun h => { h with fails := n, reason := r }).cold.modHub fun h => { h with stage := st, failed := true, min := m }

/-- Power-on reset (R443). -/
def execPowerOnReset (s : State) : Host.Outcome State Fault Refusal := .next s.cold
/-- The stage in progress is n, of a start that has not failed. -/
def State.atStage (s : State) (n : Nat) : Bool := s.hub.stage == n && !s.hub.failed

/-- A stage begins. -/
def State.toStage (s : State) (n : Nat) : State := s.modHub fun h => { h with stage := n, stageSince := s.cycle }

/-- Stage 0 (R444): the next start begins where the last one failed; the image of stage 1 verifies (0), or the start fails with
reason 0x01 or 0x02. -/
def execBootStage0 (r : Nat) (s : State) : Host.Outcome State Fault Refusal :=
  .next (
    if s.hub.stage ≠ 0 ∧ !s.hub.failed then s
    else
      let s := if s.hub.failed then s.cold else s
      match r with
      | 0 => s.toStage 1
      | 1 => s.failStart 1
      | 2 => s.failStart 2
      | _ => s)

/-- The live mask of a start (R447): the staged words, core 0 alone where they mark none; in minimal mode only quadrant 0 of die 0, and
core 0 in any case. -/
def State.liveMask (s : State) : Tab Word :=
  let m := s.hub.staged.filter fun x => x.2 != 0 && decide (x.1 < 256)
  let with0 := fun (t : Tab Word) => Tab.put t 0 (Tab.findD t 0 0 ||| 1)
  if s.hub.min then with0 (m.filter fun x => decide (x.1 < 16)) else if m = [] then [(0, 1)] else m

/-- The wipes of stage 1 (R446): every memory of the module. -/
def State.wipe (s : State) : State :=
  { s with mem := s.mem.filter (fun x => decide (Config.hostBase ≤ x.1)), full := [], lean := [], poison := [], upsets := [], codeLog := [] }

/-- A life-cycle transition that stage 1 has verified (R445, R446): forward only, and every tenant key of the depot is destroyed. -/
def State.transition (s : State) (lc : Nat) : State :=
  if s.hub.lc < lc ∧ lc ≤ 3 then
    let s : State := { s with mem := s.mem.filter fun x => decide (x.1 < Config.durBase) }
    s.modHub fun h => { h with lc := lc, images := [] }
  else s

/-- Stage 1 (R444 to R447): the wipes, the mask, a verified transition to lc (none where lc is not beyond the state in force); it
fails with one of its reasons, and with 0x0A in RETIRED. -/
def execBootStage1 (r lc : Nat) (s : State) : Host.Outcome State Fault Refusal :=
  .next (
    if !s.atStage 1 then s
    else
      let s := (s.transition lc).wipe
      let s := s.modHub fun h => { h with mask := s.liveMask }
      if s.hub.lc = 3 then s.failStart 0x0A
      else
        match r with
        | 0 => s.toStage 2
        | 4 => s.failStart 4
        | 5 => s.failStart 5
        | 6 => s.failStart 6
        | 7 => s.failStart 7
        | _ => s)

/-- Stage 2 (R443, R444): r = 0 releases the compute cores, from which the cycle count starts; r = 1 reports the office services
ready. -/
def execBootStage2 (r : Nat) (s : State) : Host.Outcome State Fault Refusal :=
  .next (
    if !s.atStage 2 then s
    else
      match r with
      | 0 => if s.hub.released then s else ({ s with cycle := 0 }).modHub fun h => { h with released := true, stageSince := 0 }
      | 1 => if s.hub.released then s.toStage 3 else s
      | _ => s)

/-- Stage 3 (R444, R445, R449): the tenants' functions are enabled in FIELD, outside minimal mode; a start in normal mode that gets
here sets FAILS and REASON to 0, and the module runs. -/
def execBootStage3 (r : Nat) (s : State) : Host.Outcome State Fault Refusal :=
  .next (
    if !s.atStage 3 ∨ r ≠ 0 then s
    else
      (s.toStage 4).modHub fun h =>
        if h.min then { h with funcs := [] }
        else { h with fails := 0, reason := 0, funcs := if h.lc = 2 then List.range 64 else [] })

/-- The office services are not ready within 2^34 cycles of the release (R444). -/
def execOfficeReadyTimeout (s : State) : Host.Outcome State Fault Refusal :=
  .next (if s.atStage 2 ∧ s.hub.released ∧ s.hub.stageSince + 2 ^ 34 ≤ s.cycle then s.failStart 8 else s)

/-- A tenant's function is not enabled within 2^24 cycles (R444); minimal mode enables none and cannot fail. -/
def execTenantFunctionTimeout (s : State) : Host.Outcome State Fault Refusal :=
  .next (if s.atStage 3 ∧ !s.hub.min ∧ s.hub.stageSince + 2 ^ 24 ≤ s.cycle then s.failStart 0x0B else s)

/-- The coolant's temperature is outside the supported range during a start (R444). -/
def execCoolantTemperatureFault (s : State) : Host.Outcome State Fault Refusal :=
  .next (if s.hub.stage < 4 ∧ !s.hub.failed then s.failStart 9 else s)

end Sys2Proof.Machine
end

