-- ==== Sys2Proof/Machine/EvRoute.lean ====
section
/-! DEFINITION. Events of the routing engines (R346 to R355) and of the shelf (R357). -/

namespace Sys2Proof.Machine

/-! ### The engine's lists (R347) -/

/-- The expert table's entry of an id (R345): none beyond the table, or where the entry is invalid. -/
def State.expert (s : State) (t id : Nat) : Option Word :=
  if id < (s.tenantWord t 4).toNat then
    let w := s.mem64 ((s.tenantWord t 3).toNat + 8 * id)
    if w.getLsbD 26 ∧ 1 ≤ fld w 20 6 ∧ fld w 20 6 ≤ 32 then some w else none
  else none

/-- A send list is flushed to the owner that an entry names (R347): a batch header goes there, and the tokens wait for its answer. -/
def State.flush (s : State) (d t : Nat) (x : Word) (e : Nat) (w : Word) : State :=
  let tx := s.txn d t x
  match Tab.find tx.lists e with
  | some (l, _) =>
    let owner := fld w 0 14 + 16384 * fld w 14 6
    let next := Tab.findD tx.seqs e 0
    let s := s.modTxn d t x fun y => { y with
      lists := Tab.del y.lists e, out := y.out ++ [{ expert := e, owner := owner, fseq := next - l.length, toks := l }], owners := insertNat y.owners owner }
    s.send { id := 0, src := engineOf d, dst := fld w 0 14, dmod := fld w 14 6, ten := t,
             body := .batch x e l.length (fld w 20 6) (next - l.length) }
  | none => s

/-- A token is offered to its next choices (R345, R347, R348): an invalid one is refused as a full buffer would be and counted; the
token joins the send list of the first valid one, which is flushed at 32 tokens; with no choice left it goes home unplaced. -/
def State.placeToken (s : State) (d : Nat) (ctx : Context) (r : Routing) : List (Nat × Nat) → State
  | [] => s.sendHome d { ctx with route := some { r with choices := [] } } 1
  | (i, e) :: l =>
    let t := bindTen ctx.bind
    match s.expert t e with
    | none => s.placeToken d ctx { r with inv := r.inv + 1, rdir := r.rdir + 1 } l
    | some w =>
      let c := { ctx with route := some { r with choices := (i, e) :: l } }
      let (old, since) := Tab.findD (s.txn d t r.x).lists e ([], s.cycle)
      let s := s.modTxn d t r.x fun y => { y with
        lists := Tab.put y.lists e (old ++ [c], since)
        seqs := Tab.put y.seqs e (Tab.findD y.seqs e 0 + 1) }
      if 32 ≤ old.length + 1 then s.flush d t r.x e w else s

/-- A token that its choice turned away moves to the next one (R348). Where its transaction has ended meanwhile it goes home: with OUT 2
after an abort (R346), with OUT 1 after a commit (DESIGN CHOICE, assumption log 76). -/
def State.redirect (s : State) (d : Nat) (ctx : Context) : State :=
  match ctx.route with
  | none => s
  | some r =>
    let tx := s.txn d (bindTen ctx.bind) r.x
    if tx.seq = txSeq r.x ∧ tx.state = 1 then s.placeToken d ctx { r with rdir := r.rdir + 1 } (r.choices.drop 1)
    else s.sendHome d ctx (if tx.seq = txSeq r.x ∧ tx.state = 0 then 1 else 2)

/-- Contexts that a die's engine holds (R347): those of its lists, and those it has sent that no receive frame, also of another module, has
taken yet (R241). -/
def State.engineHolds (s : State) (d : Nat) : Nat :=
  (s.die d).txns.foldl (fun a x => a + x.2.contexts.length) 0 + (s.net.filter fun m => m.src == engineOf d && m.body.isContext && m.stage != .there).length

/-- The lists of a slot whose expert's entry has become invalid: each token moves to its next choice, the invalid one counted
(R345). -/
def State.turnAway (s : State) (d t : Nat) (x : Word) (e : Nat) : State :=
  match Tab.find (s.txn d t x).lists e with
  | none => s
  | some (l, _) =>
    l.foldl (fun s c =>
      match c.route with
      | none => s
      | some r => s.placeToken d c { r with inv := r.inv + 1, rdir := r.rdir + 1 } (r.choices.drop 1))
      (s.modTxn d t x fun y => { y with lists := Tab.del y.lists e })

/-- A routed context reaches its die's engine (R346, R347): kept at the core's port while the engine is full; it joins or opens its
transaction, or goes home. -/
def execRouteArrival (m : Nat) (s : State) : Host.Outcome State Fault Refusal :=
  .next (match s.arrived m with
    | none => s
    | some x =>
      match x.body, engineDie x.dst with
      | .routeIn ctx, some d =>
        match ctx.route with
        | none => s
        | some r =>
          if !s.basketHere x ctx then s
          else if 4096 ≤ s.engineHolds d then s.again m
          else
            let ctx := { ctx with bad := ctx.bad || s.basketBad x ctx }
            let t := bindTen ctx.bind
            let tx := s.txn d t r.x
            let s := (s.drop m).offPort x.src m
            let join := fun (s : State) =>
              (s.modTxn d t r.x fun y => { y with lids := insertNat y.lids (bindLid ctx.bind) }).placeToken d ctx r r.choices
            if tx.seq = txSeq r.x ∧ tx.state = 1 then join s
            else if tx.state ≠ 1 ∧ (tx.seq + 1) % 2 ^ 26 = txSeq r.x then
              join (s.modTxn d t r.x fun _ => { seq := txSeq r.x, state := 1 })
            else if tx.seq = txSeq r.x ∧ tx.state = 2 then s.sendHome d ctx 2
            else
              let f : FaultInfo := { code := 0x03, addr := r.x, aux0 := 4 }
              s.sendHome d { ctx with fault := some f } 1
      | _, _ => s)

/-- The send lists of a transaction slot whose oldest token has waited 128 cycles are flushed (R347), or turned away where the
expert's entry is no longer valid (R345); n numbers the tenant and the slot. -/
def execSendListFlushTimeout (d n : Nat) (s : State) : Host.Outcome State Fault Refusal :=
  .next (match Tab.find (s.die d).txns n with
    | none => s
    | some tx =>
      let x := BitVec.ofNat 64 (tx.seq * 64 + n % 64)
      (tx.lists.filter fun l => decide (l.2.2 + 128 ≤ s.cycle)).foldl (fun s l =>
        match s.expert (n / 64) l.1 with
        | some w => s.flush d (n / 64) x l.1 w
        | none => s.turnAway d (n / 64) x l.1) s)

/-- A batch header reaches an owner core (R348): it is answered with the tokens admitted. -/
def execBatchHeader (m : Nat) (s : State) : Host.Outcome State Fault Refusal :=
  .next (match s.arrived m with
    | none => s
    | some b =>
      match b.body with
      | .batch x e count cap fseq =>
        let k := s.core b.dst
        let is := fun (i : Intake) => i.x == x && i.engine == b.src && i.expert == e
        let answer := fun (s : State) (a : Nat) =>
          s.send { id := 0, src := b.dst, dst := b.src, dmod := b.org.away.getD s.modid, ten := b.ten, body := .batchAns x e fseq a }
        let s := s.drop m
        if s.coreTenant b.dst ≠ some b.ten then answer s 0
        else
          match k.intake.find? is with
          | some i =>
            let a := min count (cap - i.taken)
            answer (s.modCore b.dst fun q => { q with intake := q.intake.map fun j => if is j then { j with taken := j.taken + a } else j }) a
          | none =>
            if 16 ≤ k.intake.length then answer s 0
            else
              let a := min count cap
              let i : Intake := { x := x, engine := b.src, expert := e, taken := a }
              answer (s.modCore b.dst fun q => { q with intake := q.intake ++ [i] }) a
      | _ => s)

/-- The answer to a batch, which its expert and FSEQ name (R348): the tokens admitted migrate to the owner, the others move to their next choices. -/
def execBatchAnswer (m : Nat) (s : State) : Host.Outcome State Fault Refusal :=
  .next (match s.arrived m with
    | none => s
    | some b =>
      match b.body, engineDie b.dst with
      | .batchAns x e fseq a, some d =>
        let t := b.ten
        let tx := s.txn d t x
        let s := s.drop m
        let is := fun (q : Batch) => q.expert == e && q.fseq == fseq
        match tx.out.find? fun q => is q && tx.seq == txSeq x with
        | none => s
        | some q =>
          let s := s.modTxn d t x fun y => { y with out := dropFirst is y.out }
          let go := fun (s : State) (c : Context) =>
            let o : Origin := { core := (c.route.map fun r => r.home).getD 0, uid := c.uid, pc := c.pc, bind := c.bind, root := c.root }
            s.sendContext { id := 0, src := engineOf d, dst := q.owner % 16384, dmod := q.owner / 16384, ten := t, org := o, body := .context c } c
          let s := (q.toks.take a).foldl go s
          (q.toks.drop a).foldl (fun s c => s.redirect d c) s
      | _, _ => s)

/-- A context that an owner core refused outright comes back to the engine (R348). -/
def execRoutedContextReturn (m : Nat) (s : State) : Host.Outcome State Fault Refusal :=
  .next (match s.arrived m with
    | none => s
    | some x =>
      match x.body, engineDie x.dst with
      | .routedBack ctx, some d => (s.drop m).redirect d ctx
      | _, _ => s)

/-! ### Rows, commit and abort (R350 to R352, R355) -/

/-- The bytes of a tenant's staging on a die. -/
def State.staged (s : State) (d t : Nat) : Nat :=
  ((s.die d).txns.filter fun x => x.1 / 64 == t).foldl (fun a x => x.2.rows.foldl (fun a r => a + r.2.length) a) 0

/-- A row of rhome arrives (R350): staged and acknowledged while its transaction is OPEN, discarded otherwise; its context goes
home, as a migration from the core that it left. -/
def execRhomeRow (m : Nat) (s : State) : Host.Outcome State Fault Refusal :=
  .next (match s.arrived m with
    | none => s
    | some x =>
      match x.body, engineDie x.dst with
      | .rrow ctx, some d =>
        match ctx.route with
        | none => s
        | some r =>
          if !s.basketHere x ctx then s else
          let bad := ctx.bad || s.basketBad x ctx
          let t := bindTen ctx.bind
          let tx := s.txn d t r.x
          let s := (s.drop m).offPort x.src m
          let open_ := tx.seq = txSeq r.x ∧ tx.state = 1
          let fits := s.staged d t + ctx.basket.length ≤ (s.tenantWord t 8).toNat
          let row := (Config.localBase + r.home * Config.localBytes + ctx.basketOff, ctx.basket)
          let s :=
            if !open_ then s
            else
              let s := s.modTxn d t r.x fun y => { y with
                ack := y.ack + 1, rows := if fits then y.rows ++ [row] else y.rows
                badRows := if fits ∧ bad then (sectorsIn row.1 row.2.length).foldl insertNat y.badRows else y.badRows }
              if fits then s.tryCommit d t r.x else s.abortTxn d t r.x 3
          s.send { id := 0, src := engineOf d, dst := r.home, dmod := s.modid, ten := t, org := x.org,
                   body := .context { ctx with route := none, basket := [], bad := false } }
      | _, _ => s)

/-- An rcommit reaches the engine (R351). -/
def execRcommitArrival (m : Nat) (s : State) : Host.Outcome State Fault Refusal :=
  .next (match s.arrived m with
    | none => s
    | some b =>
      match b.body, engineDie b.dst with
      | .rcommit x count, some d =>
        let t := b.ten
        let tx := s.txn d t x
        let s := s.drop m
        let waits := match s.bound b.org with
          | some th => th.acc.any fun a => a.id == m
          | none => false
        let bad := fun (s : State) => s.reply b.dst b.org m (.fault { code := 0x03 })
        if !waits then s
        else if tx.seq ≠ txSeq x then bad s
        else
          match tx.state with
          | 0 => s.reply b.dst b.org m (.data 0)
          | 1 =>
            if tx.n ≠ 0 ∧ tx.n ≠ count then bad s
            else
              (s.modTxn d t x fun y => { y with n := count, wait := y.wait + 1, waiters := y.waiters ++ [(b.org, m)] }).tryCommit d t x
          | _ => s.reply b.dst b.org m (.data 1)
      | _, _ => s)

/-- An rabort reaches the engine (R352): the state before it is answered. -/
def execRabortArrival (m : Nat) (s : State) : Host.Outcome State Fault Refusal :=
  .next (match s.arrived m with
    | none => s
    | some b =>
      match b.body, engineDie b.dst with
      | .rabort x, some d =>
        let tx := s.txn d b.ten x
        let s := (s.drop m).reply b.dst b.org m (.data tx.state)
        if tx.seq = txSeq x then s.abortTxn d b.ten x 1 else s
      | _, _ => s)

/-- An owner core is told of a transaction's end (R348): its intake entries are free. -/
def execTransactionEndNotice (m : Nat) (s : State) : Host.Outcome State Fault Refusal :=
  .next (match s.arrived m with
    | none => s
    | some b =>
      match b.body with
      | .txEnd x => (s.drop m).modCore b.dst fun q => { q with intake := q.intake.filter fun i => !(i.x == x && i.engine == b.src) }
      | _ => s)

/-- The OPEN transactions that hold a token of a launch abort at its stop (R354); the contexts that an engine holds, in its lists or for
an owner's full frames, go home with OUT 2. -/
def State.abortOfLaunch (s : State) (lid ten : Nat) : State :=
  let kept := s.net.filter fun m => m.waits && (match m.body with
    | .context c => ofLaunch lid ten c.bind
    | _ => false)
  let s := kept.foldl (fun s m =>
    match m.body with
    | .context c => s.keptAtPort m c
    | _ => s) s
  s.dies.foldl (fun s dd => dd.2.txns.foldl (fun s x =>
    if x.2.state = 1 ∧ x.1 / 64 = ten ∧ x.2.lids.contains lid then
      s.abortTxn dd.1 ten (BitVec.ofNat 64 (x.2.seq * 64 + x.1 % 64)) 2
    else s) s) s

/-! ### Shelf fills (R357) -/

/-- The commands on core 0 of a cluster that fill its shelf. -/
def State.fills (s : State) (cl : Nat) : List Cmd := (s.core (16 * cl)).cmds.filter fun x => !x.ofThread

/-- A slot that is to be filled and has no command yet. -/
def State.owedFill (s : State) (cl : Nat) : Option Nat :=
  ((s.cluster cl).shelf.find? fun x => x.2.filling && !((s.fills cl).any fun c => c.gs == BitVec.ofNat 64 x.1)).map fun x => x.1

/-- The command of a fill: it reads the adapter's image and writes the slot. -/
def State.fillCmd (s : State) (cl key : Nat) : Cmd :=
  let t := key / 256
  let i := key % 256
  let n := fld (s.tenantWord t 6) 16 32
  let id := ((s.shelf cl t i).adapter).getD 0
  let src := ((s.tenantWord t 5).toNat + id * n) % 2 ^ 56
  let dst := s.slotVa cl t i
  { id := s.fresh, org := { core := 16 * cl, slot := 32, bind := BitVec.ofNat 64 (t * 2 ^ 26) }, instr := .shelfFill cl, eng := .copy,
    pa := .virt src, pd := .virt dst, gs := BitVec.ofNat 64 key, tag := 64,
    foots := [{ space := 0, core := 0, lo := src, hi := src + n - 1, wr := false }, { space := 0, core := 0, lo := dst, hi := dst + n - 1, wr := true }] }

/-- A shelf fill is issued to the copy engine of core 0, and copies with the keep hint once its footprints allow (R111, R118,
R357). -/
def execShelfFill (cl : Nat) (s : State) : Host.Outcome State Fault Refusal :=
  .next (
    let c := 16 * cl
    match (s.fills cl).find? fun x => s.mayStart c x with
    | some x =>
      let n := fld (s.tenantWord (x.gs.toNat / 256) 6) 16 32
      let e := { x.ctx c with hint := 3 }
      match (s.engRead e x.pa n).then fun s bs => s.engWrite e x.pd bs with
      | .ok s _ => s.modCmd c x.id fun y => { y with started := true, done := true }
      | .page s d va k => s.pageFor c x d va k
      | .far s l => s.askFor e l
      | .fault s _ f => if s.recordsFull c then s else s.haltCmd c x.id f
    | none =>
      match s.owedFill cl with
      | none => s
      | some key =>
        if s.queueFull c 2 0 ∨ s.coreFrozen c then s
        else
          let x := s.fillCmd cl key
          s.bump.modCore c fun k => { k with cmds := k.cmds ++ [x] })

/-- A shelf fill ends (R357): the slot's status word is set full as stf does, and its waiters are served; a fill of a slot that has been
given to another adapter since leaves the new one's fill owed. -/
def execShelfFillComplete (cl : Nat) (s : State) : Host.Outcome State Fault Refusal :=
  .next (match (s.fills cl).find? fun x => x.done with
    | none => s
    | some x =>
      let c := 16 * cl
      let t := x.gs.toNat / 256
      let i := x.gs.toNat % 256
      let s := s.modCore c fun k => { k with cmds := k.cmds.filter fun d => d.id != x.id }
      let pa := s.statusWord cl t i
      if x.pa = (s.fillCmd cl x.gs.toNat).pa then
        ((s.modShelf cl t i fun y => { y with filling := false, full := true }).setBit pa true).served c pa
      else s)

end Sys2Proof.Machine
end

