-- ==== Sys2Proof/Machine/EvPreempt.lean ====
section
/-! DEFINITION. Pre-emption (R386 to R390): the stop on a core, the save, the resume. -/

namespace Sys2Proof.Machine

/-- The core's grant is the launch's (R386). -/
def State.grantIs (s : State) (c n : Nat) : Bool :=
  match (s.core c).grant with
  | some g => g.launch == n
  | none => false

/-- A thread of a core that the stop of a launch halts (R386): every one where the grant is the victim's, and otherwise its own. -/
def State.stopped (s : State) (l : Launch) (c : Nat) (t : Thread) : Bool := s.grantIs c l.num || ofLaunch l.lid l.ten t.bind

/-- A command that the stop meets in a page wait is woken, and waits for that page no more (R400), and a shelf fill is abandoned (R357). A
matrix command's pans drain in the cycles that follow (R88). -/
def State.stopCmds (s : State) (c : Nat) : State :=
  let mine := fun (w : Waiter) => match w with
    | .command d _ => d == c
    | _ => false
  let s := s.modCore c fun k =>
    { k with cmds := (k.cmds.filter fun x => x.ofThread || x.done).map fun x => { x with paged := false } }
  { s with
    net := s.net.filter fun m =>
      match m.body with
      | .walk _ _ _ w => !mine w
      | _ => true
    dies := s.dies.map fun (d : Nat × Die) =>
      (d.1, { d.2 with pageWaiters := d.2.pageWaiters.map fun x => (x.1, x.2.filter fun w => !mine w) }) }

/-- The stop meets a core (R386): its threads halt at their boundaries, page wakes are delivered, the launch's transactions abort,
the engines of a grant core reach their cursors. -/
def execPreemptionStop (l c : Nat) (s : State) : Host.Outcome State Fault Refusal :=
  .next (match s.launch l with
    | none => s
    | some x =>
      match x.st with
      | .stopping left =>
        if !left.contains c then s
        else
          let s := s.abortOfLaunch x.lid x.ten
          let s := (List.range 16).foldl (fun s k =>
            match s.thr c k with
            | none => s
            | some t =>
              if s.stopped x c t ∧ t.st ≠ .parked ∧ t.st ≠ .halted then
                (s.modThr c k fun t => { t with stopAt := true }).wakePage c k
              else s) s
          if s.grantIs c l then s.stopCmds c else s
      | _ => s)

/-- A command stands at its cursor (R262, R303, R310): it has not started, or has halted; an mma, mmar or mseg has drained its pans and had the
check of the block before; any other command stands between two runs. On the latch path what has begun finishes. -/
def Cmd.atCursor (x : Cmd) : Bool :=
  !x.done && (!x.started || x.halted.isSome || (x.eng != .latch && lanesEmpty x.lanes && x.back.isNone))

/-- The engines of a core have reached their cursors, and no transfer comes in over the carousel (R303). -/
def Core.atCursors (k : Core) : Bool := k.cmds.all Cmd.atCursor && !k.latch0.reserved && !k.latch1.reserved

/-- A token that its engine returns with OUT 2 (R354). -/
def Msg.comesBack (m : Msg) : Bool :=
  (engineDie m.src).isSome && (match m.body with
    | .context x => x.route.any fun r => r.out == 2
    | _ => false)

/-- Everything injected toward a core before its halt has been accepted, or waits to be offered again (R386), and so have the tokens that
an engine returns to it (R354); the contexts that have left through its port have been accepted, or are held there (R387). -/
def State.drained (s : State) (c mark : Nat) : Bool :=
  s.net.all fun m => m.waits || m.gone ||
    ((m.dst != c || m.dmod != s.modid || (decide (mark ≤ m.id) && !m.comesBack)) && !(s.core c).port.contains m.id)

/-- The items of a launch on a core that is not its grant's (R387). -/
def Core.ofLaunch (k : Core) (lid ten : Nat) : Core :=
  let q := Machine.ofLaunch lid ten
  { deque := k.deque.filter fun t => q t.bind
    remote := k.remote.filter fun t => q t.1.bind
    chans := (k.chans.map fun (x : Nat × Chan) => (x.1, { x.2 with pend := x.2.pend.filter fun t => q t.1.bind })).filter fun x => !x.2.pend.isEmpty
    frames := k.frames.filter fun t => q t.bind
    parks := k.parks.filter fun p => q p.org.bind }

/-- The core without a launch's items. -/
def Core.without (k : Core) (lid ten : Nat) : Core :=
  let q := Machine.ofLaunch lid ten
  { k with
    deque := k.deque.filter fun t => !q t.bind
    remote := k.remote.filter fun t => !q t.1.bind
    chans := k.chans.map fun (x : Nat × Chan) => (x.1, { x.2 with pend := x.2.pend.filter fun t => !q t.1.bind })
    frames := k.frames.filter fun t => !q t.bind
    parks := k.parks.filter fun p => !q p.org.bind }

/-- A grant core after its save (R386): what the save holds is gone, the reassembly table with it (R414); the configuration, the records,
the caches and the counts stay. -/
def Core.cleared (k : Core) : Core :=
  { k with
    tags := BitVec.allOnes 64, inbox := [], deque := [], remote := [], frames := [], parks := [], skips := (0, 0, 0), bars := []
    chans := k.chans.map fun (x : Nat × Chan) => (x.1, { x.2 with pend := [], skip := 0 })
    cmds := [], latch0 := {}, latch1 := {}, grant := none, probing := false, probeAt := 0, probeNext := 0, rtable := [] }

/-- Something of the launch on the core is still to be saved (R387). -/
def State.toSave (s : State) (l : Launch) (c : Nat) : Bool :=
  let k := (s.core c).ofLaunch l.lid l.ten
  s.grantIs c l.num || (List.range 16).any (fun i =>
    match s.thr c i with
    | some t => ofLaunch l.lid l.ten t.bind
    | none => false) ||
  !k.deque.isEmpty || !k.remote.isEmpty || !k.chans.isEmpty || !k.frames.isEmpty || s.atPort c l.lid l.ten

/-- The save image's bytes, the first 524,288 of the core's area (R388): the spec gives the image no layout, so each of them is a free value
(assumption log 28). A frame's end may divide the image in the middle, not elsewhere. -/
def State.putImage (s : State) (c frame mark : Nat) : State :=
  [0, 262144].foldl (fun s b =>
    let a := saveAddr c frame b
    { s.dropCopies a 262144 with mem := Mem.writeN s.mem a ((List.range 262144).map fun i => Config.saveByte mark (b + i)) }) s

/-- The save of a core's part (R386, R387): the threads, the core's items, on a grant core its memories with their bits, without the
discardable bytes, which are cleared in the overflow window too (R100). -/
def State.saveCore (s : State) (l : Launch) (c : Nat) : State :=
  let whole := s.grantIs c l.num
  let k := s.core c
  let thr := (List.range 16).filterMap fun i =>
    match s.thr c i with
    | some t => if s.stopped l c t then some (i, t) else none
    | none => none
  let mine := fun (m : Msg) => k.port.contains m.id && m.waits && (whole || m.carries l.lid l.ten)
  let lb := Config.localBase + c * Config.localBytes
  let ab := accAddr c 0
  let n := min l.lmem Config.localBytes
  let doff := fld (l.w 6) 0 19
  let dlen := fld (l.w 6) 19 19
  let keptLocal := fun (a : Nat) =>
    decide (lb ≤ a) && decide (a < lb + n) && !(decide (lb + doff ≤ a) && decide (a < lb + doff + dlen))
  let keptAcc := fun (a : Nat) => decide (ab ≤ a) && decide (a < ab + l.acc)
  let w0 := max doff Config.localBytes
  let lost := if l.lmem ≤ Config.localBytes then 0 else doff + dlen - w0
  let wa := s.locAddr c w0
  let v : SavedCore := {
    core := c, whole := whole, mark := s.fresh, threads := thr, img := if whole then k else k.ofLaunch l.lid l.ten
    cells := if whole then s.mem.filter fun x => keptLocal x.1 || keptAcc x.1 else []
    full := if whole then s.full.filter keptLocal else []
    lean := if whole then s.lean.filter fun x => keptAcc (2 * x.1) else []
    dbgs := k.dbgs.filter fun i => thr.any fun x => x.1 == i
    gang := whole && s.gangs.contains (gangOf c), port := s.net.filter mine }
  let others := k.port.filter fun i => !v.port.any fun m => m.id == i
  let s := thr.foldl (fun s x => s.delThr c x.1) s
  let s : State := { s with net := s.net.filter fun m => !mine m }
  let s := match s.saveFrame l (clusterOf c) with
    | some f => s.putImage c f s.fresh
    | none => s
  let s := s.modLaunch l.num fun y => { y with saved := y.saved ++ [v] }
  let s := s.modCore c fun k => { k with dbgs := k.dbgs.filter fun i => !v.dbgs.contains i }
  if whole then
    let s := s.modCore c fun k => { k.cleared with port := others }
    let local_ := fun (a : Nat) => decide (lb ≤ a) && decide (a < lb + Config.localBytes)
    let acc := fun (a : Nat) => decide (ab ≤ a) && decide (a < ab + Config.accBytes)
    { s.dropCopies wa lost with
      mem := Mem.clear (Mem.clear (Mem.clear s.mem lb Config.localBytes) ab Config.accBytes) wa lost
      poison := clearPoison (clearPoison s.poison lb Config.localBytes) ab Config.accBytes
      full := s.full.filter fun a => !local_ a && !(decide (wa ≤ a) && decide (a < wa + lost))
      lean := s.lean.filter fun x => !acc (2 * x.1)
      gangs := removeNat s.gangs (gangOf c) }
  else s.modCore c fun k => { k.without l.lid l.ten with port := others }

/-- A core of the victim is saved once its threads have halted, its engines stand at their cursors and the messages injected toward it before
the halt are accepted (R386); after the last one the launch is saved. -/
def execPreemptionSave (l c : Nat) (s : State) : Host.Outcome State Fault Refusal :=
  .next (match s.launch l with
    | none => s
    | some x =>
      match x.st with
      | .stopping left =>
        let halted := (List.range 16).all fun k =>
          match s.thr c k with
          | some t => !s.stopped x c t || t.st == .parked || t.st == .halted
          | none => true
        let mark := (Tab.find x.marks c).getD s.fresh
        if !left.contains c ∨ !halted then s
        else if (s.grantIs c l ∧ !(s.core c).atCursors) ∨ !s.drained c mark then
          s.bump.modLaunch l fun y => { y with marks := Tab.put y.marks c mark }
        else
          let s := s.saveCore x c
          match left.filter fun d => d != c with
          | [] =>
            let rest := (s.coresOf x).filter fun d => s.toSave x d
            match rest with
            | [] => s.bump.modLaunch l fun y => { y with st := .saved, savedAt := s.fresh, marks := [] }
            | d :: r => s.modLaunch l fun y => { y with st := .stopping (d :: r) }
          | d :: r => s.modLaunch l fun y => { y with st := .stopping (d :: r) }
      | _ => s)

/-- What a saved part holds fits beside what its core holds now (R34, R216; assumption log 46). -/
def SavedCore.fits (v : SavedCore) (k : Core) : Bool :=
  decide (v.img.deque.length + k.deque.length ≤ 256) && decide (v.img.remote.length + k.remote.length ≤ 64) &&
    decide (v.img.frames.length + k.frames.length ≤ 32) && decide (v.img.parks.length + k.parks.length ≤ 32) &&
    decide (v.port.length + k.port.length ≤ 16) && decide (v.img.rtable.length + k.rtable.length ≤ 32) &&
    (List.range 3).all (fun q => decide (v.img.queued q + k.queued q ≤ 2)) && !(v.img.remoteBusy && k.remoteBusy) &&
    v.img.chans.all fun x => decide (x.2.pend.length + (Tab.findD k.chans x.1 ({} : Chan)).pend.length ≤ 4)

/-- Channel messages of a saved core put before those that have come since. -/
def mergeChans (saved now : Tab Chan) : Tab Chan :=
  saved.foldl (fun t x =>
    if x.2.pend.isEmpty then t
    else
      let h := Tab.findD t x.1 ({} : Chan)
      Tab.put t x.1 { h with pend := x.2.pend ++ h.pend, skip := x.2.skip }) now

/-- All that a launch has saved of a core, as one part: the items of all its parts. -/
def Launch.savedOf (l : Launch) (c : Nat) : SavedCore :=
  (l.saved.filter fun v => v.core == c).foldl (fun a v => { v with
    threads := a.threads ++ v.threads, port := a.port ++ v.port
    img := { v.img with
      deque := a.img.deque ++ v.img.deque, remote := a.img.remote ++ v.img.remote, frames := a.img.frames ++ v.img.frames
      parks := a.img.parks ++ v.img.parks, cmds := a.img.cmds ++ v.img.cmds, rtable := a.img.rtable ++ v.img.rtable
      chans := mergeChans a.img.chans v.img.chans } })
    { core := c, whole := false, threads := [], img := {}, cells := [], full := [], lean := [], gang := false, port := [] }

/-- A saved launch can be resumed (R390): the cores of its grants hold no grant, the slots of its threads are free, and its items
fit beside what its cores hold now. -/
def State.resumable (s : State) (l : Launch) : Bool :=
  l.st == .saved && l.saved.all fun v =>
    let a := l.savedOf v.core
    (!v.whole || (s.core v.core).grant.isNone) && a.threads.all (fun x => (s.thr v.core x.1).isNone) && a.fits (s.core v.core)

/-- The saved launch that is resumed next (R390): of those that can, the lowest class, then the one saved first. -/
def State.nextResume (s : State) : Option Launch :=
  (s.hub.launches.filter fun l => s.resumable l).foldl (fun b l =>
    match b with
    | none => some l
    | some x => if l.cls < x.cls ∨ (l.cls = x.cls ∧ l.savedAt < x.savedAt) then some l else some x) none

/-- The memories of a core within a launch's grant read as zero, empty and without leans (R387, R390): what ran there meanwhile is gone. -/
def State.wipeGrant (s : State) (c lmem acc : Nat) : State :=
  let lb := Config.localBase + c * Config.localBytes
  let ab := accAddr c 0
  let n := min lmem Config.localBytes
  { s with
    mem := Mem.clear (Mem.clear s.mem lb n) ab acc
    poison := clearPoison (clearPoison s.poison lb n) ab acc
    full := s.full.filter fun a => !(decide (lb ≤ a) && decide (a < lb + n))
    lean := s.lean.filter fun x => !(decide (ab ≤ 2 * x.1) && decide (2 * x.1 < ab + acc)) }

/-- A saved part restored to its core (R387, R390): a thread that the stop halted runs on, the memories of the grant hold the image again,
and park entries whose words have changed meanwhile are served (R216). The inbox of a grant core takes its saved values; one that another
launch's post has left in a register since is overwritten: DESIGN CHOICE (assumption log 87). -/
def State.restoreCore (s : State) (v : SavedCore) : State :=
  let c := v.core
  let s := v.threads.foldl (fun s x =>
    let t := x.2
    let t := if t.stopAt ∧ t.st = .halted then
        match t.stopBar with
        | some (b, q) => { t with st := .waiting (.bar b q) false, w0 := (Wait.bar b q).word0 s.modid c, since := s.cycle }
        | none => t.reenter s.cycle
      else t
    s.setThr c x.1 { t with stopAt := false, stopBar := none }) s
  let s := s.modCore c fun k =>
    let i := v.img
    let k := { k with
      deque := i.deque ++ k.deque, remote := i.remote ++ k.remote, frames := i.frames ++ k.frames, parks := i.parks ++ k.parks
      chans := mergeChans i.chans k.chans, port := (v.port.map fun m => m.id) ++ k.port, dbgs := v.dbgs.foldl insertNat k.dbgs }
    if v.whole then
      let partial_ := i.rtable.filter fun m => !k.rtable.contains m && (s.msg m).any fun x => x.stage == .flits
      { k with
        tags := i.tags, inbox := i.inbox, skips := i.skips, bars := i.bars
        cmds := i.cmds ++ k.cmds, latch0 := i.latch0, latch1 := i.latch1
        grant := i.grant, rtable := partial_ ++ k.rtable }
    else k
  let s : State := { s with net := v.port ++ s.net }
  let s := match v.whole, v.img.grant with
    | true, some g =>
      let s := s.wipeGrant c g.lmem g.acc
      { s with
        mem := v.cells.foldl (fun m x => Mem.write m x.1 x.2) s.mem
        full := v.full.foldl insertNat s.full
        lean := v.lean.foldl (fun t x => Tab.put t x.1 x.2) s.lean
        gangs := if v.gang then insertNat s.gangs (gangOf c) else s.gangs }
    | _, _ => s
  v.img.parks.foldl (fun s p => s.served c p.word) s

/-- A saved launch is resumed (R390). -/
def execLaunchResume (l : Nat) (s : State) : Host.Outcome State Fault Refusal :=
  .next (match s.nextResume with
    | none => s
    | some x =>
      if x.num ≠ l then s
      else
        let s := x.saved.foldl (fun s v => s.restoreCore v) s
        s.modLaunch l fun y => { y with st := .active, saved := [] })

end Sys2Proof.Machine
end

