-- ==== Sys2Proof/Machine/EvBackground.lean ====
section
/-! DEFINITION. The background (R450 to R452), soft errors (R418, R451), the loss of power (R137, R441), power gating (R403). -/

namespace Sys2Proof.Machine

/-! ### Work without an architectural effect -/

/-- DRAM is refreshed (R450): the vault rate is net of it, and no state changes. -/
def execDramRefresh (_ : Nat) (s : State) : Host.Outcome State Fault Refusal := .next s
/-- The depot levels wear (R450): no state that a program reads changes. -/
def execDepotWearLevelling (s : State) : Host.Outcome State Fault Refusal := .next s

/-- The DRAM of a die crosses into another temperature band (R450): 0 below 85 °C, 1 to 95, 2 to 105, 3 above, where the die's matrix
and vector engines issue at half rate. -/
def execDramTemperatureChange (d band : Nat) (s : State) : Host.Outcome State Fault Refusal :=
  .next (if d < 4 ∧ band < 4 then s.modDie d fun q => { q with band := band } else s)

/-- A link pauses for calibration, at most 2 µs, its credits held (R450), in either direction. -/
def execLinkCalibration (l cyc : Nat) (s : State) : Host.Outcome State Fault Refusal :=
  .next (if l < 16 ∧ cyc ≤ 2600 then
      (s.modBuf (32 + l) fun b => { b with pause := s.cycle + cyc }).modBuf (64 + l) fun b => { b with pause := s.cycle + cyc }
    else s)

/-! ### Scrubs (R450 to R452) -/

/-- A count that saturates at 2^32 - 1 (R452). -/
def bumpCount (n : Nat) : Nat := min (n + 1) (2 ^ 32 - 1)

/-- The address of line i of a vault: the frames of its die 256 apart (R388, R450). -/
def vaultLine (vt i : Nat) : Nat :=
  vt / 256 * Config.dieBytes + (i / 32768 % 384 * 256 + vt % 256) * Config.frameBytes + i % 32768 * 64

/-- The home slice of a device address; the first core of its die where its frame's mask is empty. -/
def State.homeSlice (s : State) (pa : Nat) : Nat :=
  let d := pa / Config.dieBytes
  (s.homeOf (s.fat d (pa % Config.dieBytes / Config.frameBytes)) pa).getD (4096 * d)

/-- A sector found with a correctable upset by the scrub (R450, R451): counted, and its corrected value goes to its home. -/
def State.foundDram (s : State) (vt x : Nat) : State :=
  let s : State := { s with upsets := removeNat s.upsets x }
  let s := s.modCore (16 * vt) fun k => { k with soft := (k.soft.1, k.soft.2.1, bumpCount k.soft.2.2.1, k.soft.2.2.2) }
  s.send { id := 0, src := 16384, dst := s.homeSlice (32 * x), dmod := s.modid, body := .scrub (32 * x) (Mem.readN s.mem (32 * x) 32) }

/-- Sixteen line reads of a vault's patrol scrub (R450), once in a window of 1,024 cycles. -/
def execDramPatrolScrub (vt : Nat) (s : State) : Host.Outcome State Fault Refusal :=
  .next (
    if s.saving vt ∨ 1024 ≤ vt ∨ (s.cluster vt).scrubbed = some (s.cycle / 1024) then s
    else
      let i := (s.cluster vt).scrubAt
      let xs := (List.range 16).flatMap fun j => [vaultLine vt (i + j) / 32, vaultLine vt (i + j) / 32 + 1]
      let s := (xs.filter fun x => s.upsets.contains x).foldl (fun s x => s.foundDram vt x) s
      s.modCluster vt fun q => { q with scrubAt := (i + 16) % (384 * 32768), scrubbed := some (s.cycle / 1024) })

/-- A corrected sector is written back at its home, unless a store has changed it since (R451). -/
def execScrubWriteBack (x : Nat) (s : State) : Host.Outcome State Fault Refusal :=
  .next (match s.arrived x with
    | none => s
    | some m =>
      match m.body with
      | .scrub pa old =>
        let s := s.drop x
        if Mem.readN s.mem pa old.length = old then { s with mem := Mem.writeN s.mem pa old } else s
      | _ => s)

/-- The line of the SRAM patrol scrub of a core: its local memory, then its accumulator store (R450). -/
def sramLine (c i : Nat) : Nat :=
  let j := i % 6144
  if j < 4096 then Config.localBase + c * Config.localBytes + 64 * j else accAddr c (64 * (j - 4096))

/-- One line of a core's SRAM patrol scrub (R450), once in a window of 1,024 cycles: an upset is corrected in place and counted. -/
def execSramPatrolScrub (c : Nat) (s : State) : Host.Outcome State Fault Refusal :=
  .next (
    if Config.cores ≤ c ∨ (s.core c).scrubbed = some (s.cycle / 1024) then s
    else
      let a := sramLine c (s.core c).scrubAt / 32
      let hit := [a, a + 1].filter fun x => s.upsets.contains x
      let s : State := { s with upsets := s.upsets.filter fun x => !hit.contains x }
      s.modCore c fun k => { k with
        scrubAt := (k.scrubAt + 1) % 6144
        scrubbed := some (s.cycle / 1024)
        soft := (hit.foldl (fun n _ => bumpCount n) k.soft.1, k.soft.2.1, k.soft.2.2.1, k.soft.2.2.2) })

/-! ### Soft errors (R418, R451) -/

/-- The first number that stands for a thread's registers in a soft error: regError + 16 c + k. -/
def regError : Nat := 2 ^ 70
/-- The first number that stands for a flit: flitError + 8 m + 2 i for the header of flit i of message m, + 1 for its payload. -/
def flitError : Nat := 2 ^ 71

/-- Flit i of message m. -/
def Flit.is (m i : Nat) (f : Flit) : Bool := f.msg == m && f.idx == i
/-- The flit is at this stop: on a ring input, or at an inject port. -/
def Stop.carries (q : Stop) (m i : Nat) : Bool := [q.cw, q.ccw, q.inject, q.tapIn].any fun l => l.any (Flit.is m i)

/-- The flit is on the fabric, at a stop or in a buffer of the hub. -/
def State.onFabric (s : State) (m i : Nat) : Bool := s.stops.any (fun x => x.2.carries m i) || s.bufs.any fun x => x.2.q.any (Flit.is m i)

/-- A flit with two errors in its header is discarded where it is (R418); the place that it held under a credit is free, and its credit goes
back (R416). -/
def State.flitLost (s : State) (m i : Nat) : State :=
  let out := fun (l : List Flit) => l.filter fun f => !Flit.is m i f
  let port := s.stops.find? fun x => x.1 % 32 == 24 && x.2.tapIn.any (Flit.is m i)
  let s : State := { s with
    stops := s.stops.map fun (x : Nat × Stop) => (x.1, { x.2 with cw := out x.2.cw, ccw := out x.2.ccw, inject := out x.2.inject, tapIn := out x.2.tapIn })
    bufs := s.bufs.map fun (x : Nat × Buf) =>
      (x.1, if x.1 ≠ 48 ∧ x.2.q.any (Flit.is m i) then { x.2 with q := out x.2.q, owed := x.2.owed + 1 } else { x.2 with q := out x.2.q }) }
  match port with
  | none => s
  | some x => s.modBuf (16 + x.1 / 64) fun b => { b with owed := b.owed + 1 }

/-- A soft error in a flit (R418): one error is corrected and counted; two in the header lose the flit, which is counted, and two in the
payload poison the message. -/
def State.flitUpset (s : State) (m i : Nat) (payload bad : Bool) : State :=
  if !s.onFabric m i then s
  else if !bad then s.modHub fun h => { h with corrected := h.corrected + 1 }
  else if payload then s.modMsg m fun x => { x with poisoned := true }
  else (s.flitLost m i).modHub fun h => { h with headerErrors := h.headerErrors + 1 }

/-- The count of uncorrected errors at an address (R452). -/
def State.countBad (s : State) (pa : Nat) : State :=
  if isDevice pa then
    let vt := pa / Config.dieBytes * 256 + pa % Config.dieBytes / Config.frameBytes % 256
    s.modCore (16 * vt) fun k => { k with soft := (k.soft.1, k.soft.2.1, k.soft.2.2.1, bumpCount k.soft.2.2.2) }
  else
    let c := if pa < Config.accBase then (pa - Config.localBase) / Config.localBytes else (pa - Config.accBase) / Config.accBytes
    s.modCore c fun k => { k with soft := (k.soft.1, bumpCount k.soft.2.1, k.soft.2.2.1, k.soft.2.2.2) }

/-- A soft error (R418, R451, R452): an uncorrected one poisons the sector, parks the thread whose registers it meets at its next issue, loses
a flit or poisons its message; a correctable one of a flit or a register file is corrected and counted at once, any other waits to be
found (assumption log 51). -/
def execSoftError (pa : Nat) (bad : Bool) (s : State) : Host.Outcome State Fault Refusal :=
  .next (
    if flitError ≤ pa then s.flitUpset ((pa - flitError) / 8) ((pa - flitError) / 2 % 4) (pa % 2 == 1) bad
    else if regError ≤ pa then
      let c := (pa - regError) / 16
      if Config.cores ≤ c then s
      else if bad then
        (s.modThr c ((pa - regError) % 16) fun t => { t with startFault := some ({ code := 0x12 }, false) }).modCore c fun k =>
          { k with soft := (k.soft.1, bumpCount k.soft.2.1, k.soft.2.2.1, k.soft.2.2.2) }
      else s.modCore c fun k => { k with soft := (bumpCount k.soft.1, k.soft.2.1, k.soft.2.2.1, k.soft.2.2.2) }
    else if !inMap pa 1 then s
    else if bad then ({ s with poison := insertNat s.poison (pa / 32) }).countBad pa
    else { s with upsets := insertNat s.upsets (pa / 32) })

/-! ### Power (R137, R403, R441) -/

/-- A durable store that the loss of power leaves present (R137), whatever lies before it. -/
def State.keepStore (s : State) (m : Nat) : State :=
  match s.msg m with
  | none => s
  | some x =>
    match x.body with
    | .durable pa bs _ => { s.drop m with mem := Mem.writeN s.mem pa bs }
    | _ => s

/-- An image under way that the loss of power leaves present (R441): only behind its thread's earlier durable stores (R330). -/
def State.keepImage (s : State) (m : Nat) : State :=
  match s.msg m with
  | none => s
  | some x =>
    match x.body, execDepotImagePersist m s with
    | .depot _, .next t => t
    | _, _ => s

/-- Power is lost (R137, R441): of the durable stores under way those that kept names are present whole, in the order in which it names
them, and after them the images that it names; everything else is as after a reset. -/
def execPowerLoss (kept : List Nat) (s : State) : Host.Outcome State Fault Refusal :=
  .next (kept.foldl State.keepImage (kept.foldl State.keepStore s)).cold

/-- A cluster without work is power-gated (R403): its slices' translations and lines are cleared. -/
def execPowerGating (cl : Nat) (s : State) : Host.Outcome State Fault Refusal :=
  .next (
    let cs := (List.range 16).map fun i => 16 * cl + i
    if cs.all fun c => s.coreEmpty c && (s.core c).cmds.isEmpty then
      cs.foldl (fun s c => s.modCore c fun k => { k with tlb := [], l2 := [] }) s
    else s)

end Sys2Proof.Machine
end

