-- ==== Sys2Proof/Machine/Dispatch.lean ====
section
/-! DEFINITION. The one dispatch: an arm per row of the opcode table, each a direct call of that row's meaning. -/

namespace Sys2Proof.Machine

/-- The meaning of every row of the opcode table. -/
def exec (i : Instr) (s : State) : Host.Outcome State Fault Refusal :=
  match i with
  | .nop => Sys2Proof.Machine.execNop s
  | .add f => Sys2Proof.Machine.execAdd f s
  | .sub f => Sys2Proof.Machine.execSub f s
  | .mul f => Sys2Proof.Machine.execMul f s
  | .mulh f => Sys2Proof.Machine.execMulh f s
  | .mulhu f => Sys2Proof.Machine.execMulhu f s
  | .div f => Sys2Proof.Machine.execDiv f s
  | .divu f => Sys2Proof.Machine.execDivu f s
  | .rem f => Sys2Proof.Machine.execRem f s
  | .remu f => Sys2Proof.Machine.execRemu f s
  | .and f => Sys2Proof.Machine.execAnd f s
  | .or f => Sys2Proof.Machine.execOr f s
  | .xor f => Sys2Proof.Machine.execXor f s
  | .andn f => Sys2Proof.Machine.execAndn f s
  | .shl f => Sys2Proof.Machine.execShl f s
  | .shr f => Sys2Proof.Machine.execShr f s
  | .sar f => Sys2Proof.Machine.execSar f s
  | .rot f => Sys2Proof.Machine.execRot f s
  | .min f => Sys2Proof.Machine.execMin f s
  | .max f => Sys2Proof.Machine.execMax f s
  | .minu f => Sys2Proof.Machine.execMinu f s
  | .maxu f => Sys2Proof.Machine.execMaxu f s
  | .clz f => Sys2Proof.Machine.execClz f s
  | .ctz f => Sys2Proof.Machine.execCtz f s
  | .popc f => Sys2Proof.Machine.execPopc f s
  | .sext f => Sys2Proof.Machine.execSext f s
  | .zext f => Sys2Proof.Machine.execZext f s
  | .bfx f => Sys2Proof.Machine.execBfx f s
  | .bfi f => Sys2Proof.Machine.execBfi f s
  | .addi f => Sys2Proof.Machine.execAddi f s
  | .muli f => Sys2Proof.Machine.execMuli f s
  | .andi f => Sys2Proof.Machine.execAndi f s
  | .ori f => Sys2Proof.Machine.execOri f s
  | .xori f => Sys2Proof.Machine.execXori f s
  | .shli f => Sys2Proof.Machine.execShli f s
  | .shri f => Sys2Proof.Machine.execShri f s
  | .sari f => Sys2Proof.Machine.execSari f s
  | .li f => Sys2Proof.Machine.execLi f s
  | .lih f => Sys2Proof.Machine.execLih f s
  | .lx f => Sys2Proof.Machine.execLx f s
  | .cmp f => Sys2Proof.Machine.execCmp f s
  | .cmpi f => Sys2Proof.Machine.execCmpi f s
  | .pand f => Sys2Proof.Machine.execPand f s
  | .por f => Sys2Proof.Machine.execPor f s
  | .pxor f => Sys2Proof.Machine.execPxor f s
  | .pandn f => Sys2Proof.Machine.execPandn f s
  | .ptog f => Sys2Proof.Machine.execPtog f s
  | .gtop f => Sys2Proof.Machine.execGtop f s
  | .csel f => Sys2Proof.Machine.execCsel f s
  | .addp f => Sys2Proof.Machine.execAddp f s
  | .pidx f => Sys2Proof.Machine.execPidx f s
  | .pfmt f => Sys2Proof.Machine.execPfmt f s
  | .pchk f => Sys2Proof.Machine.execPchk f s
  | .br f => Sys2Proof.Machine.execBr f s
  | .bcmp f => Sys2Proof.Machine.execBcmp f s
  | .call f => Sys2Proof.Machine.execCall f s
  | .ret f => Sys2Proof.Machine.execRet f s
  | .jr f => Sys2Proof.Machine.execJr f s
  | .jalr f => Sys2Proof.Machine.execJalr f s
  | .loop f => Sys2Proof.Machine.execLoop f s
  | .rdsys f => Sys2Proof.Machine.execRdsys f s
  | .trap f => Sys2Proof.Machine.execTrap f s
  | .brk f => Sys2Proof.Machine.execBrk f s
  | .wtsw f => Sys2Proof.Machine.execWtsw f s
  | .ld f => Sys2Proof.Machine.execLd f s
  | .ldn f => Sys2Proof.Machine.execLdn f s
  | .st f => Sys2Proof.Machine.execSt f s
  | .ldv f => Sys2Proof.Machine.execLdv f s
  | .stv f => Sys2Proof.Machine.execStv f s
  | .ldp f => Sys2Proof.Machine.execLdp f s
  | .stp f => Sys2Proof.Machine.execStp f s
  | .lsh f => Sys2Proof.Machine.execLsh f s
  | .ssh f => Sys2Proof.Machine.execSsh f s
  | .shset f => Sys2Proof.Machine.execShset f s
  | .shget f => Sys2Proof.Machine.execShget f s
  | .ldf f => Sys2Proof.Machine.execLdf f s
  | .ldfk f => Sys2Proof.Machine.execLdfk f s
  | .ste f => Sys2Proof.Machine.execSte f s
  | .stf f => Sys2Proof.Machine.execStf f s
  | .fest f => Sys2Proof.Machine.execFest f s
  | .feset f => Sys2Proof.Machine.execFeset f s
  | .amoadd f => Sys2Proof.Machine.execAmoadd f s
  | .amoand f => Sys2Proof.Machine.execAmoand f s
  | .amoor f => Sys2Proof.Machine.execAmoor f s
  | .amoxor f => Sys2Proof.Machine.execAmoxor f s
  | .amomin f => Sys2Proof.Machine.execAmomin f s
  | .amomax f => Sys2Proof.Machine.execAmomax f s
  | .amominu f => Sys2Proof.Machine.execAmominu f s
  | .amomaxu f => Sys2Proof.Machine.execAmomaxu f s
  | .amoswap f => Sys2Proof.Machine.execAmoswap f s
  | .amocas f => Sys2Proof.Machine.execAmocas f s
  | .fence f => Sys2Proof.Machine.execFence f s
  | .chunk f => Sys2Proof.Machine.execChunk f s
  | .pref f => Sys2Proof.Machine.execPref f s
  | .tagwait f => Sys2Proof.Machine.execTagwait f s
  | .tagany f => Sys2Proof.Machine.execTagany f s
  | .tagff f => Sys2Proof.Machine.execTagff f s
  | .tagclr f => Sys2Proof.Machine.execTagclr f s
  | .post f => Sys2Proof.Machine.execPost f s
  | .take f => Sys2Proof.Machine.execTake f s
  | .peek f => Sys2Proof.Machine.execPeek f s
  | .peekM f => Sys2Proof.Machine.execPeekM f s
  | .fork f => Sys2Proof.Machine.execFork f s
  | .join f => Sys2Proof.Machine.execJoin f s
  | .callat f => Sys2Proof.Machine.execCallat f s
  | .reply f => Sys2Proof.Machine.execReply f s
  | .send f => Sys2Proof.Machine.execSend f s
  | .chblk f => Sys2Proof.Machine.execChblk f s
  | .chunblk f => Sys2Proof.Machine.execChunblk f s
  | .mig f => Sys2Proof.Machine.execMig f s
  | .migc f => Sys2Proof.Machine.execMigc f s
  | .exit f => Sys2Proof.Machine.execExit f s
  | .yield f => Sys2Proof.Machine.execYield f s
  | .launch f => Sys2Proof.Machine.execLaunch f s
  | .barinit f => Sys2Proof.Machine.execBarinit f s
  | .bararr f => Sys2Proof.Machine.execBararr f s
  | .barwait f => Sys2Proof.Machine.execBarwait f s
  | .barlink f => Sys2Proof.Machine.execBarlink f s
  | .barrd f => Sys2Proof.Machine.execBarrd f s
  | .gang f => Sys2Proof.Machine.execGang f s
  | .hsift f => Sys2Proof.Machine.execHsift f s
  | .route f => Sys2Proof.Machine.execRoute f s
  | .rhome f => Sys2Proof.Machine.execRhome f s
  | .rcommit f => Sys2Proof.Machine.execRcommit f s
  | .rabort f => Sys2Proof.Machine.execRabort f s
  | .rstat f => Sys2Proof.Machine.execRstat f s
  | .afetch f => Sys2Proof.Machine.execAfetch f s
  | .afetchRel f => Sys2Proof.Machine.execAfetchRel f s
  | .spec f => Sys2Proof.Machine.execSpec f s
  | .callh f => Sys2Proof.Machine.execCallh f s
  | .reth f => Sys2Proof.Machine.execReth f s
  | .hrel f => Sys2Proof.Machine.execHrel f s
  | .hinfo f => Sys2Proof.Machine.execHinfo f s
  | .hkeep f => Sys2Proof.Machine.execHkeep f s
  | .nopV => Sys2Proof.Machine.execNopV s
  | .vadd f => Sys2Proof.Machine.execVadd f s
  | .vsub f => Sys2Proof.Machine.execVsub f s
  | .vmul f => Sys2Proof.Machine.execVmul f s
  | .vfma f => Sys2Proof.Machine.execVfma f s
  | .vmin f => Sys2Proof.Machine.execVmin f s
  | .vmax f => Sys2Proof.Machine.execVmax f s
  | .vand f => Sys2Proof.Machine.execVand f s
  | .vor f => Sys2Proof.Machine.execVor f s
  | .vxor f => Sys2Proof.Machine.execVxor f s
  | .vshl f => Sys2Proof.Machine.execVshl f s
  | .vshr f => Sys2Proof.Machine.execVshr f s
  | .vsar f => Sys2Proof.Machine.execVsar f s
  | .vcmp f => Sys2Proof.Machine.execVcmp f s
  | .vsel f => Sys2Proof.Machine.execVsel f s
  | .vsplat f => Sys2Proof.Machine.execVsplat f s
  | .vmov f => Sys2Proof.Machine.execVmov f s
  | .vext f => Sys2Proof.Machine.execVext f s
  | .vins f => Sys2Proof.Machine.execVins f s
  | .viota f => Sys2Proof.Machine.execViota f s
  | .vperm f => Sys2Proof.Machine.execVperm f s
  | .vrcp f => Sys2Proof.Machine.execVrcp f s
  | .vrsqrt f => Sys2Proof.Machine.execVrsqrt f s
  | .vexp2 f => Sys2Proof.Machine.execVexp2 f s
  | .vlog2 f => Sys2Proof.Machine.execVlog2 f s
  | .vtanh f => Sys2Proof.Machine.execVtanh f s
  | .vsigm f => Sys2Proof.Machine.execVsigm f s
  | .vsqrt f => Sys2Proof.Machine.execVsqrt f s
  | .vcvt f => Sys2Proof.Machine.execVcvt f s
  | .vscale f => Sys2Proof.Machine.execVscale f s
  | .vgath f => Sys2Proof.Machine.execVgath f s
  | .vscat f => Sys2Proof.Machine.execVscat f s
  | .vfill f => Sys2Proof.Machine.execVfill f s
  | .vredadd f => Sys2Proof.Machine.execVredadd f s
  | .vredmax f => Sys2Proof.Machine.execVredmax f s
  | .vredmin f => Sys2Proof.Machine.execVredmin f s
  | .vscan f => Sys2Proof.Machine.execVscan f s
  | .vnz f => Sys2Proof.Machine.execVnz f s
  | .vcompact f => Sys2Proof.Machine.execVcompact f s
  | .vargmax f => Sys2Proof.Machine.execVargmax f s
  | .vsoftmax f => Sys2Proof.Machine.execVsoftmax f s
  | .mma f => Sys2Proof.Machine.execMma f s
  | .mmar f => Sys2Proof.Machine.execMmar f s
  | .manchor f => Sys2Proof.Machine.execManchor f s
  | .macc f => Sys2Proof.Machine.execMacc f s
  | .mclr f => Sys2Proof.Machine.execMclr f s
  | .mld f => Sys2Proof.Machine.execMld f s
  | .mrot f => Sys2Proof.Machine.execMrot f s
  | .mrotDrop f => Sys2Proof.Machine.execMrotDrop f s
  | .mseg f => Sys2Proof.Machine.execMseg f s
  | .cp f => Sys2Proof.Machine.execCp f s
  | .cpg f => Sys2Proof.Machine.execCpg f s
  | .cps f => Sys2Proof.Machine.execCps f s
  | .cpfill f => Sys2Proof.Machine.execCpfill f s
  | .cpr f => Sys2Proof.Machine.execCpr f s
  | .cprPull f => Sys2Proof.Machine.execCprPull f s
  | .cpdur f => Sys2Proof.Machine.execCpdur f s
  | .rotationReentry c k => Sys2Proof.Machine.execRotationReentry c k s
  | .schedulerBind c => Sys2Proof.Machine.execSchedulerBind c s
  | .stealProbe c => Sys2Proof.Machine.execStealProbe c s
  | .stealRequest m => Sys2Proof.Machine.execStealRequest m s
  | .stealReply m => Sys2Proof.Machine.execStealReply m s
  | .stealRetry c => Sys2Proof.Machine.execStealRetry c s
  | .rootPlacement => Sys2Proof.Machine.execRootPlacement s
  | .rootWalk l r => Sys2Proof.Machine.execRootWalk l r s
  | .rootWalkRetry l r => Sys2Proof.Machine.execRootWalkRetry l r s
  | .completionWordWrite l => Sys2Proof.Machine.execCompletionWordWrite l s
  | .instructionBoundaryPark c k => Sys2Proof.Machine.execInstructionBoundaryPark c k s
  | .memoryReply m => Sys2Proof.Machine.execMemoryReply m s
  | .homeSliceAccess m => Sys2Proof.Machine.execHomeSliceAccess m s
  | .ownerCoreAccess m => Sys2Proof.Machine.execOwnerCoreAccess m s
  | .remoteCacheFill m => Sys2Proof.Machine.execRemoteCacheFill m s
  | .remoteCacheInvalidate m => Sys2Proof.Machine.execRemoteCacheInvalidate m s
  | .writeAcknowledge m => Sys2Proof.Machine.execWriteAcknowledge m s
  | .durablePersist m => Sys2Proof.Machine.execDurablePersist m s
  | .commitRequest m => Sys2Proof.Machine.execCommitRequest m s
  | .commitGrant a => Sys2Proof.Machine.execCommitGrant a s
  | .commitNotice m => Sys2Proof.Machine.execCommitNotice m s
  | .soloTokenRequest m => Sys2Proof.Machine.execSoloTokenRequest m s
  | .soloTokenGrant => Sys2Proof.Machine.execSoloTokenGrant s
  | .fullEmptyAccess m => Sys2Proof.Machine.execFullEmptyAccess m s
  | .postArrival m => Sys2Proof.Machine.execPostArrival m s
  | .messageResend m => Sys2Proof.Machine.execMessageResend m s
  | .callatArrival m => Sys2Proof.Machine.execCallatArrival m s
  | .channelMessageArrival m => Sys2Proof.Machine.execChannelMessageArrival m s
  | .channelControlArrival m => Sys2Proof.Machine.execChannelControlArrival m s
  | .migrationArrival m => Sys2Proof.Machine.execMigrationArrival m s
  | .migrationResend m => Sys2Proof.Machine.execMigrationResend m s
  | .migrationRefusedReturn m => Sys2Proof.Machine.execMigrationRefusedReturn m s
  | .barrierArrival m => Sys2Proof.Machine.execBarrierArrival m s
  | .barrierCompletionNotice m => Sys2Proof.Machine.execBarrierCompletionNotice m s
  | .barrierForwardResend m => Sys2Proof.Machine.execBarrierForwardResend m s
  | .waitWatchdogExpiry c k => Sys2Proof.Machine.execWaitWatchdogExpiry c k s
  | .vectorCommandStart c => Sys2Proof.Machine.execVectorCommandStart c s
  | .vectorCommandComplete c => Sys2Proof.Machine.execVectorCommandComplete c s
  | .matrixCommandStart c => Sys2Proof.Machine.execMatrixCommandStart c s
  | .matrixFeedCycle c => Sys2Proof.Machine.execMatrixFeedCycle c s
  | .lastBlockCheck c => Sys2Proof.Machine.execLastBlockCheck c s
  | .matrixCommandComplete c => Sys2Proof.Machine.execMatrixCommandComplete c s
  | .latchCommandStart c => Sys2Proof.Machine.execLatchCommandStart c s
  | .latchFillComplete c => Sys2Proof.Machine.execLatchFillComplete c s
  | .mrotTransferComplete c => Sys2Proof.Machine.execMrotTransferComplete c s
  | .mmarArrival m => Sys2Proof.Machine.execMmarArrival m s
  | .mmarCompletionNotice m => Sys2Proof.Machine.execMmarCompletionNotice m s
  | .copyCommandStart c q => Sys2Proof.Machine.execCopyCommandStart c q s
  | .copyCommandComplete c q => Sys2Proof.Machine.execCopyCommandComplete c q s
  | .shelfFill cl => Sys2Proof.Machine.execShelfFill cl s
  | .shelfFillComplete cl => Sys2Proof.Machine.execShelfFillComplete cl s
  | .foldStart cl => Sys2Proof.Machine.execFoldStart cl s
  | .foldComplete cl => Sys2Proof.Machine.execFoldComplete cl s
  | .handleUpdate m => Sys2Proof.Machine.execHandleUpdate m s
  | .depotImagePersist m => Sys2Proof.Machine.execDepotImagePersist m s
  | .routeArrival m => Sys2Proof.Machine.execRouteArrival m s
  | .sendListFlushTimeout d n => Sys2Proof.Machine.execSendListFlushTimeout d n s
  | .batchHeader m => Sys2Proof.Machine.execBatchHeader m s
  | .batchAnswer m => Sys2Proof.Machine.execBatchAnswer m s
  | .routedContextReturn m => Sys2Proof.Machine.execRoutedContextReturn m s
  | .rhomeRow m => Sys2Proof.Machine.execRhomeRow m s
  | .rcommitArrival m => Sys2Proof.Machine.execRcommitArrival m s
  | .rabortArrival m => Sys2Proof.Machine.execRabortArrival m s
  | .transactionEndNotice m => Sys2Proof.Machine.execTransactionEndNotice m s
  | .faultRecordDelivery c => Sys2Proof.Machine.execFaultRecordDelivery c s
  | .recordRedelivery c => Sys2Proof.Machine.execRecordRedelivery c s
  | .resume p => Sys2Proof.Machine.execResume p s
  | .endThread p => Sys2Proof.Machine.execEndThread p s
  | .halt p => Sys2Proof.Machine.execHalt p s
  | .stepThread p => Sys2Proof.Machine.execStepThread p s
  | .recordQueuePop p => Sys2Proof.Machine.execRecordQueuePop p s
  | .partitionWrite p v => Sys2Proof.Machine.execPartitionWrite p v s
  | .moduleIdWrite p v => Sys2Proof.Machine.execModuleIdWrite p v s
  | .imageQuotaWrite p v => Sys2Proof.Machine.execImageQuotaWrite p v s
  | .dvdataWrite p csr v => Sys2Proof.Machine.execDvdataWrite p csr v s
  | .porterAccess p pa n wr v => Sys2Proof.Machine.execPorterAccess p pa n wr v s
  | .launchSubmission m => Sys2Proof.Machine.execLaunchSubmission m s
  | .submissionWrite t ws => Sys2Proof.Machine.execSubmissionWrite t ws s
  | .submissionResend m => Sys2Proof.Machine.execSubmissionResend m s
  | .dependencePoll l j => Sys2Proof.Machine.execDependencePoll l j s
  | .preemptionStop l c => Sys2Proof.Machine.execPreemptionStop l c s
  | .preemptionSave l c => Sys2Proof.Machine.execPreemptionSave l c s
  | .holdResend m => Sys2Proof.Machine.execHoldResend m s
  | .launchResume l => Sys2Proof.Machine.execLaunchResume l s
  | .pageWalk m => Sys2Proof.Machine.execPageWalk m s
  | .pageRequestResend m => Sys2Proof.Machine.execPageRequestResend m s
  | .pageRequestAnswer d x ans => Sys2Proof.Machine.execPageRequestAnswer d x ans s
  | .frameAttributeWrite d f v => Sys2Proof.Machine.execFrameAttributeWrite d f v s
  | .frameScrubComplete d f => Sys2Proof.Machine.execFrameScrubComplete d f s
  | .shootdownRequest t n => Sys2Proof.Machine.execShootdownRequest t n s
  | .shootdownComplete t => Sys2Proof.Machine.execShootdownComplete t s
  | .ringStopCycle p => Sys2Proof.Machine.execRingStopCycle p s
  | .starveRaise p tap => Sys2Proof.Machine.execStarveRaise p tap s
  | .meterWindowEnd p => Sys2Proof.Machine.execMeterWindowEnd p s
  | .flitReassembly c => Sys2Proof.Machine.execFlitReassembly c s
  | .creditReturn q => Sys2Proof.Machine.execCreditReturn q s
  | .bulkRequestTimeout m => Sys2Proof.Machine.execBulkRequestTimeout m s
  | .messageAnswerTimeout m => Sys2Proof.Machine.execMessageAnswerTimeout m s
  | .purseRefill c => Sys2Proof.Machine.execPurseRefill c s
  | .hostWindowWrite off n v => Sys2Proof.Machine.execHostWindowWrite off n v s
  | .hostWindowRead off n => Sys2Proof.Machine.execHostWindowRead off n s
  | .hostStreamWrite t st sq off n v => Sys2Proof.Machine.execHostStreamWrite t st sq off n v s
  | .streamBrokenTimeout t st => Sys2Proof.Machine.execStreamBrokenTimeout t st s
  | .streamStatusReset t st => Sys2Proof.Machine.execStreamStatusReset t st s
  | .functionLevelReset t => Sys2Proof.Machine.execFunctionLevelReset t s
  | .peerLinkUp l far => Sys2Proof.Machine.execPeerLinkUp l far s
  | .officeMaskStagingWrite j n v => Sys2Proof.Machine.execOfficeMaskStagingWrite j n v s
  | .powerOnReset => Sys2Proof.Machine.execPowerOnReset s
  | .moduleReset => Sys2Proof.Machine.execModuleReset s
  | .clearFailsReset => Sys2Proof.Machine.execClearFailsReset s
  | .bootStage0 r => Sys2Proof.Machine.execBootStage0 r s
  | .bootStage1 r lc => Sys2Proof.Machine.execBootStage1 r lc s
  | .bootStage2 r => Sys2Proof.Machine.execBootStage2 r s
  | .bootStage3 r => Sys2Proof.Machine.execBootStage3 r s
  | .officeReadyTimeout => Sys2Proof.Machine.execOfficeReadyTimeout s
  | .tenantFunctionTimeout => Sys2Proof.Machine.execTenantFunctionTimeout s
  | .coolantTemperatureFault => Sys2Proof.Machine.execCoolantTemperatureFault s
  | .dramRefresh vt => Sys2Proof.Machine.execDramRefresh vt s
  | .dramTemperatureChange d band => Sys2Proof.Machine.execDramTemperatureChange d band s
  | .dramPatrolScrub vt => Sys2Proof.Machine.execDramPatrolScrub vt s
  | .sramPatrolScrub c => Sys2Proof.Machine.execSramPatrolScrub c s
  | .scrubWriteBack x => Sys2Proof.Machine.execScrubWriteBack x s
  | .linkCalibration l cyc => Sys2Proof.Machine.execLinkCalibration l cyc s
  | .depotWearLevelling => Sys2Proof.Machine.execDepotWearLevelling s
  | .powerLoss kept => Sys2Proof.Machine.execPowerLoss kept s
  | .memoryReplyTimeout c k => Sys2Proof.Machine.execMemoryReplyTimeout c k s
  | .hubCrossing m => Sys2Proof.Machine.execHubCrossing m s
  | .peerLinkDown l => Sys2Proof.Machine.execPeerLinkDown l s
  | .powerGating cl => Sys2Proof.Machine.execPowerGating cl s
  | .softError pa bad => Sys2Proof.Machine.execSoftError pa bad s

end Sys2Proof.Machine
end

