-- ==== Sys2Proof/Machine/Issue.lean ====
section
/-! DEFINITION. The issue of a bundle: the fetch (R159, R198), the order of faults (R155, R156), the chunk it belongs to (R122 to
R127), the barrel (R26, R43). -/

namespace Sys2Proof.Machine

/-! ### The chunk of a bundle -/

/-- SC and ORD of a memory half. -/
def orderOf : Instr → Option (Nat × Nat)
  | .ld f => some (f.ord.toNat, f.sc.toNat)
  | .st f => some (f.ord.toNat, f.sc.toNat)
  | .ldv f => some (f.ord.toNat, f.sc.toNat)
  | .stv f => some (f.ord.toNat, f.sc.toNat)
  | .ldp f => some (f.ord.toNat, f.sc.toNat)
  | .stp f => some (f.ord.toNat, f.sc.toNat)
  | .lsh f => some (f.ord.toNat, f.sc.toNat)
  | .ssh f => some (f.ord.toNat, f.sc.toNat)
  | .ldn f => some (f.ord.toNat, f.sc.toNat)
  | _ => none

/-- SC of an atomic; join is one at MODULE (R219, R234). -/
def atomicScope : Instr → Option Nat
  | .amoadd f => some f.sc.toNat
  | .amoand f => some f.sc.toNat
  | .amoor f => some f.sc.toNat
  | .amoxor f => some f.sc.toNat
  | .amomin f => some f.sc.toNat
  | .amomax f => some f.sc.toNat
  | .amominu f => some f.sc.toNat
  | .amomaxu f => some f.sc.toNat
  | .amoswap f => some f.sc.toNat
  | .amocas f => some f.sc.toNat
  | .join _ => some 7
  | _ => none

/-- The halves that make their bundle a step whatever their guards and operands (R123). -/
def alwaysStep : Instr → Bool
  | .fence _ | .chunk _ => true
  | .ldf _ | .ldfk _ | .ste _ | .stf _ | .fest _ | .feset _ => true
  | .take _ | .barinit _ | .bararr _ | .barwait _ | .barlink _ => true
  | .tagwait _ | .tagany _ | .tagff _ | .tagclr _ | .gang _ => true
  | .spec _ | .callh _ | .reth _ | .hrel _ | .hkeep _ => true
  | .afetch _ | .afetchRel _ | .rcommit _ | .rabort _ => true
  | .mig _ | .migc _ | .route _ | .rhome _ | .exit _ | .yield _ => true
  | _ => false

/-- The half makes its bundle a step for a thread with this chunk scope (R123). -/
def isStep (i : Instr) (csc : Nat) : Bool :=
  alwaysStep i ||
    (match orderOf i with
    | some (o, sc) => o != 0 && decide (csc < sc)
    | none => false) ||
    (match atomicScope i with
    | some sc => decide (csc < sc)
    | none => false)

/-- A slot V half in shape form (R167): an engine's command, or a vector instruction with an h operand; it ends the chunk after
its bundle whatever its guard (R123). -/
def shapeForm (i : Instr) : Bool :=
  match i with
  | .mma _ | .mmar _ | .mseg _ | .manchor _ | .macc _ | .mclr _ | .mld _ | .mrot _ | .mrotDrop _ => true
  | .cp _ | .cpg _ | .cps _ | .cpfill _ | .cpr _ | .cprPull _ | .cpdur _ => true
  | _ =>
    match vfOf i with
    | some (_, f) => decide (16 ≤ f.vd.toNat) || decide (16 ≤ f.va.toNat) || decide (16 ≤ f.vb.toNat)
    | none => false

/-- The general registers that a slot A half writes (R155), with its guard: RD, the pair of ldp, g15 of call. -/
def destA : Instr → List (BitVec 4) × Bool × BitVec 3
  | .add f => ([f.rd], f.pn, f.pg)
  | .sub f => ([f.rd], f.pn, f.pg)
  | .mul f => ([f.rd], f.pn, f.pg)
  | .mulh f => ([f.rd], f.pn, f.pg)
  | .mulhu f => ([f.rd], f.pn, f.pg)
  | .div f => ([f.rd], f.pn, f.pg)
  | .divu f => ([f.rd], f.pn, f.pg)
  | .rem f => ([f.rd], f.pn, f.pg)
  | .remu f => ([f.rd], f.pn, f.pg)
  | .and f => ([f.rd], f.pn, f.pg)
  | .or f => ([f.rd], f.pn, f.pg)
  | .xor f => ([f.rd], f.pn, f.pg)
  | .andn f => ([f.rd], f.pn, f.pg)
  | .shl f => ([f.rd], f.pn, f.pg)
  | .shr f => ([f.rd], f.pn, f.pg)
  | .sar f => ([f.rd], f.pn, f.pg)
  | .rot f => ([f.rd], f.pn, f.pg)
  | .min f => ([f.rd], f.pn, f.pg)
  | .max f => ([f.rd], f.pn, f.pg)
  | .minu f => ([f.rd], f.pn, f.pg)
  | .maxu f => ([f.rd], f.pn, f.pg)
  | .clz f => ([f.rd], f.pn, f.pg)
  | .ctz f => ([f.rd], f.pn, f.pg)
  | .popc f => ([f.rd], f.pn, f.pg)
  | .sext f => ([f.rd], f.pn, f.pg)
  | .zext f => ([f.rd], f.pn, f.pg)
  | .bfx f => ([f.rd], f.pn, f.pg)
  | .bfi f => ([f.rd], f.pn, f.pg)
  | .addi f => ([f.rd], f.pn, f.pg)
  | .muli f => ([f.rd], f.pn, f.pg)
  | .andi f => ([f.rd], f.pn, f.pg)
  | .ori f => ([f.rd], f.pn, f.pg)
  | .xori f => ([f.rd], f.pn, f.pg)
  | .shli f => ([f.rd], f.pn, f.pg)
  | .shri f => ([f.rd], f.pn, f.pg)
  | .sari f => ([f.rd], f.pn, f.pg)
  | .li f => ([f.rd], f.pn, f.pg)
  | .lih f => ([f.rd], f.pn, f.pg)
  | .lx f => ([f.rd], f.pn, f.pg)
  | .csel f => ([f.rd], f.pn, f.pg)
  | .addp f => ([f.rd], f.pn, f.pg)
  | .pidx f => ([f.rd], f.pn, f.pg)
  | .pfmt f => ([f.rd], f.pn, f.pg)
  | .jalr f => ([f.rd], f.pn, f.pg)
  | .rdsys f => ([f.rd], f.pn, f.pg)
  | .ld f => ([f.rd], f.pn, f.pg)
  | .ldn f => ([f.rd], f.pn, f.pg)
  | .shget f => ([f.rd], f.pn, f.pg)
  | .ldf f => ([f.rd], f.pn, f.pg)
  | .ldfk f => ([f.rd], f.pn, f.pg)
  | .fest f => ([f.rd], f.pn, f.pg)
  | .amoadd f => ([f.rd], f.pn, f.pg)
  | .amoand f => ([f.rd], f.pn, f.pg)
  | .amoor f => ([f.rd], f.pn, f.pg)
  | .amoxor f => ([f.rd], f.pn, f.pg)
  | .amomin f => ([f.rd], f.pn, f.pg)
  | .amomax f => ([f.rd], f.pn, f.pg)
  | .amominu f => ([f.rd], f.pn, f.pg)
  | .amomaxu f => ([f.rd], f.pn, f.pg)
  | .amoswap f => ([f.rd], f.pn, f.pg)
  | .amocas f => ([f.rd], f.pn, f.pg)
  | .tagany f => ([f.rd], f.pn, f.pg)
  | .tagff f => ([f.rd], f.pn, f.pg)
  | .take f => ([f.rd], f.pn, f.pg)
  | .peek f => ([f.rd], f.pn, f.pg)
  | .peekM f => ([f.rd], f.pn, f.pg)
  | .join f => ([f.rd], f.pn, f.pg)
  | .bararr f => ([f.rd], f.pn, f.pg)
  | .barrd f => ([f.rd], f.pn, f.pg)
  | .hsift f => ([f.rd], f.pn, f.pg)
  | .rcommit f => ([f.rd], f.pn, f.pg)
  | .rabort f => ([f.rd], f.pn, f.pg)
  | .rstat f => ([f.rd], f.pn, f.pg)
  | .afetch f => ([f.rd], f.pn, f.pg)
  | .spec f => ([f.rd], f.pn, f.pg)
  | .hinfo f => ([f.rd], f.pn, f.pg)
  | .ldp f => ([f.rd, f.rd + 1], f.pn, f.pg)
  | .call f => ([15], f.pn, f.pg)
  | .loop f => ([f.rd], f.pn, f.pg)
  | .route f => ([f.rd, f.rd + 1], f.pn, f.pg)
  | _ => ([], false, 0)

/-- Both halves execute and write the same general register (R155, R157). DESIGN CHOICE (assumption log 21): two halves that name g0
write no register, and raise no fault. -/
def State.sameDest (s : State) (a v : Instr) : Bool :=
  match v with
  | .vext f => s.guard f.pn f.pg && s.guard (destA a).2.1 (destA a).2.2 && (destA a).1.any fun g => g == f.gs && g != 0
  | _ => false

/-- The state in which a chunk is open or the bundle is a step (R122, R123, R127): the state to go on in, or what the thread does
first. -/
def State.enterChunk (s : State) (isStep : Bool) : State :=
  let t := s.cur
  match t.chunk with
  | some ck =>
    if !isStep then s
    else if ck.count = 0 then
      let s := s.modCur fun t => { t with chunk := none }
      { s with ctx := { s.ctx with step := true } }
    else (s.askCommit s.ctx.core s.ctx.slot).withRes .again
  | none =>
    if isStep then { s with ctx := { s.ctx with step := true } }
    else if 8 ≤ t.squash ∧ !t.solo then
      let s : State := { s.bump with net := s.net ++ [{
        id := s.fresh, src := s.ctx.core, dst := 16384, dmod := s.modid, ten := bindTen t.bind, org := s.origin,
        body := .tokenReq, stage := .arrived, born := s.cycle }] }
      s.retry .token 0
    else s.modCur fun t => { t with chunk := some (Chunk.open t) }

/-! ### The bundle -/

/-- The state that an outcome of a half leads to. -/
def outState (s : State) (o : Host.Outcome State Fault Refusal) : State :=
  match o with
  | .next t => t
  | _ => s

/-- A half run. -/
def State.run (s : State) (i : Instr) : State := outState s (exec i s)

/-- The half has had its effect. -/
def State.went (s : State) : Bool := s.ctx.res == .done

/-- Slot V of a bundle, with its fault for a register that slot A writes too (R155). -/
def State.runV (s : State) (a v : Instr) : State := if s.sameDest a v then s.faultCode 0x01 else s.run v

/-- A message that asks for the faults of an access without its effect; none where its answer is never a fault (R156). -/
def Body.checked : Body → Option Body
  | .access pa n h op =>
    match op with
    | .store _ => if Config.localBase ≤ pa ∧ pa < Config.hostBase then some (.barRead 0 false) else none
    | _ => some (.access pa n h .load)
  | .winRead o => some (.winRead o)
  | .fe _ pa _ => some (.fe 0x60 pa 0)
  | .barArr _ => some (.barRead 0 false)
  | .barRead b l => some (.barRead b l)
  | .handle h 0 => some (.handle h 4)
  | .handle h 2 => some (.handle h 6)
  | _ => none

/-- The fold that spec has just asked for seeks only its faults (R156). -/
def State.foldFaults (s ra : State) : State :=
  let cl := clusterOf s.ctx.core
  if (s.cluster cl).folds.length < (ra.cluster cl).folds.length then
    ra.modCluster cl fun q => { q with folds := q.folds.dropLast ++ q.folds.getLast?.toList.map fun r => { r with check := true } }
  else ra

/-- Slot A's access waits (ra) and slot V faults (rv): a page fault or a fault of the access comes first, so the access is asked for without
its effect, and a fold for its faults; any other wait of slot A ends in slot V's fault (R156; assumption log 13). -/
def State.checkFirst (s ra rv : State) : State :=
  match ra.ctx.res, ra.cur.acc with
  | .retry .walk, _ => ra
  | .retry (.foot _), _ => ra
  | .retry (.fold _), _ => s.foldFaults ra
  | .retry .reply, some a =>
    if s.cur.acc.any fun b => b.id == a.id then ra
    else
      match (ra.net.find? fun m => m.id == a.id).bind fun m => m.body.checked with
      | none => rv
      | some b =>
        let net := ra.net.map fun m => if m.id = a.id then { m with body := b } else m
        { ra with net := net }.modCur fun t => { t with acc := some { a with check := true } }
  | _, _ => rv

/-- The engine queue in which a slot V half, run alone, has taken an entry. -/
def State.tookEntry (s rv : State) : Option Nat :=
  match rv.own.cmds.drop s.own.cmds.length with
  | x :: _ => some x.eng.queue
  | [] => none

/-- Both halves (R155, R156): slot A before slot V; the faults of slot A before those of slot V; nothing of the bundle when either faults or
waits. While slot A waits for an answer, the entry of slot V's command stays free for it; a thread that leaves its slot takes slot V's
effects first. -/
def State.halves (s : State) (a v : Instr) : State :=
  let ra := s.run a
  match ra.ctx.res with
  | .done =>
    let rv := ra.runV a v
    if rv.went then rv else s.runV a v
  | .left =>
    let rv := s.runV a v
    if rv.went then rv.run a else rv
  | .retry _ =>
    let rv := s.runV a v
    match rv.ctx.res with
    | .done =>
      match s.tookEntry rv with
      | some q => ra.modCur fun t => { t with acc := t.acc.map fun x => { x with queue := some q } }
      | none => ra
    | .fault _ => s.checkFirst ra rv
    | _ => rv
  | _ => ra

/-- The thread's access, or its fold, has been checked without its effect, and answers no fault (R156). -/
def Thread.checked (t : Thread) : Bool :=
  t.foldAns == some .clean ||
    (match t.acc with
    | some a =>
      match a.ans with
      | .data _ => a.check
      | _ => false
    | none => false)

/-- A bundle's halves. Where slot A's access has only been checked, slot V's fault follows; if it no longer faults, the bundle starts anew
(R156). -/
def State.runBoth (s : State) (a v : Instr) : State :=
  if s.cur.checked then
    let s := s.modCur fun t => { t with acc := none, foldAns := none }
    let rv := s.runV a v
    match rv.ctx.res with
    | .fault _ => rv
    | _ => s.halves a v
  else s.halves a v

/-- The end of a bundle that has had its effect (R26, R122, R123, R371): the program counter, the chunk's count and its end. -/
def State.finish (s : State) (shape : Bool) : State :=
  let c := s.ctx.core
  let k := s.ctx.slot
  match s.ctx.res with
  | .done =>
    let stepping := s.cur.stepping
    let s := s.modCur fun t => { t with
      pc := s.ctx.next,
      entered := if s.ctx.enter then s.fresh else t.entered,
      chunk := t.chunk.map fun ck => { ck with count := ck.count + 1 },
      haltAt := t.haltAt || t.stepping,
      stepping := false }
    let s := if s.ctx.enter then s.bump else s
    match s.cur.chunk with
    | none => s
    | some ck => if ck.budget ≤ ck.count ∨ s.ctx.ends ∨ shape ∨ stepping then s.askCommit c k else s
  | _ => s

/-- A decoded bundle issued (R155, R156). -/
def State.issueDecoded (s : State) (a v : Instr) : State :=
  let csc := s.ctx.pre.csc
  let s := s.enterChunk (isStep a csc || isStep v csc)
  match s.ctx.res with
  | .done => (s.runBoth a v).finish (shapeForm v)
  | _ => s

/-- The fault that answers the access a thread waited on, with the access's address: its bundle faults when it reissues. -/
def Thread.accFault (t : Thread) : Option (FaultInfo × Word) :=
  match t.acc with
  | some a =>
    match a.ans with
    | .fault f => some (f, a.addr)
    | _ => none
  | none => none

/-- A gang offset outside gang mode: a decode fault of slot V (R44, R168, R173). -/
def State.gangFault (s : State) (v : Instr) : Bool :=
  match gangForm v with
  | some f => s.gangBad f
  | none => false

/-- The issue of the thread in a slot (R26): its fetch, the decode faults of slot A then of slot V, the bundle. -/
def State.issueAt (s : State) (c k : Nat) : State :=
  match s.thr c k with
  | none => s
  | some t =>
    let s := s.setThr c k { t with key := s.cycle, ready := s.cycle + 8 }
    let next := (t.pc + 16) &&& BitVec.ofNat 64 (2 ^ 57 - 1)
    let ctx : Ctx := { core := c, slot := k, pre := t, next := next }
    let s := { s with ctx := ctx }
    let answer := t.accFault
    match t.startFault with
    | some (f, zero) =>
      let r := (if zero then { s with ctx := { ctx with pre := { ctx.pre with pc := 0 } } } else s).takeFault f
      match r.ctx.res with
      | .fault _ => r.modCur fun t => { t with startFault := none }
      | _ => r
    | none =>
      match s.fetch c t with
      | .fault f => s.takeFault f
      | .walk =>
        match answer with
        | some (f, p) => if p = t.pc then s.takeFault f else s.awaitWalk t.pc.toNat .exec t.pc
        | none => s.awaitWalk t.pc.toNat .exec t.pc
      | .words a v =>
        let s := ({ s with ctx := { ctx with a := a, v := v } } : State).fetchTouch c t
        match answer with
        | some (f, _) => s.takeFault f
        | none =>
          match decodeA a, decodeV v with
          | .ok i, .ok j => if s.gangFault j then s.faultCode 0x01 else s.issueDecoded i j
          | _, _ => s.faultCode 0x01

/-! ### The barrel -/

/-- A thread is eligible (R26): runnable, and its last issue lies at least 8 cycles back; a thread that parks or halts at its next
boundary issues only the bundle that takes up an answer already there (R459). -/
def Thread.eligible (t : Thread) (cycle : Nat) : Bool :=
  let stops := !t.parkAt.isEmpty || t.haltAt || t.stopAt
  t.st == .runnable && decide (t.ready ≤ cycle) && (!stops || (t.chunk.isNone && (t.acc.isSome || t.foldAns.isSome)))

/-- The slot with the smallest key among eligible threads, the lower number on equal keys (R26): the key and the slot. -/
def bestSlot : List (Nat × Thread) → Nat → Option (Nat × Nat)
  | [], _ => none
  | (key, t) :: r, cycle =>
    let rest := bestSlot r cycle
    if t.eligible cycle then
      match rest with
      | some (q, j) => if q < t.key ∨ (q = t.key ∧ j < key % 16) then some (q, j) else some (t.key, key % 16)
      | none => some (t.key, key % 16)
    else rest

/-- The bound threads of cores that satisfy a test. -/
def State.threadsOf (s : State) (p : Nat → Bool) : List (Nat × Thread) := s.threads.filter fun x => p (x.1 / 16)

/-- The slot that a core issues in this cycle, in gang mode chosen over the threads of its gang (R26, R43). -/
def State.pick (s : State) (c : Nat) : Option Nat :=
  let p := if s.gangs.contains (gangOf c) then fun d => gangOf d == gangOf c else fun d => d == c
  (bestSlot (s.threadsOf p) s.cycle).map fun x => x.2

/-- The cores that issue together with a core: its gang in gang mode, or itself; a core issues once in a cycle (R26). -/
def State.issuers (s : State) (c : Nat) : List Nat :=
  (if s.gangs.contains (gangOf c) then (List.range 4).map fun i => gangOf c * 4 + i else [c]).filter fun d => !s.issued.contains d

/-- The vector registers of the threads in a slot of cores that issue together, for the gang offsets of the cycle (R44). -/
def State.gangRegs (s : State) (c k : Nat) : Tab (Vector VReg 16) :=
  if s.gangs.contains (gangOf c) then
    (List.range 4).filterMap fun i =>
      (s.thr (gangOf c * 4 + i) k).map fun t => (slotKey (gangOf c * 4 + i) k, t.v)
  else []

/-- A core (or a gang, from one selection) issues in this cycle (R26, R43): each core its own slot where its thread there is
eligible. -/
def State.issueCore (s : State) (c : Nat) : State :=
  match s.pick c with
  | none => s
  | some k =>
    let cs := s.issuers c
    let go := cs.filter fun d =>
      match s.thr d k with
      | some t => t.eligible s.cycle
      | none => false
    let s := { s with issued := cs.foldl insertNat s.issued, gangV := s.gangRegs c k }
    go.foldl (fun s d => s.issueAt d k) s

end Sys2Proof.Machine
end

