-- ==== Sys2Proof/Machine/Schedule.lean ====
section
/-! DEFINITION. The module's own schedule (assumption log 4): which row of the table or which issue comes next. Every order of events
that the spec allows is reached through the agenda; this file fixes one of them. -/

namespace Sys2Proof.Machine

/-- A row of the table with its operands. -/
abbrev Row := State → Host.Outcome State Fault Refusal

/-! ### Messages -/

/-- The row that takes up a message that is whole at its destination. -/
def Body.row (b : Body) (m : Nat) : Option Row :=
  match b with
  | .access pa _ _ _ => some (if Config.localBase ≤ pa ∧ pa < Config.hostBase then execOwnerCoreAccess m else execHomeSliceAccess m)
  | .winRead _ => some (execOwnerCoreAccess m)
  | .answer _ _ => some (execMemoryReply m)
  | .rfill _ _ _ _ _ => some (execRemoteCacheFill m)
  | .inval _ _ _ => some (execRemoteCacheInvalidate m)
  | .wack _ => some (execWriteAcknowledge m)
  | .durable _ _ _ => some (execDurablePersist m)
  | .commitReq _ => some (execCommitRequest m)
  | .notice _ _ _ => some (execCommitNotice m)
  | .tokenReq => some (execSoloTokenRequest m)
  | .fe _ _ _ => some (execFullEmptyAccess m)
  | .post _ _ _ _ => some (execPostArrival m)
  | .callat _ _ _ => some (execCallatArrival m)
  | .chan _ _ _ _ _ => some (execChannelMessageArrival m)
  | .chctl _ _ _ => some (execChannelControlArrival m)
  | .fork _ => none
  | .context c => some (if c.fault.isSome then execMigrationRefusedReturn m else execMigrationArrival m)
  | .barArr _ => some (execBarrierArrival m)
  | .barFwd _ _ _ => some (execBarrierArrival m)
  | .barNote _ => some (execBarrierCompletionNotice m)
  | .barRead _ _ => some (execOwnerCoreAccess m)
  | .stealReq _ => some (execStealRequest m)
  | .stealRep _ => some (execStealReply m)
  | .walk _ _ _ _ => some (execPageWalk m)
  | .mmar _ _ _ => some (execMmarArrival m)
  | .mmarDone _ _ _ _ => some (execMmarCompletionNotice m)
  | .handle _ _ => some (execHandleUpdate m)
  | .depot _ => some (execDepotImagePersist m)
  | .routeIn _ => some (execRouteArrival m)
  | .batch _ _ _ _ _ => some (execBatchHeader m)
  | .batchAns _ _ _ _ => some (execBatchAnswer m)
  | .routedBack _ => some (execRoutedContextReturn m)
  | .rrow _ => some (execRhomeRow m)
  | .rcommit _ _ => some (execRcommitArrival m)
  | .rabort _ => some (execRabortArrival m)
  | .txEnd _ => some (execTransactionEndNotice m)
  | .launch _ _ _ _ => some (execLaunchSubmission m)
  | .scrub _ _ => some (execScrubWriteBack m)
  | .bulk _ _ _ _ => some (execHomeSliceAccess m)
  | .bulkEnd _ _ => some (execMemoryReply m)
  | .reserved => some (execMemoryReply m)

/-- The row that offers a waiting message again. -/
def Body.resend (b : Body) (m : Nat) : Row :=
  match b with
  | .barFwd _ _ _ => execBarrierForwardResend m
  | .chan _ _ _ _ true => execSubmissionResend m
  | .walk _ _ _ _ => execPageRequestResend m
  | .launch _ _ _ _ => execPageRequestResend m
  | b => if b.isContext then execMigrationResend m else execMessageResend m

/-- The row of a message in its stage. -/
def Msg.row (x : Msg) (cycle : Nat) : Option Row :=
  match x.stage with
  | .arrived => x.body.row x.id
  | .wait n => if cycle < n then none else some (if x.held then execHoldResend x.id else x.body.resend x.id)
  | .flits => if x.born + 2 ^ 20 ≤ cycle then some (execMessageAnswerTimeout x.id) else none
  | .away => if x.born + 2 ^ 20 ≤ cycle then some (execMessageAnswerTimeout x.id) else none
  | .there => none

/-! ### Threads, cores, clusters, dies, the hub -/

/-- Rows of a thread in slot k of core c. -/
def Thread.rows (t : Thread) (c k : Nat) : List Row :=
  (match t.st with
  | .waiting .reply _ => [execRotationReentry c k, execMemoryReplyTimeout c k]
  | .waiting (.fold 2) _ => [execRotationReentry c k, execMemoryReplyTimeout c k]
  | .waiting _ _ => [execRotationReentry c k]
  | _ => []) ++
  (if t.parkAt ≠ [] ∨ t.haltAt ∨ t.stopAt ∨ t.endAt then [execInstructionBoundaryPark c k] else [])

/-- The watchdog rows of the waits in take and barwait, after everything else of a cycle: an event of the same cycle wins (R255). -/
def State.watchdogRows (s : State) : List Row :=
  s.threads.filterMap fun x =>
    match x.2.st with
    | .waiting (.take _) _ => some (execWaitWatchdogExpiry (x.1 / 16) (x.1 % 16))
    | .waiting (.bar _ _) _ => some (execWaitWatchdogExpiry (x.1 / 16) (x.1 % 16))
    | _ => none

/-- Rows of a core's engines. -/
def Core.engineRows (k : Core) (c : Nat) : List Row :=
  if k.cmds = [] then []
  else
    [execVectorCommandComplete c, execCopyCommandComplete c 0, execCopyCommandComplete c 1, execMatrixCommandComplete c, execMrotTransferComplete c,
     execLatchFillComplete c, execVectorCommandStart c, execCopyCommandStart c 0, execCopyCommandStart c 1, execMatrixCommandStart c,
     execLatchCommandStart c] ++
    k.cmds.map fun x => execBulkRequestTimeout x.id

/-- The parked stores to a core's words that a solo chunk held back are performed once the token is released (R127, R216). -/
def servePark (c : Nat) (s : State) : Host.Outcome State Fault Refusal :=
  .next ((s.core c).parks.foldl (fun s p => if p.opc = 0x5E then s.served c p.word else s) s)

/-- Rows of a core. -/
def Core.rows (k : Core) (c : Nat) : List Row :=
  k.engineRows c ++
  (if k.parks.any fun p => p.opc == 0x5E then [servePark c] else []) ++
  (if k.landed = [] then [] else [execFlitReassembly c]) ++
  (if k.waiting = [] then [] else [execFaultRecordDelivery c, execRecordRedelivery c]) ++
  (if k.frames = [] ∧ k.chans = [] ∧ k.remote = [] ∧ k.deque = [] then [] else [execSchedulerBind c]) ++
  (if k.part = 0 then [] else [execStealProbe c, execStealRetry c])

/-- Rows of a cluster. -/
def Cluster.rows (q : Cluster) (cl : Nat) : List Row :=
  (if q.folds = [] ∧ q.folding = none then [] else [execFoldStart cl, execFoldComplete cl]) ++
  (if q.shelf = [] then [] else [execShelfFill cl, execShelfFillComplete cl])

/-- Rows of a die. -/
def Die.rows (q : Die) (d : Nat) : List Row :=
  ((q.txns.filter fun x => x.2.lists != []).map fun x => execSendListFlushTimeout d x.1) ++ q.scrubs.map fun f => execFrameScrubComplete d f

/-- The polls of an accepted launch's dependences, which go on while it is stopped or saved (R381). -/
def Launch.polls (l : Launch) : List Row := ((List.range 4).filter fun j => l.depKind j != 0).map fun j => execDependencePoll l.num j

/-- Rows of an accepted launch. -/
def Launch.rows (l : Launch) : List Row :=
  match l.st with
  | .complete => []
  | .saved => l.polls
  | .stopping left => l.polls ++ (left.map fun c => execPreemptionStop l.num c) ++ left.map fun c => execPreemptionSave l.num c
  | .active =>
    l.polls ++ l.waits.flatMap (fun x => if x.2.next = 0 then [execRootWalk l.num x.1] else [execRootWalkRetry l.num x.1]) ++
    [execCompletionWordWrite l.num]

/-- Rows of the hub. -/
def State.hubRows (s : State) : List Row :=
  let h := s.hub
  (if h.tokenQ = [] then [] else [execSoloTokenGrant]) ++
  (if h.launches = [] then [] else [execRootPlacement]) ++
  h.launches.flatMap Launch.rows ++
  ((h.launches.filter fun l => l.st == .saved).map fun l => execLaunchResume l.num) ++
  (if h.writes = [] then [] else [execPageRequestResend 0]) ++
  (h.shoots.map fun x => execShootdownComplete x.ten) ++
  ((s.bufs.filter fun x => x.2.q != []).map fun x => execHubCrossing x.1) ++
  ((s.bufs.filter fun x => x.2.owed != 0).map fun x => execCreditReturn x.1) ++
  (s.stops.flatMap fun x =>
    (if 128 ≤ x.2.waited ∧ x.2.starve = none then [execStarveRaise x.1 false] else []) ++
    (if 128 ≤ x.2.tapWaited ∧ x.2.tapStarve = none then [execStarveRaise x.1 true] else [])) ++
  ((h.streams.filter fun x => x.2.held != []).map fun x => execStreamBrokenTimeout (x.1 / 16) (x.1 % 16))

/-- The rows that may have an effect now, in the order in which the module tries them. -/
def State.rows (s : State) : List Row :=
  s.net.filterMap (fun x => x.row s.cycle) ++
  (s.arbs.map fun x => execCommitGrant x.1) ++
  s.threads.flatMap (fun x => x.2.rows (x.1 / 16) (x.1 % 16)) ++
  s.cores.flatMap (fun x => x.2.rows x.1) ++
  s.clusters.flatMap (fun x => x.2.rows x.1) ++
  s.dies.flatMap (fun x => x.2.rows x.1) ++
  s.hubRows

/-- The state after the first of these rows that changes anything. -/
def State.firstEffect (s : State) : List Row → Option State
  | [] => none
  | i :: r =>
    let t := outState s (i s)
    if t = s then s.firstEffect r else some t

/-! ### Issue and the next cycle -/

/-- The core is there: in minimal mode only quadrant 0 of die 0 (R449); an office core runs no compute threads (R20). -/
def State.alive (s : State) (c : Nat) : Bool := decide (c < (if s.hub.min then 1024 else Config.cores)) && !s.isOffice c

/-- The next core to issue in this cycle (R26): the lowest that has not issued and has an eligible thread, once the cores are
released (R443). -/
def State.nextIssue (s : State) : Option Nat :=
  if s.hub.released then
    (s.threads.find? fun x => s.alive (x.1 / 16) && !s.issued.contains (x.1 / 16) && x.2.eligible s.cycle).map fun x => x.1 / 16
  else none

/-- The stop has something to do in a cycle. -/
def Stop.busy (q : Stop) : Bool := q.cw != [] || q.ccw != [] || q.inject != [] || q.tapIn != []

/-- The datapath of a core is at work. -/
def State.feeds (s : State) (c : Nat) : Bool := (s.datapath c).isSome

/-- The rows of a new cycle: stops with flits, datapaths at work, and at multiples of 1,024 the windows, the purses and the scrubs
that would find something. -/
def State.cycleRows (s : State) : List Row :=
  ((s.stops.filter fun x => x.2.busy).map fun x => execRingStopCycle x.1) ++
  ((s.cores.filter fun x => s.feeds x.1).flatMap fun x => [execMatrixFeedCycle x.1, execLastBlockCheck x.1]) ++
  (if s.cycle % 1024 ≠ 0 then []
  else
    ((s.stops.filter fun x => x.2.defl != 0 || x.2.meter != 0 || x.2.throt).map fun x => execMeterWindowEnd x.1) ++
    (execPurseRefill 0 :: (s.cores.filter fun x => x.2.purses != [] && x.1 != 0).map fun x => execPurseRefill x.1) ++
    s.upsets.map fun x =>
      let pa := 32 * x
      if isDevice pa then execDramPatrolScrub (pa / Config.dieBytes * 256 + pa % Config.dieBytes / Config.frameBytes % 256)
      else execSramPatrolScrub (if pa < Config.accBase then (pa - Config.localBase) / Config.localBytes else (pa - Config.accBase) / Config.accBytes))

/-- The next cycle begins, and its rows run. -/
def State.advance (s : State) : State :=
  let s : State := { s with
    cycle := s.cycle + 1, issued := [], gangV := [], gangsNext := [],
    gangs := s.gangsNext.foldl (fun (g : List Nat) (x : Nat × Bool) =>
      if x.2 then insertNat g (gangOf x.1) else removeNat g (gangOf x.1)) s.gangs }
  s.cycleRows.foldl (fun x i => outState x (i x)) s

/-- A turn of the agenda. -/
def State.take (s : State) : Turn → Host.Outcome State Fault Refusal
  | .row i => exec i s
  | .issue c => .next (s.issueCore c)
  | .hart c => .next (s.hartStep c)
  | .peerIn l far age m => .next (s.peerIn l far age m)
  | .peerTakes m n => .next (s.peerTakes m n)
  | .peerRefuses m why => .next (s.peerRefuses m why)
  | .peerEnds m => .next (s.peerEnds m)
  | .peerPush t p bs => .next (s.peerPush t p bs)

/-- The module's own next move: the first row with an effect, else the next core's issue, else an expired watchdog, else the next
cycle. -/
def State.ownMove (s : State) : State :=
  match s.firstEffect s.rows with
  | some t => t
  | none =>
    match s.nextIssue with
    | some c => s.issueCore c
    | none => (s.firstEffect s.watchdogRows).getD s.advance

/-! ### A word placed for the next step -/

/-- Where withFetchWord puts an instruction: the virtual address, and the device address it is translated to. -/
def probeVa : Nat := 0x200000
/-- The device address: the first byte of frame 1 of die 0. -/
def probePa : Nat := 0x200000

/-- The translation of the probe's page in core 0's slice: of frame 1, NAMED core 0. -/
def probeTlb : Tlb :=
  { ten := 0, asid := 0, global := true, vpn := 1, shift := 21, leaf := 21, pa := probePa, wr := true, ex := true, rd := true,
    attr := some (BitVec.ofNat 64 (2 ^ 34)) }

/-- The thread that fetches the probe. -/
def probeThread (s : State) : Thread :=
  { uid := s.fresh, pc := BitVec.ofNat 64 probeVa, tsw := tswStart, entered := s.fresh, ready := s.cycle }

/-- A bundle placed where core 0 fetches next, and core 0's turn. -/
def State.placeBundle (s : State) (bytes : List Byte) : State :=
  let s := s.setThr 0 0 (probeThread s)
  let s := s.modCore 0 fun k => { k with tlb := probeTlb :: k.tlb, homing := [] }
  { s.bump with
    mem := Mem.writeN s.mem probePa bytes
    poison := clearPoison s.poison probePa 32
    codeLog := s.codeLog.filter fun x => x.addr != probePa
    gangs := removeNat s.gangs 0
    issued := removeNat s.issued 0
    agenda := [.issue 0] }

end Sys2Proof.Machine
end

