-- ==== Sys2Proof/Machine/Step.lean ====
section
/-! DEFINITION. One step of the module: the next turn of the agenda, or the module's own next move. -/

namespace Sys2Proof.Machine

/-- A step with the reservations of harts that it ends (R362). -/
def State.lapsed (s : State) : Host.Outcome State Fault Refusal → Host.Outcome State Fault Refusal
  | .next u => .next (s.lapse u)
  | o => o

/-- One step. -/
def step (s : State) : Host.Outcome State Fault Refusal :=
  match s.agenda with
  | t :: r => s.lapsed (({ s with agenda := r }).take t)
  | [] => .next (s.lapse s.ownMove)

/-- s with an instruction's word placed where the next step fetches it (assumption log 3): a word of up to 64 bits is a slot A half
beside an empty slot V, a longer one is a bundle. -/
def State.withFetchWord (s : State) (nbits w : Nat) : State :=
  s.placeBundle (bytesOfNat 16 (if nbits ≤ 64 then w % 2 ^ 64 else w))

end Sys2Proof.Machine
end

