-- ==== Sys2Proof/Safety.lean ====
section
/-! DEFINITION. The terms in which claims about the machine are stated: what a step may not do, what an instruction leaves
unchanged, and the invariants of a good state. -/

namespace Sys2Proof.Machine

/-! ### The issuing thread -/

/-- Thread t is bound to the slot that issues (R24). -/
def State.issues (s : State) (t : Thread) : Prop := s.thr s.ctx.core s.ctx.slot = some t

/-- g[r] of a thread; g0 reads 0 (R174). -/
def Thread.reg (t : Thread) (r : BitVec 4) : Word := if r = 0 then 0 else t.g[r.toNat]

/-- p[n] of a thread; p0 reads 1 (R169). -/
def Thread.pred (t : Thread) (n : Nat) : Bool := n == 0 || t.tsw.getLsbD n

/-! ### Frames -/

/-- Every byte of memory reads as before. -/
def SameMem (s u : State) : Prop := ∀ a, Mem.read u.mem a = Mem.read s.mem a

/-- Every byte of memory outside n bytes from pa reads as before. -/
def SameMemBut (s u : State) (pa n : Nat) : Prop := ∀ a, a < pa ∨ pa + n ≤ a → Mem.read u.mem a = Mem.read s.mem a

/-- Nothing differs but the issuing thread and the record of the issue: every other thread, every core, memory, the network, the
clusters, the dies and the hub are as before. -/
def OnlyIssuer (s u : State) : Prop :=
  { u with threads := s.threads, ctx := s.ctx } = s ∧ u.ctx.core = s.ctx.core ∧ u.ctx.slot = s.ctx.slot ∧
    ∀ key, key ≠ slotKey s.ctx.core s.ctx.slot → Tab.find u.threads key = Tab.find s.threads key

/-- The step's effect is to write x to g[rd], and nothing else: every other general register, every other field of the thread, and
everything outside the thread is as before; a write to g0 is discarded (R174). -/
def WritesReg (s u : State) (rd : BitVec 4) (x : Word) : Prop :=
  OnlyIssuer s u ∧ u.ctx = s.ctx ∧
    ∀ t, s.issues t → ∃ t', u.issues t' ∧ { t' with g := t.g } = t ∧ ∀ r, t'.reg r = if r = rd ∧ r ≠ 0 then x else t.reg r

/-- The step's effect is to write b to p[n], and nothing else; a write to p0 is discarded (R187). -/
def WritesPred (s u : State) (n : Nat) (b : Bool) : Prop :=
  OnlyIssuer s u ∧ u.ctx = s.ctx ∧
    ∀ t, s.issues t → ∃ t', u.issues t' ∧ { t' with tsw := t.tsw } = t ∧
      ∀ j, t'.tsw.getLsbD j = if j = n ∧ n ≠ 0 then b else t.tsw.getLsbD j

/-- Every thread but the issuing one is as before. -/
def OthersSame (s u : State) : Prop := ∀ key, key ≠ slotKey s.ctx.core s.ctx.slot → Tab.find u.threads key = Tab.find s.threads key

/-- The issuing thread still holds its slot; its program counter, status word, vector and shape registers are as before, and so is
every general register but g[rd], which holds x. -/
def IssuerReg (s u : State) (rd : BitVec 4) (x : Word) : Prop :=
  ∀ t, s.issues t → ∃ t', u.issues t' ∧ t'.pc = t.pc ∧ t'.tsw = t.tsw ∧ t'.v = t.v ∧ t'.h = t.h ∧
    ∀ r, t'.reg r = if r = rd ∧ r ≠ 0 then x else t.reg r

/-- The issuing thread waits for w outside the rotation (R29, R254); its registers are as before. -/
def IssuerWaits (s u : State) (w : Wait) : Prop :=
  u.ctx.res = .retry w ∧ ∀ t, s.issues t → ∃ t', u.issues t' ∧ t'.st = .waiting w false ∧ t'.pc = t.pc ∧ t'.g = t.g ∧
    t'.v = t.v ∧ t'.h = t.h ∧ t'.tsw = t.tsw ∧ fld t'.w0 0 4 = w.kind

/-- The step's effect is to write x to v[r], and nothing else. -/
def WritesV (s u : State) (r : Nat) (x : VReg) : Prop :=
  OnlyIssuer s u ∧ u.ctx = s.ctx ∧ ∀ t, s.issues t → ∃ t', u.issues t' ∧ { t' with v := t.v } = t ∧
    ∀ i (h : i < 16), t'.v[i] = if i = r then x else t.v[i]

/-- The step's effect is to write x to h[r], and nothing else. -/
def WritesH (s u : State) (r : Nat) (x : Shape) : Prop :=
  OnlyIssuer s u ∧ u.ctx = s.ctx ∧ ∀ t, s.issues t → ∃ t', u.issues t' ∧ { t' with h := t.h } = t ∧
    ∀ i (h : i < 16), t'.h[i] = if i = r then x else t.h[i]

/-! ### Accesses of the own local memory -/

/-- The physical address of a byte of a core's local memory (R362). -/
def localPa (c off : Nat) : Nat := Config.localBase + c * Config.localBytes + off

/-- The issuing thread's access of n bytes at p is an aligned one of its own core's local memory, and no incomplete command of the
core has a footprint that conflicts (R98, R119, R206). -/
def LocalAt (s : State) (p : Word) (n off : Nat) (wr : Bool) : Prop :=
  ptrAddr p = 0x1F0 * 2 ^ 48 + off ∧ off + n ≤ 2 ^ 18 ∧ 0 < n ∧ ptrAddr p % n = 0 ∧ s.conflicts (.loc s.ctx.core off) n wr = []

/-- The bytes that the issuing thread sees from pa up: its chunk's own stores over the committed bytes (R124). -/
def State.seen (s : State) (pa n : Nat) : Nat :=
  natOfBytes ((List.range n).map fun i => (Tab.find s.buf (pa + i)).getD (Mem.read s.mem (pa + i)))

/-- The state in which the lines of an access have entered the issuing thread's open chunk, if it has one (R124). -/
def State.noting (s : State) (pa n : Nat) (rd wr : Bool) : State :=
  if s.cur.chunk = none then s
  else s.modCur fun t => { t with chunk := t.chunk.map fun ck => { ck with
    reads := if rd then (linesOf pa n).foldl insertNat ck.reads else ck.reads,
    writes := if wr then (linesOf pa n).foldl insertNat ck.writes else ck.writes } }

/-- The open chunk, if there is one, has room for these lines (R123): at most 32 with them, or it has no bundle yet. -/
def State.roomFor (s : State) (pa n : Nat) (rd wr : Bool) : Prop :=
  ∀ ck, s.cur.chunk = some ck →
    ({ ck with
      reads := if rd then (linesOf pa n).foldl insertNat ck.reads else ck.reads,
      writes := if wr then (linesOf pa n).foldl insertNat ck.writes else ck.writes } : Chunk).lines.length ≤ 32 ∨ ck.count = 0

/-- The bundle stores bytes from pa up inside its chunk: they enter the chunk's buffer and nothing else of it changes but the lines;
memory, the registers and everything else is as before (R124). -/
def BuffersStore (s u : State) (pa : Nat) (bytes : List Byte) : Prop :=
  OnlyIssuer s u ∧ u.ctx = s.ctx ∧ ∀ t ck, s.issues t → t.chunk = some ck → ∃ t' ck', u.issues t' ∧ t'.chunk = some ck' ∧
    { t' with chunk := t.chunk } = t ∧
    { ck' with buf := ck.buf, writes := ck.writes, hints := ck.hints } = ck ∧ ck'.writes = (linesOf pa bytes.length).foldl insertNat ck.writes ∧
    ∀ a, Tab.find ck'.buf a = if pa ≤ a ∧ a < pa + bytes.length then some (bytes.getD (a - pa) 0) else Tab.find ck.buf a

/-- A step stores bytes from pa up at once: these bytes of memory change and no others, no thread and no core changes. -/
def StoresAtOnce (s u : State) (pa : Nat) (bytes : List Byte) : Prop :=
  u.threads = s.threads ∧ u.cores = s.cores ∧ u.ctx = s.ctx ∧ SameMemBut s u pa bytes.length ∧
    ∀ i < bytes.length, Mem.read u.mem (pa + i) = bytes.getD i 0

/-- The step's effect is that the bundle's transfer leads to pc, and nothing else (R198). -/
def GoesTo (s u : State) (pc : Nat) : Prop :=
  { u with ctx := s.ctx } = s ∧ u.ctx.next.toNat = pc ∧ { u.ctx with next := s.ctx.next, enter := s.ctx.enter } = s.ctx

/-- The step's effect is that the bundle's transfer leads to pc and that g[rd] holds x, and nothing else (R200, R201). -/
def LinksTo (s u : State) (pc : Nat) (rd : BitVec 4) (x : Word) : Prop :=
  u.ctx.next.toNat = pc ∧ { u.ctx with next := s.ctx.next, enter := s.ctx.enter } = s.ctx ∧ WritesReg { s with ctx := u.ctx } u rd x

/-- The effect e of the issuing bundle joins those that its open chunk holds until it commits (R130), and nothing else changes but
what f does to the thread. -/
def Holds (s u : State) (e : Effect) (f : Thread → Thread) : Prop :=
  OnlyIssuer s u ∧ u.ctx = s.ctx ∧ ∀ t ck, s.issues t → t.chunk = some ck →
    ∃ t', u.issues t' ∧ t' = f { t with chunk := some { ck with held := ck.held ++ [{ org := s.origin, eff := e }] } }

/-- The effect of a step leaves at once (R130, R231): a message with this body goes to core dst of module dmod, with the step as its
origin; no thread, no core, no byte of memory and nothing of the bundle's result changes. -/
def Releases (s u : State) (dst dmod : Nat) (b : Body) : Prop :=
  u.threads = s.threads ∧ u.cores = s.cores ∧ u.mem = s.mem ∧ u.ctx = s.ctx ∧
    ∃ y ∈ u.net, y.dst = dst ∧ y.dmod = dmod ∧ y.body = b ∧ y.org = s.origin ∧ s.fresh ≤ y.id

/-- The bundle raises this fault by itself (R156, R459): the thread parks in place, the bundle's result is the fault, its record joins
those of its core, no general register, no memory and no other thread changes. -/
def Parks (s u : State) (f : FaultInfo) : Prop :=
  u.ctx.res = .fault f ∧ u.mem = s.mem ∧ u.hub = s.hub ∧ u.net = s.net ∧
    (u.core s.ctx.core).waiting = (s.core s.ctx.core).waiting ++ [recordOf s.origin f false s.cycle] ∧
    (∀ key, key ≠ slotKey s.ctx.core s.ctx.slot → Tab.find u.threads key = Tab.find s.threads key) ∧
    ∀ t, s.issues t → ∃ t', u.issues t' ∧ t'.st = .parked ∧ t'.g = t.g ∧ t'.v = t.v ∧ t'.h = t.h ∧ t'.pc = t.pc ∧ t'.tsw = t.tsw

/-- The bundle is issued as a step, or as the first of its chunk, and the core has a place for a record: a fault takes effect at once
(R123, R131, R370). -/
def State.faultsAtOnce (s : State) : Prop :=
  (∀ ck, s.cur.chunk = some ck → ck.count = 0) ∧ s.recordsFull s.ctx.core = false

/-- exec answers the state in which the thread is parked on this fault. -/
def Faults (i : Instr) (s : State) (f : FaultInfo) : Prop := ∃ u, exec i s = .next u ∧ Parks s u f

/-- exec answers the state in which g[rd] holds x and nothing else has changed. -/
def Gives (i : Instr) (s : State) (rd : BitVec 4) (x : Word) : Prop := ∃ u, exec i s = .next u ∧ WritesReg s u rd x

/-- exec answers the state in which p[n] holds b and nothing else has changed. -/
def GivesPred (i : Instr) (s : State) (n : Nat) (b : Bool) : Prop := ∃ u, exec i s = .next u ∧ WritesPred s u n b

/-! ### Vectors and commands -/

/-- The step's effect is to write x to v[r] and to set the sticky flags fl, coded from NX up, in tsw bits 8 to 14; nothing else changes
(R66, R67). -/
def WritesVF (s u : State) (r : Nat) (x : VReg) (fl : Nat) : Prop :=
  OnlyIssuer s u ∧ u.ctx = s.ctx ∧ ∀ t, s.issues t → ∃ t', u.issues t' ∧ { t' with v := t.v, tsw := t.tsw } = t ∧
    (∀ i (h : i < 16), t'.v[i] = if i = r then x else t.v[i]) ∧
    ∀ j, t'.tsw.getLsbD j = (t.tsw.getLsbD j || (decide (8 ≤ j ∧ j < 15) && fl.testBit (j - 8)))

/-- The step's effect is one command i of an engine, under a tag and with these footprints: it joins its core's commands, held while a
chunk is open (R130), its tag's bit is cleared (R116), the chunk ends after the bundle (R123); no memory, no thread's register and
no other core changes. -/
def Commands (s u : State) (i : Instr) (eng : Engine) (tag : Nat) (foots : List (Option Foot)) : Prop :=
  let c := s.ctx.core
  u.mem = s.mem ∧ u.ctx = { s.ctx with ends := true } ∧ IssuerReg s u 0 0 ∧ OthersSame s u ∧
    (∀ k, k ≠ c → u.core k = s.core k) ∧
    (∀ n < 64, (u.core c).tags.getLsbD n = if n = tag then false else (s.core c).tags.getLsbD n) ∧
    ∃ l cmd, (u.core c).cmds = l ++ [cmd] ∧
      (l.map fun x => { x with held := false }) = ((s.core c).cmds.map fun x => { x with held := false }) ∧
      cmd.instr = i ∧ cmd.eng = eng ∧ cmd.tag = tag ∧ cmd.foots = foots.filterMap id ∧ cmd.org = s.origin ∧
      cmd.held = s.cur.chunk.isSome ∧ cmd.started = false ∧ cmd.done = false ∧
      ∀ t ck, s.issues t → t.chunk = some ck → ∃ t' ck', u.issues t' ∧ t'.chunk = some ck' ∧
        ck'.held = ck.held ++ [{ org := s.origin, eff := .cmd cmd.id }]

/-- The queue of an engine has a free entry (R287). -/
def State.queueFree (s : State) (eng : Engine) : Prop := s.queueFull s.ctx.core eng.queue s.cur.uid = false

/-- Both operand codes of a register-form instruction name v registers of the own thread (R44, R167). -/
def ownVectors (f : VF) : Prop := f.vd.toNat < 16 ∧ f.va.toNat < 16 ∧ f.vb.toNat < 16 ∧ f.ga = 0 ∧ f.gb = 0

/-- The rounding mode of the instruction is one of the five (R63, R64). -/
def State.rounds (s : State) (f : VF) : Prop :=
  f.rm.toNat ≤ 4 ∨ f.rm = 5 ∧ s.ctx.pre.tsw.toNat / 2 ^ 16 % 8 ≤ 4

/-- The value of an integer lane of w bits under U, with its source modifiers (R51, R259). -/
def intLane (w : Nat) (u neg ab : Bool) (x : Nat) : Int :=
  let y : Int := if u then (x : Int) else Int.bmod x (2 ^ w)
  let y : Int := if ab then (y.natAbs : Int) else y
  if neg then -y else y

/-! ### Heaps and baskets -/

/-- A legal heap of the own local memory at p, and nothing in the way of the accesses of a step to it (R343, R344). -/
def HeapAt (s : State) (p : Word) (off k n : Nat) : Prop :=
  ptrAddr p = 0x1F0 * 2 ^ 48 + off ∧ off % 8 = 0 ∧ off + 72 ≤ 2 ^ 18 ∧ s.cur.chunk = none ∧ s.own.cmds = [] ∧ s.poison = [] ∧
    1 ≤ k ∧ k ≤ 8 ∧ n ≤ k ∧ (s.mem64 (localPa s.ctx.core off)).toNat % 2 ^ 32 = k + 256 * n

/-- The entries of a heap in memory. -/
def heapEntries (s : State) (off n : Nat) : List Word :=
  (List.range n).map fun i => s.mem64 (localPa s.ctx.core off + 8 + 8 * i)

/-- R240: a basket word that route and rhome accept, for a core with a grant of lm bytes of local memory. -/
def basketFits (b : Word) (lm : Nat) : Prop :=
  b.toNat < 2 ^ 33 ∧ 8 ≤ b.toNat / 2 ^ 18 ∧ b.toNat / 2 ^ 18 ≤ 16384 ∧ b.toNat / 2 ^ 18 % 8 = 0 ∧ b.toNat % 8 = 0 ∧
    b.toNat % 2 ^ 18 + b.toNat / 2 ^ 18 ≤ min lm (2 ^ 18)

/-! ### Events -/

/-- Nothing changes but the thread on a slot. -/
def SlotOnly (s u : State) (c k : Nat) : Prop :=
  { u with threads := s.threads } = s ∧ ∀ key, key ≠ slotKey c k → Tab.find u.threads key = Tab.find s.threads key

/-- A new message with this body is on its way to dst. -/
def Sends (s u : State) (dst : Nat) (b : Body) : Prop := ∃ y ∈ u.net, y.dst = dst ∧ y.body = b ∧ s.fresh ≤ y.id

/-- Message m leaves the network; every other one stays as it was, and whatever else is there is new. -/
def NetTakes (s u : State) (m : Nat) : Prop :=
  (∀ y ∈ s.net, y.id ≠ m → y ∈ u.net) ∧ ∀ y ∈ u.net, y ∈ s.net ∧ y.id ≠ m ∨ s.fresh ≤ y.id

/-- The access acc of an origin's thread is answered from the core src (R29): over the network, or at once where the thread waits on the
same core, which then has its answer and its wait's event. -/
def Answered (s u : State) (src : Nat) (o : Origin) (acc : Nat) (a : Answer) : Prop :=
  (src ≠ o.core → Sends s u o.core (.answer acc a)) ∧
  (src = o.core → ∀ t x, s.bound o = some t → t.acc = some x → x.id = acc → x.ans = .none →
    ∃ t', u.thr o.core o.slot = some t' ∧ t'.acc = some { x with ans := a } ∧ t'.g = t.g ∧ t'.pc = t.pc ∧
      ∀ w, t.st = .waiting w false → t'.st = .waiting w true)

/-- No thread, no core and no byte of memory changes. -/
def Quiet (s u : State) : Prop := u.threads = s.threads ∧ u.cores = s.cores ∧ u.mem = s.mem

/-- No core but c changes, and no thread and no byte of memory. -/
def QuietBut (s u : State) (c : Nat) : Prop := u.threads = s.threads ∧ u.mem = s.mem ∧ ∀ k, k ≠ c → u.core k = s.core k

/-- Message x waits to be offered again 64 cycles later (R226, R231, R241, R248). -/
def OfferedLater (s u : State) (x : Msg) : Prop :=
  Quiet s u ∧ ∃ y ∈ u.net, y.id = x.id ∧ y.dst = x.dst ∧ y.body = x.body ∧ y.stage = .wait (s.cycle + 64)

/-- Command x of a core completes: it leaves, its flags join those of its thread (R94, R262), and its tag is set where no other command of the
core holds it (R116). Other cores change only with SUBST, which reaches a thread on its way in a receive frame (R62). -/
def Retires (s u : State) (c : Nat) (x : Cmd) : Prop :=
  u.mem = s.mem ∧ (u.core c).cmds = (s.core c).cmds.filter (fun d => d.id != x.id) ∧
    (∀ k, k ≠ c → { u.core k with frames := (s.core k).frames } = s.core k) ∧
    (x.flags.testBit 5 = false → ∀ k, k ≠ c → u.core k = s.core k) ∧
    (x.tag < 64 → (∀ d ∈ (s.core c).cmds, d.id ≠ x.id → d.tag ≠ x.tag ∨ d.from_ ≠ none) → (u.core c).tags.getLsbD x.tag = true) ∧
    ∀ t, s.bound x.org = some t → ∃ t', u.thr x.org.core x.org.slot = some t' ∧ { t' with tsw := t.tsw, chunk := t.chunk } = t ∧
      ∀ i < 7, t'.tsw.getLsbD (8 + i) = (t.tsw.getLsbD (8 + i) || x.flags.testBit i)

/-! ### Issue -/

/-- The state in which the halves a and v of thread t on slot k of core c are issued: the turn is taken, the thread is chosen, and the
registers before the bundle are kept (R26, R155). -/
def State.atIssue (s : State) (r : List Turn) (c k : Nat) (t : Thread) (a v : Word) : State :=
  { s with
    agenda := r
    issued := insertNat s.issued c
    gangV := []
    threads := Tab.put s.threads (slotKey c k) { t with ready := s.cycle + 8, key := s.cycle }
    ctx := { core := c, slot := k, pre := t, a := a, v := v,
             next := (t.pc + 16) &&& BitVec.ofNat 64 (2 ^ 57 - 1) } }

/-- Core c issues next, and thread t in slot k is its choice: it is eligible and has nothing to take up, its program counter is a
bundle's and leads through its slice's translation to device memory at pa, where nothing is poisoned and no store hides the bundle
from the fetch (R26, R159). -/
def State.fetches (s : State) (r : List Turn) (c k : Nat) (t : Thread) (pa : Nat) : Prop :=
  s.agenda = .issue c :: r ∧ gangOf c ∉ s.gangs ∧ c ∉ s.issued ∧ s.thr c k = some t ∧ s.pick c = some k ∧ t.eligible s.cycle = true ∧
    t.startFault = none ∧ t.accFault = none ∧ t.pc.toNat % 16 = 0 ∧ t.pc.toNat < 2 ^ 56 ∧
    s.translate c (bindTen t.bind) t.pc.toNat .exec = .pa pa ∧ pa < 4 * Config.dieBytes ∧ s.poisoned pa 16 = false ∧
    ∀ x ∈ s.codeLog, x.addr ≠ pa

/-! ### What software cannot reach -/

/-- The registers that only porters, the host and the start write (R363 to R366, R420, R431, R445, R447) are as before. -/
def SameConfiguration (s u : State) : Prop :=
  u.hub.lc = s.hub.lc ∧ u.hub.mask = s.hub.mask ∧ u.hub.modid = s.hub.modid ∧ u.hub.links = s.hub.links ∧ u.hub.reach = s.hub.reach ∧
    u.hub.tenants = s.hub.tenants ∧ u.hub.funcs = s.hub.funcs ∧
    ∀ c, (u.core c).part = (s.core c).part ∧ (u.core c).cap0 = (s.core c).cap0 ∧ (u.core c).cap1 = (s.core c).cap1 ∧
      (u.core c).retry = (s.core c).retry ∧ (u.core c).watchdog = (s.core c).watchdog ∧ (u.core c).homing = (s.core c).homing ∧
      (u.core c).mbox = (s.core c).mbox

/-! ### The invariant -/

/-- Memory is in its canonical form: addresses strictly rising, no entry equal to what an unlisted address reads as. -/
def State.canonical (s : State) : Prop := Mem.wf s.mem = true

end Sys2Proof.Machine
end

