-- ==== Sys2Proof/Certificates/Slice0/Obligations.lean ====
section
/-! DEFINITION. The statements for the provers. -/

section
open Sys2Proof Sys2Proof.Machine

/-- R160, R161, R164, R166: words written out from the encoding tables read as the instructions that they stand for; a reserved opcode, a
bit that must be zero, a nop half with a bit set, and a reserved or unused field are refused, each by name. -/
def Obligations.DecodeSamples : Prop :=
  decodeA 0x2025500000008000 = .ok (.addi { pn := false, pg := 2, rd := 5, ra := 5, ea := false, imm := 16, fn := 0 }) ∧
  decodeA 0x41003208FFFFFFFC = .ok (.bcmp { pn := false, pg := 0, rd := 0, ra := 3, ea := false, rb := 4, eb := false, cc := 2, off := 0xFFFFFFFC }) ∧
  decodeA 0x310257FFFFFFE802 = .ok (.cmpi { pn := false, pg := 0, rd := 2, ra := 5, ea := false, imm := 0xFFFFFFFD, fn := 2 }) ∧
  decodeA 0x5005219986000010 = .ok (.ld { pn := false, pg := 0, rd := 5, ra := 2, ea := false, rb := 3, eb := false, sc := 6, sz := 3, hint := 0, ord := 1, x := true, off := 16 }) ∧
  decodeA 0x6D06239D8C000000 = .ok (.amocas { pn := false, pg := 0, rd := 6, ra := 2, ea := false, rb := 7, eb := false, sc := 7, sz := 3, hint := 0, ord := 3, x := false, off := 0 }) ∧
  decodeA 0xA005218000000000 = .ok (.hsift { pn := false, pg := 0, rd := 5, ra := 2, ea := false, rb := 3, eb := false, fn := 0 }) ∧
  decodeV 0x0101802014008000 = .ok (.vadd { pn := false, pg := 0, vd := 3, dcl := 0, dsc := 0, va := 1, na := false, xa := false, ea := false, ga := 0, vb := 2, nb := true, xb := false, eb := false, gb := 0, tag := 0, ty := 8, rm := 0, u := false, gs := 0, eg := false, fn := 0 }) ∧
  decodeV 0x6009020088040005 = .ok (.mma { pn := false, pg := 0, vd := 18, dcl := 0, dsc := 0, va := 16, na := false, xa := false, ea := false, ga := 0, vb := 17, nb := false, xb := false, eb := false, gb := 0, tag := 4, ty := 0, rm := 0, u := false, gs := 0, eg := false, fn := 5 }) ∧
  decodeA 0x0000000000000001 = .error .nopBits ∧ decodeA 0x3900000000000000 = .error .reservedOpcode ∧
  decodeA 0x0100000000000001 = .error .mustBeZero ∧ decodeA 0x3208000000000000 = .error .illFormed ∧ decodeV 0x7F00000000000000 = .error .reservedOpcode

/-- R158, R160, R161, R166, R171 to R173: decode and encode agree over every half: a well-formed half's bits decode to it, and a word that
decodes is the bits of the well-formed half it decodes to; a half's bits beside an empty other half are read back as the instruction. -/
def Obligations.DecodeEncode : Prop :=
  (∀ i : Instr, i.WellFormed →
    (i.side = .slotA → decodeA (encodeHalf i) = .ok i) ∧ (i.side = .slotV → decodeV (encodeHalf i) = .ok i) ∧
    (i.side ≠ .event → i ≠ .nopV → decodeTableWord 128 (encode i).toNat = some i)) ∧
  (∀ (w : Word) (i : Instr), decodeA w = .ok i ∨ decodeV w = .ok i → encodeHalf i = w ∧ i.WellFormed)

/-- A step runs the decoded instruction (R26, R154, R155, R157): when core c issues and its chosen thread's program counter leads to
device memory whose two words decode to the halves i and j, the step is the issue of i and j in the state in which the thread has been
chosen and the fetch has passed the caches, which changes no thread, no memory and nothing of the hub, and with it the reservations of
porters' harts lapse on what it wrote, which changes nothing else; with nothing in slot V it is exec of i, and with nothing in slot A
exec of j, in the state after the entry into the thread's chunk (but where an access has been asked for its faults only, whose answer
the bundle takes up first), and then the end of the bundle: the program counter is the next one, and the chunk has one bundle more.
That no store hides the bundle from the fetch is a premise (R159; assumption log 22). Around exec a step lets the fetch pass the
caches of its line (assumption log 84) and ends the reservations of porters' harts whose bytes have changed (assumption log 90). -/
def Obligations.StepRunsDecoded : Prop :=
  (∀ (s : State) (c k pa : Nat) (t : Thread) (i j : Instr) (r : List Turn), s.fetches r c k t pa →
    decodeA (s.mem64 pa) = .ok i → decodeV (s.mem64 (pa + 8)) = .ok j → (∀ f, gangForm j = some f → f.ga = 0 ∧ f.gb = 0) →
      let x := s.atIssue r c k t (s.mem64 pa) (s.mem64 (pa + 8))
      let y := x.fetchTouch c t
      step s = .next (s.lapse (y.issueDecoded i j)) ∧ y.threads = x.threads ∧ y.mem = x.mem ∧ y.ctx = x.ctx ∧ y.hub = x.hub) ∧
  (∀ s u : State, { s.lapse u with porters := u.porters } = u) ∧
  (∀ (s u : State) (i : Instr),
    let ready := fun (x : State) => x.ctx.res = .done
    (i.side = .slotA → let s' := s.enterChunk (isStep i s.ctx.pre.csc); ready s' → s'.cur.checked = false → exec i s' = .next u →
      (ready u → s.issueDecoded i .nopV = u.finish false) ∧ (¬ ready u → s.issueDecoded i .nopV = u)) ∧
    (i.side = .slotV → let s' := s.enterChunk (isStep i s.ctx.pre.csc); ready s' → s'.cur.checked = false → exec i s' = .next u →
      (ready u → s.issueDecoded .nop i = u.finish (shapeForm i)) ∧ (¬ ready u → s.issueDecoded .nop i = u))) ∧
  (∀ (u : State) (t : Thread) (shape : Bool), u.ctx.res = .done → u.issues t → u.ctx.enter = false → t.stepping = false →
    (t.chunk = none → OnlyIssuer u (u.finish shape) ∧ (u.finish shape).issues { t with pc := u.ctx.next }) ∧
    (∀ ck, t.chunk = some ck → ck.count + 1 < ck.budget → u.ctx.ends = false → shape = false →
      OnlyIssuer u (u.finish shape) ∧ (u.finish shape).issues { t with pc := u.ctx.next, chunk := some { ck with count := ck.count + 1 } }))

/-- The model's memory is data in one canonical form: every step keeps it, whatever row or issue the step is. The form is the model's own
(assumption log 1). -/
def Obligations.StepsKeepCanonical : Prop := ∀ s u : State, s.canonical → step s = .next u → u.canonical

/-- R366 (words 2, 12 and 13), R20, R26, R224, R420, R443 to R447: the machine right after reset: canonical memory, nothing bound, before
stage 0, core 0 the one staged office core; every tag set, every partition word 0, the tenants' words at their reset values. That
stage is 0 and that nothing is released before it is read from R443 and R444 (assumption log 2). -/
def Obligations.ResetState : Prop :=
  State.reset.canonical ∧ State.reset.threads = [] ∧ State.reset.hub.stage = 0 ∧ State.reset.hub.released = false ∧
    State.reset.hub.staged = [(0, 1)] ∧
    ∀ c t, (State.reset.core c).tags = BitVec.allOnes 64 ∧ (State.reset.core c).part = 0 ∧ (State.reset.core c).retry = 4096 ∧
      (State.reset.core c).watchdog = 2 ^ 26 ∧ (State.reset.stop c).thr = 128 ∧ State.reset.tenantWord t 2 = 64 ∧ State.reset.tenantWord t 12 = 16 ∧
      State.reset.tenantWord t 13 = 16

/-- R157: a half executes when the predicate that PG names, inverted when PN is 1, is true, p0 reading 1; a half that does not execute
changes nothing, whatever the half. PN and PG are bits 55 and 54 to 52 of its encoding (R160, R166), and the predicate is the one
before the bundle. -/
def Obligations.GuardFalse : Prop :=
  ∀ (i : Instr) (s : State), i.side ≠ .event →
    let p := s.ctx.pre.pred ((encodeHalf i).extractLsb' 52 3).toNat
    p = (encodeHalf i).getLsbD 55 → exec i s = .next s

/-- R158: opcode 0 is nop in both slots: a half of zeros decodes to it and changes nothing, and a half with opcode 0 and any other bit set
is refused by the decoder, so that its thread, when it issues the bundle, parks with code 0x01. -/
def Obligations.NoOperations : Prop :=
  (∀ s : State, exec .nop s = .next s ∧ exec .nopV s = .next s) ∧
  (∀ w : Word, w.extractLsb' 56 8 = 0 →
    decodeA w = (if w = 0 then .ok .nop else .error .nopBits) ∧ decodeV w = (if w = 0 then .ok .nopV else .error .nopBits)) ∧
  (∀ (s : State) (c k pa : Nat) (t : Thread) (r : List Turn), s.fetches r c k t pa →
    let a := s.mem64 pa
    let v := s.mem64 (pa + 8)
    (a ≠ 0 ∧ a.extractLsb' 56 8 = 0) ∨ (v ≠ 0 ∧ v.extractLsb' 56 8 = 0) → (s.atIssue r c k t a v).faultsAtOnce →
      ∃ u, step s = .next u ∧ Parks ((s.atIssue r c k t a v).fetchTouch c t) u { code := 0x01 })

/-- R131, R156, R370, R371: taking a fault: with earlier bundles in its chunk the thread first asks for their commit and the bundle is
issued again, nothing parked; while no place for the record is free the bundle is issued again; otherwise the thread parks, its chunk
gone, and a RESUME by a porter of its core makes it runnable, not before the 8th cycle after its last issue, at the bundle's address
with its registers as they were. The bundle that waits for a place: assumption log 58. -/
def Obligations.TakingAFault : Prop :=
  ∀ (s : State) (t : Thread) (f : FaultInfo), s.issues t →
    let c := s.ctx.core
    let k := s.ctx.slot
    (∀ ck, t.chunk = some ck → 0 < ck.count → ck.asked = false → ck.scope ≠ 0 → ∃ t', (s.takeFault f).ctx.res = .again ∧ (s.takeFault f).issues t' ∧
      t'.st = .waiting .commit false ∧ t'.g = t.g ∧ t'.pc = t.pc ∧ t'.chunk = some { ck with asked := true } ∧
      (s.takeFault f).mem = s.mem ∧ (s.takeFault f).cores = s.cores ∧ ∃ m ∈ (s.takeFault f).net, m.body = .commitReq (arbiterOf ck.scope c) ∧ m.org.uid = t.uid) ∧
    ((∀ ck, t.chunk = some ck → ck.count = 0) →
      (s.recordsFull c = true → s.takeFault f = s.withRes .again) ∧
      (s.recordsFull c = false → Parks s (s.takeFault f) f ∧
        ∀ p u, (s.core c).cmds = [] → ((s.takeFault f).porter p).dvsel.toNat = c + 64 * k * 2 ^ 14 → ((s.takeFault f).porter p).hart.priv ≠ 0 →
          c < 2 ^ 14 → k < 16 → t.endAt = false → exec (.resume p) (s.takeFault f) = .next u → ∃ t', u.thr c k = some t' ∧
            t'.st = (if t.ready ≤ s.cycle then .runnable else .waiting .resume true) ∧ t'.g = t.g ∧ t'.pc = t.pc ∧
            t'.tsw = t.tsw ∧ t'.v = t.v ∧ t'.h = t.h ∧ t'.chunk = none))

/-- Whatever a half does, it changes no register that only porters, the host and the start write: neither the life cycle, the office mask,
the module id, the peer links and the tenants' words, nor a core's partition, capabilities, limits, homing map and mailboxes. -/
def Obligations.HalvesKeepConfiguration : Prop :=  ∀ (i : Instr) (s u : State), i.side ≠ .event → exec i s = .next u → SameConfiguration s u

/-- R183, R184: the results of the two-source arithmetic instructions, as numbers. -/
def Obligations.IntegerArithmetic : Prop :=
  ∀ (f : AR) (s : State), s.guard f.pn f.pg = true →
    let a := s.rg f.ra
    let b := s.rg f.rb
    (∃ x, Gives (.add f) s f.rd x ∧ x.toNat = (a.toNat + b.toNat) % 2 ^ 64) ∧
    (∃ x, Gives (.sub f) s f.rd x ∧ (x.toNat : Int) = ((a.toNat : Int) - b.toNat) % 2 ^ 64) ∧
    (∃ x, Gives (.mul f) s f.rd x ∧ x.toNat = (a.toNat * b.toNat) % 2 ^ 64) ∧
    (∃ x, Gives (.mulh f) s f.rd x ∧ x.toInt = a.toInt * b.toInt / 2 ^ 64) ∧
    (∃ x, Gives (.mulhu f) s f.rd x ∧ x.toNat = a.toNat * b.toNat / 2 ^ 64) ∧
    (∃ x, Gives (.min f) s f.rd x ∧ x.toInt = min a.toInt b.toInt) ∧
    (∃ x, Gives (.max f) s f.rd x ∧ x.toInt = max a.toInt b.toInt) ∧
    (∃ x, Gives (.minu f) s f.rd x ∧ x.toNat = min a.toNat b.toNat) ∧
    (∃ x, Gives (.maxu f) s f.rd x ∧ x.toNat = max a.toNat b.toNat)

/-- R183: the results of the logical, shift and count instructions, bit by bit or as numbers. -/
def Obligations.LogicShiftCount : Prop :=
  ∀ (f : AR) (s : State), s.guard f.pn f.pg = true →
    let a := s.rg f.ra
    let b := s.rg f.rb
    let sh := b.toNat % 64
    (∃ x, Gives (.and f) s f.rd x ∧ ∀ i, x.getLsbD i = (a.getLsbD i && b.getLsbD i)) ∧
    (∃ x, Gives (.or f) s f.rd x ∧ ∀ i, x.getLsbD i = (a.getLsbD i || b.getLsbD i)) ∧
    (∃ x, Gives (.xor f) s f.rd x ∧ ∀ i, x.getLsbD i = (a.getLsbD i != b.getLsbD i)) ∧
    (∃ x, Gives (.andn f) s f.rd x ∧ ∀ i, x.getLsbD i = (a.getLsbD i && !b.getLsbD i)) ∧
    (∃ x, Gives (.shl f) s f.rd x ∧ x.toNat = a.toNat * 2 ^ sh % 2 ^ 64) ∧
    (∃ x, Gives (.shr f) s f.rd x ∧ x.toNat = a.toNat / 2 ^ sh) ∧
    (∃ x, Gives (.sar f) s f.rd x ∧ x.toInt = a.toInt / 2 ^ sh) ∧
    (∃ x, Gives (.rot f) s f.rd x ∧ ∀ i < 64, x.getLsbD ((i + sh) % 64) = a.getLsbD i) ∧
    (∃ x, Gives (.clz f) s f.rd x ∧ (a = 0 → x.toNat = 64) ∧
      (a ≠ 0 → x.toNat < 64 ∧ 2 ^ (63 - x.toNat) ≤ a.toNat ∧ a.toNat < 2 ^ (64 - x.toNat))) ∧
    (∃ x, Gives (.ctz f) s f.rd x ∧ (a = 0 → x.toNat = 64) ∧
      (a ≠ 0 → x.toNat < 64 ∧ a.getLsbD x.toNat = true ∧ ∀ i < x.toNat, a.getLsbD i = false)) ∧
    (∃ x, Gives (.popc f) s f.rd x ∧ x.toNat = ((List.range 64).map fun i => if a.getLsbD i then 1 else 0).sum)

/-- R186 to R190: the results of the instructions with an immediate. -/
def Obligations.ImmediateResults : Prop :=
  (∀ (f : AI) (s : State), s.guard f.pn f.pg = true →
    let a := s.rg f.ra
    let n := f.imm.toNat
    let pos := n % 64
    let len := n / 64 % 128
    (1 ≤ n → ∃ x, Gives (.sext f) s f.rd x ∧ x.toInt = Int.bmod a.toNat (2 ^ min n 64)) ∧
    (∃ x, Gives (.zext f) s f.rd x ∧ x.toNat = a.toNat % 2 ^ n) ∧
    (1 ≤ len → pos + len ≤ 64 → ∃ x, Gives (.bfx f) s f.rd x ∧
      (f.fn.getLsbD 0 = false → x.toNat = a.toNat / 2 ^ pos % 2 ^ len) ∧
      (f.fn.getLsbD 0 = true → x.toInt = Int.bmod (a.toNat / 2 ^ pos) (2 ^ len))) ∧
    (1 ≤ len → pos + len ≤ 64 → ∃ x, Gives (.bfi f) s f.rd x ∧ ∀ i,
      x.getLsbD i = if pos ≤ i ∧ i < pos + len then a.getLsbD (i - pos) else (s.rg f.rd).getLsbD i) ∧
    (∃ x, Gives (.addi f) s f.rd x ∧ (x.toNat : Int) = (a.toNat + f.imm.toInt) % 2 ^ 64) ∧
    (∃ x, Gives (.muli f) s f.rd x ∧ (x.toNat : Int) = (a.toNat * f.imm.toInt) % 2 ^ 64) ∧
    (∃ x, Gives (.andi f) s f.rd x ∧ ∀ i < 64, x.getLsbD i = (a.getLsbD i && f.imm.getLsbD (min i 31))) ∧
    (∃ x, Gives (.ori f) s f.rd x ∧ ∀ i < 64, x.getLsbD i = (a.getLsbD i || f.imm.getLsbD (min i 31))) ∧
    (∃ x, Gives (.xori f) s f.rd x ∧ ∀ i < 64, x.getLsbD i = (a.getLsbD i != f.imm.getLsbD (min i 31))) ∧
    (∃ x, Gives (.shli f) s f.rd x ∧ x.toNat = a.toNat * 2 ^ n % 2 ^ 64) ∧
    (∃ x, Gives (.shri f) s f.rd x ∧ x.toNat = a.toNat / 2 ^ n) ∧
    (∃ x, Gives (.sari f) s f.rd x ∧ x.toInt = a.toInt / 2 ^ n)) ∧
  (∀ (f : AX) (s : State), s.guard f.pn f.pg = true →
    (∃ x, Gives (.li f) s f.rd x ∧ x.toInt = f.imm.toInt) ∧
    (∃ x, Gives (.lih f) s f.rd x ∧ x.toNat = (s.rg f.rd).toNat % 2 ^ 48 + f.imm.toNat % 2 ^ 16 * 2 ^ 48) ∧
    (∃ x, Gives (.lx f) s f.rd x ∧ (x.toNat : Int) = (s.ctx.pre.pc.toNat + f.imm.toInt) % 2 ^ 57))

/-- R185: division truncates toward zero, the most negative number by -1 gives itself with remainder 0, and a zero divisor is the integer
divide fault with the dividend in auxiliary word 0. -/
def Obligations.DivisionResults : Prop :=
  ∀ (f : AR) (s : State), s.guard f.pn f.pg = true →
    let a := s.rg f.ra
    let b := s.rg f.rb
    (b ≠ 0 →
      (∃ x, Gives (.div f) s f.rd x ∧ x.toInt = if a.toInt = -2 ^ 63 ∧ b.toInt = -1 then -2 ^ 63 else a.toInt.tdiv b.toInt) ∧
      (∃ x, Gives (.divu f) s f.rd x ∧ x.toNat = a.toNat / b.toNat) ∧
      (∃ x, Gives (.rem f) s f.rd x ∧ x.toInt = a.toInt.tmod b.toInt) ∧
      (∃ x, Gives (.remu f) s f.rd x ∧ x.toNat = a.toNat % b.toNat)) ∧
    (b = 0 → s.faultsAtOnce →
      ∀ i ∈ [Instr.div f, .divu f, .rem f, .remu f], Faults i s { code := 0x05, aux0 := a })

/-- R163: the ten conditions, in the spec's own terms. R191, R192, R193: compares and predicate instructions write one predicate and
nothing else; csel selects by one. -/
def Obligations.PredicateResults : Prop :=
  (
    ∀ (a b : Word),
      [condHolds 0 a b, condHolds 1 a b, condHolds 2 a b, condHolds 3 a b, condHolds 4 a b, condHolds 5 a b, condHolds 6 a b,
        condHolds 7 a b, condHolds 8 a b, condHolds 9 a b] =
      [decide (a = b), decide (a ≠ b), decide (a.toInt < b.toInt), decide (b.toInt ≤ a.toInt), decide (a.toNat < b.toNat),
        decide (b.toNat ≤ a.toNat), decide (a.toInt ≤ b.toInt), decide (b.toInt < a.toInt), decide (a.toNat ≤ b.toNat),
        decide (b.toNat < a.toNat)]) ∧
  (
    (∀ (f : AR) (s : State), s.guard f.pn f.pg = true →
      let n := f.rd.toNat
      let p := s.rp f.ra.toNat
      let q := s.rp f.rb.toNat
      GivesPred (.cmp f) s n (condHolds f.fn.toNat (s.rg f.ra) (s.rg f.rb)) ∧
      GivesPred (.pand f) s n (p && q) ∧ GivesPred (.por f) s n (p || q) ∧ GivesPred (.pxor f) s n (p != q) ∧
      GivesPred (.pandn f) s n (p && !q) ∧ GivesPred (.ptog f) s n (!p) ∧
      GivesPred (.gtop f) s n (decide (s.rg f.ra ≠ 0)) ∧
      Gives (.csel f) s f.rd (if s.rp (f.fn.toNat % 8) = f.fn.getLsbD 3 then s.rg f.rb else s.rg f.ra)) ∧
    (∀ (f : AI) (s : State), s.guard f.pn f.pg = true →
      ∃ b : Word, b.toInt = f.imm.toInt ∧ GivesPred (.cmpi f) s f.rd.toNat (condHolds f.fn.toNat (s.rg f.ra) b)))

/-- R194 to R196: a pointer moves within its 57 address bits and keeps format and block; pidx scales by the element's bytes, and in block
formats by whole blocks. R197: pchk of a good pointer changes nothing; a format with a block code that it does not allow is the
reserved-code fault, and a length past the end of the core's own local memory the access fault. -/
def Obligations.PointerResults : Prop :=
  (
    (∀ (f : AR) (s : State), s.guard f.pn f.pg = true →
      let p := s.rg f.ra
      let n := s.rg f.rb
      (∃ x, Gives (.addp f) s f.rd x ∧ x.toNat / 2 ^ 57 = p.toNat / 2 ^ 57 ∧ x.toNat % 2 ^ 57 = (p.toNat + n.toNat) % 2 ^ 57) ∧
      (ptrFmt p ≤ 8 → ∃ x, Gives (.pidx f) s f.rd x ∧ x.toNat / 2 ^ 57 = p.toNat / 2 ^ 57 ∧
        x.toNat % 2 ^ 57 = (p.toNat + n.toNat * (if ptrFmt p = 2 ∨ ptrFmt p = 6 ∨ ptrFmt p = 7 then 2 else
          if ptrFmt p = 3 ∨ ptrFmt p = 8 then 4 else 1)) % 2 ^ 57) ∧
      (ptrFmt p = 13 → n.toInt % 32 = 0 → ∃ x, Gives (.pidx f) s f.rd x ∧ x.toNat / 2 ^ 57 = p.toNat / 2 ^ 57 ∧
        ((x.toNat % 2 ^ 57 : Nat) : Int) = (p.toNat + n.toInt / 32 * 33) % 2 ^ 57) ∧
      (ptrFmt p = 13 → n.toInt % 32 ≠ 0 → s.faultsAtOnce → Faults (.pidx f) s { code := 0x02, addr := p }) ∧
      (ptrFmt p = 15 → s.faultsAtOnce → Faults (.pidx f) s { code := 0x01 })) ∧
    (∀ (f : AI) (s : State), s.guard f.pn f.pg = true →
      ∃ x, Gives (.pfmt f) s f.rd x ∧ x.toNat % 2 ^ 57 = (s.rg f.ra).toNat % 2 ^ 57 ∧ ptrFmt x = f.imm.toNat % 16 ∧
        ptrBlk x = f.imm.toNat / 16 % 8)) ∧
  (
    ∀ (f : AR) (s : State), s.guard f.pn f.pg = true →
      let p := s.rg f.ra
      let n := (s.rg f.rb).toNat
      (fmtBlkOk (ptrFmt p) (ptrBlk p) = true → ptrAddr p < 2 ^ 56 → exec (.pchk f) s = .next s) ∧
      (fmtBlkOk (ptrFmt p) (ptrBlk p) = false → s.faultsAtOnce → Faults (.pchk f) s { code := 0x01 }) ∧
      (fmtBlkOk (ptrFmt p) (ptrBlk p) = true → (s.core s.ctx.core).grant = none → ∀ off < 2 ^ 18, ptrAddr p = 0x1F0 * 2 ^ 48 + off →
        (off + n ≤ 2 ^ 18 → exec (.pchk f) s = .next s) ∧
        (2 ^ 18 < off + n → 0 < n → s.faultsAtOnce → Faults (.pchk f) s { code := 0x03 })))

/-- R198 to R201: where a transfer leads, counted in bundles of 16 bytes within 57 bits; call and jalr leave the return address. -/
def Obligations.Transfers : Prop :=
  (∀ (f : AB) (s : State), s.guard f.pn f.pg = true →
    let dest : Nat := ((s.ctx.pre.pc.toNat + 16 * f.off.toInt) % 2 ^ 57).toNat
    (∃ u, exec (.br f) s = .next u ∧ GoesTo s u dest) ∧
    (condHolds f.cc.toNat (s.rg f.ra) (s.rg f.rb) = true → ∃ u, exec (.bcmp f) s = .next u ∧ GoesTo s u dest) ∧
    (condHolds f.cc.toNat (s.rg f.ra) (s.rg f.rb) = false → exec (.bcmp f) s = .next s) ∧
    (∃ u x, exec (.call f) s = .next u ∧ LinksTo s u dest 15 x ∧ u.ctx.enter = true ∧
      x.toNat = (s.ctx.pre.pc.toNat + 16) % 2 ^ 57) ∧
    (s.rg f.rd = 1 → Gives (.loop f) s f.rd 0) ∧
    (s.rg f.rd ≠ 1 → ∃ u, exec (.loop f) s = .next u ∧ LinksTo s u dest f.rd (s.rg f.rd - 1))) ∧
  (∀ (f : AR) (s : State), s.guard f.pn f.pg = true →
    let p := s.rg f.ra
    (ptrAddr p ≠ 0 → p.toNat % 16 = 0 →
      (∃ u, exec (.jr f) s = .next u ∧ GoesTo s u (ptrAddr p) ∧ u.ctx.enter = true) ∧
      (∃ u x, exec (.jalr f) s = .next u ∧ LinksTo s u (ptrAddr p) f.rd x ∧ u.ctx.enter = true ∧
        x.toNat = (s.ctx.pre.pc.toNat + 16) % 2 ^ 57)) ∧
    (ptrAddr (s.rg 15) ≠ 0 → (s.rg 15).toNat % 16 = 0 → ∃ u, exec (.ret f) s = .next u ∧ GoesTo s u (ptrAddr (s.rg 15))) ∧
    (ptrAddr p ≠ 0 → p.toNat % 16 ≠ 0 → s.faultsAtOnce → Faults (.jr f) s { code := 0x02 } ∧ Faults (.jalr f) s { code := 0x02 }) ∧
    (ptrAddr p = 0 → s.faultsAtOnce → Faults (.jalr f) s { code := 0x03 }))

/-- R204, R372: trap parks the thread with code 0x0F, brk with code 0x14, the immediate and g[RA] in the auxiliary words; brk of a thread
whose slot has DBG set halts it instead, its record names the own core's record queue, and the codes of parks stay as they were. The
halt under DBG: assumption log 57. -/
def Obligations.TrapAndBreak : Prop :=
  ∀ (f : AI) (s : State), s.guard f.pn f.pg = true → s.faultsAtOnce →
    let e : FaultInfo := { code := 0x14, aux0 := f.imm.setWidth 64, aux1 := s.rg f.ra }
    Faults (.trap f) s { code := 0x0F, aux0 := f.imm.setWidth 64, aux1 := s.rg f.ra } ∧
    (s.own.dbgs.contains s.ctx.slot = false → Faults (.brk f) s e) ∧
    (s.own.dbgs.contains s.ctx.slot = true → ∃ u, exec (.brk f) s = .next u ∧ u.ctx.res = .fault e ∧ u.mem = s.mem ∧
      (u.core s.ctx.core).lastCode = (s.core s.ctx.core).lastCode ∧
      (u.core s.ctx.core).waiting = (s.core s.ctx.core).waiting ++ [{ recordOf s.origin e false s.cycle with ftgt := 0 }] ∧
      ∀ t, s.issues t → ∃ t', u.issues t' ∧ t'.st = .halted ∧ t'.g = t.g ∧ t'.pc = t.pc ∧ t'.ftgt = t.ftgt)

/-- R202: the system values, selector by selector. R170, R203: wtsw writes bits 1 to 22 of the status word, and only those; a change of
the chunk scope ends the chunk; a word with a bit set in [63:32] or [29:27], or a reserved scope, is the reserved-code fault. -/
def Obligations.SystemRegisters : Prop :=
  (
    ∀ (f : AI) (s : State), s.guard f.pn f.pg = true → f.imm.toNat ≤ 8 →
      let t := s.ctx.pre
      ∃ x, Gives (.rdsys f) s f.rd x ∧
        (f.imm = 0 → x.getLsbD 0 = true ∧ (∀ i, 1 ≤ i → i < 23 → x.getLsbD i = t.tsw.getLsbD i) ∧
          x.getLsbD 23 = s.gangs.contains (gangOf s.ctx.core) ∧ (t.hs.length < 8 → fld x 24 3 = t.hs.length) ∧
          fld x 30 2 = bindCls t.bind) ∧
        (f.imm = 1 → x = BitVec.ofNat 64 (s.ctx.core + 16384 * s.modid)) ∧ (f.imm = 2 → x = BitVec.ofNat 64 s.ctx.slot) ∧
        (f.imm = 3 → x = BitVec.ofNat 64 s.cycle) ∧
        (f.imm = 4 → ∀ i, x.getLsbD i = (i != 25 && t.bind.getLsbD i)) ∧
        (f.imm = 5 → x = BitVec.ofNat 64 t.root) ∧ (f.imm = 6 → x = BitVec.ofNat 64 t.budget) ∧
        (f.imm = 7 → x = s.own.tags) ∧ (f.imm = 8 → x = BitVec.ofNat 64 t.squash)) ∧
  (
    ∀ (f : AR) (s : State), s.guard f.pn f.pg = true →
      let x := s.rg f.ra
      (x.toNat < 2 ^ 32 → fld x 27 3 = 0 → fld x 19 4 < 8 →
        ∃ u, exec (.wtsw f) s = .next u ∧ OnlyIssuer s u ∧ { u.ctx with ends := s.ctx.ends } = s.ctx ∧
          (u.ctx.ends = true ↔ s.ctx.ends = true ∨ fld x 19 4 ≠ s.ctx.pre.csc) ∧
          ∀ t, s.issues t → ∃ t', u.issues t' ∧ { t' with tsw := t.tsw } = t ∧
            ∀ i, t'.tsw.getLsbD i = (decide (1 ≤ i) && decide (i < 23) && x.getLsbD i)) ∧
      (¬ (x.toNat < 2 ^ 32 ∧ fld x 27 3 = 0 ∧ fld x 19 4 < 8) → s.faultsAtOnce → Faults (.wtsw f) s { code := 0x01 }))

/-- R208, R210, R211, R212: loads of the own local memory, little-endian, seen through the open chunk, whose read lines grow. R98, R206:
an access of local memory that is not aligned to its size is the alignment fault, whatever it would do. -/
def Obligations.LocalLoads : Prop :=
  (
    ∀ (f : AM) (s : State) (off : Nat), s.guard f.pn f.pg = true → f.ord = 0 →
      let pa := localPa s.ctx.core off
      let ready := fun (n : Nat) => LocalAt s (s.ea f n) n off false ∧ s.poisoned pa n = false ∧ s.roomFor pa n true false
      let m := fun (n : Nat) => s.noting pa n true false
      let v := fun (n : Nat) => s.seen pa n
      (∀ n, n = 2 ^ f.sz.toNat → n ≤ 8 → ready n →
        (∃ u x, exec (.ld f) s = .next u ∧ WritesReg (m n) u f.rd x ∧ x.toInt = Int.bmod (v n) (2 ^ (8 * n))) ∧
        (∃ u x, exec (.ldn f) s = .next u ∧ WritesReg (m n) u f.rd x ∧ x.toNat = v n)) ∧
      (ready 64 → ∃ u, exec (.ldv f) s = .next u ∧ WritesV (m 64) u f.rd.toNat (BitVec.ofNat 512 (v 64))) ∧
      (ready 16 → ∃ w u, exec (.ldp f) s = .next u ∧ WritesReg (m 16) w f.rd (BitVec.ofNat 64 (v 16)) ∧
        WritesReg w u (f.rd + 1) (BitVec.ofNat 64 (v 16 / 2 ^ 64))) ∧
      (ready 32 → ∃ u, exec (.lsh f) s = .next u ∧ WritesH (m 32) u f.rd.toNat (BitVec.ofNat 256 (v 32)))) ∧
  (
    ∀ (f : AM) (s : State) (off : Nat), s.guard f.pn f.pg = true → s.faultsAtOnce → off < 2 ^ 18 →
      let bad := fun (n : Nat) => ptrAddr (s.ea f n) = 0x1F0 * 2 ^ 48 + off ∧ off % n ≠ 0
      let e : FaultInfo := { code := 0x02 }
      (∀ n, n = 2 ^ f.sz.toNat → n ≤ 8 → bad n → Faults (.ld f) s e ∧ Faults (.ldn f) s e ∧ Faults (.st f) s e ∧
        Faults (.ldf f) s e ∧ Faults (.ldfk f) s e ∧ Faults (.ste f) s e ∧ Faults (.stf f) s e) ∧
      (bad 64 → Faults (.ldv f) s e ∧ Faults (.stv f) s e) ∧ (bad 16 → Faults (.ldp f) s e ∧ Faults (.stp f) s e) ∧
      (bad 32 → Faults (.lsh f) s e ∧ Faults (.ssh f) s e))

/-- R208, R210, R211, R212, R124: stores to the own local memory: inside a chunk into its buffer, as a step into memory at once; the low
bytes of the register, little-endian, from the effective address up and nowhere else. -/
def Obligations.LocalStores : Prop :=
  ∀ (f : AM) (s : State) (off : Nat), s.guard f.pn f.pg = true → f.ord = 0 →
    let pa := localPa s.ctx.core off
    let cases := fun (i : Instr) (n v : Nat) =>
      LocalAt s (s.ea f n) n off true →
        ((∃ ck, s.cur.chunk = some ck) → s.roomFor pa n false true →
          ∃ u, exec i s = .next u ∧ BuffersStore s u pa (bytesOfNat n v)) ∧
        (s.cur.chunk = none → s.soloBlocks s.ctx.core s.cur.uid s.cur.csc (linesOf pa n) = false →
          ∃ u, exec i s = .next u ∧ StoresAtOnce s u pa (bytesOfNat n v))
    (f.sz.toNat ≤ 3 → cases (.st f) (2 ^ f.sz.toNat) (s.rg f.rd).toNat) ∧
    cases (.stv f) 64 (s.rv f.rd.toNat).toNat ∧
    cases (.stp f) 16 ((s.rg f.rd).toNat + 2 ^ 64 * (s.rg (f.rd + 1)).toNat) ∧
    cases (.ssh f) 32 (s.rh f.rd.toNat).toNat

/-- R213: the fields of a shape register, each at its place in the record; S1 to S3 are read sign-extended; with FN bit 0 the register is
added; other fields do not change. -/
def Obligations.ShapeFields : Prop :=
  ∀ (f : AI) (s : State), s.guard f.pn f.pg = true → ∀ lo w,
    (f.imm.toNat, lo, w) ∈ [(0, 0, 64), (1, 64, 16), (2, 80, 16), (3, 96, 16), (4, 112, 16), (5, 128, 32), (6, 160, 32), (7, 192, 32),
      (8, 224, 16), (9, 64, 64), (10, 128, 64), (11, 192, 64)] →
    (∃ x, Gives (.shget f) s f.rd x ∧ x.toNat % 2 ^ w = (s.rh f.ra.toNat).toNat / 2 ^ lo % 2 ^ w ∧
      (5 ≤ f.imm.toNat → f.imm.toNat ≤ 7 → -2 ^ 31 ≤ x.toInt ∧ x.toInt < 2 ^ 31) ∧
      (f.imm.toNat < 5 ∨ 7 < f.imm.toNat → x.toNat < 2 ^ w)) ∧
    (∃ u x, exec (.shset f) s = .next u ∧ WritesH s u f.rd.toNat x ∧
      (∀ i, i < lo ∨ lo + w ≤ i → x.getLsbD i = (s.rh f.rd.toNat).getLsbD i) ∧
      (f.fn.getLsbD 0 = false → fld x lo w = (s.rg f.ra).toNat % 2 ^ w) ∧
      (f.fn.getLsbD 0 = true → f.imm ≠ 0 → fld x lo w = (fld (s.rh f.rd.toNat) lo w + (s.rg f.ra).toNat) % 2 ^ w))

/-- R219, R220: an atomic of the own local memory within the chunk's scope: the old value, sign-extended, into RD; the new value into the
chunk's buffer and nowhere else; and what the new value is. Assumption log 54. -/
def Obligations.AtomicsInChunk : Prop :=
  ∀ (f : AM) (s : State) (off n : Nat), s.guard f.pn f.pg = true → n = 2 ^ f.sz.toNat → n = 4 ∨ n = 8 → f.sc.toNat ≤ s.ctx.pre.csc →
    let pa := localPa s.ctx.core off
    let old := s.seen pa n
    let b := (s.rg f.rb).toNat % 2 ^ (8 * n)
    let e := (s.rg f.rd).toNat % 2 ^ (8 * n)
    let sg := fun (x : Nat) => Int.bmod x (2 ^ (8 * n))
    (∃ ck, s.cur.chunk = some ck) → s.cur.acc = none → LocalAt s (s.eaAmo f) n off true → s.poisoned pa n = false →
      s.roomFor pa n true false → s.roomFor pa n true true →
    let gives := fun (i : Instr) (new : Nat → Prop) =>
      ∃ u x, exec i s = .next u ∧ u.mem = s.mem ∧ OthersSame s u ∧ IssuerReg s u f.rd x ∧ x.toInt = sg old ∧ new (u.seen pa n) ∧
        ∀ a, a < pa ∨ pa + n ≤ a → Tab.find u.buf a = Tab.find s.buf a
    gives (.amoadd f) (fun z => z = (old + b) % 2 ^ (8 * n)) ∧ gives (.amoand f) (fun z => z = old &&& b) ∧
    gives (.amoor f) (fun z => z = old ||| b) ∧ gives (.amoxor f) (fun z => z = old ^^^ b) ∧
    gives (.amomin f) (fun z => sg z = min (sg old) (sg b)) ∧ gives (.amomax f) (fun z => sg z = max (sg old) (sg b)) ∧
    gives (.amominu f) (fun z => z = min old b) ∧ gives (.amomaxu f) (fun z => z = max old b) ∧
    gives (.amoswap f) (fun z => z = b) ∧ gives (.amocas f) (fun z => z = if old = e then b else old)

/-- R215, R216: the full/empty family on a word of the own local memory: what each reads and writes, what it leaves the word's bit, and
when the thread waits instead, with a park entry; nothing else of memory and of the bits changes. -/
def Obligations.FullEmptyWords : Prop :=
  ∀ (f : AM) (s : State) (off : Nat), s.guard f.pn f.pg = true → f.sz = 3 →
    let pa := localPa s.ctx.core off
    let p := s.ea f 8
    let w := BitVec.ofNat 64 (s.memNat pa 8)
    s.cur.chunk = none → s.cur.acc = none → s.cur.refusals = 0 → 0 < s.own.retry → s.own.parks = [] →
      LocalAt s p 8 off true → s.soloBlocks s.ctx.core s.cur.uid s.cur.csc (linesOf pa 8) = false →
    let fenced := s.fenceClear s.ctx.core s.cur.uid 1 = true
    let bits := fun (u : State) (b : Bool) => ∀ a, u.isFull a = if a = pa then b else s.isFull a
    let puts := fun (u : State) => SameMemBut s u pa 8 ∧ ∀ i < 8, Mem.read u.mem (pa + i) = (bytesOfNat 8 (s.rg f.rd).toNat).getD i 0
    let waits := fun (u : State) (opc : Nat) => IssuerWaits s u (.park pa) ∧ u.mem = s.mem ∧ u.full = s.full ∧
      (u.core s.ctx.core).parks.map (fun q => (q.opc, q.word)) = [(opc, pa)]
    (s.isFull pa = true →
      (∃ u, exec (.ldf f) s = .next u ∧ IssuerReg s u f.rd w ∧ u.mem = s.mem ∧ bits u false) ∧
      (∃ u, exec (.ldfk f) s = .next u ∧ IssuerReg s u f.rd w ∧ u.mem = s.mem ∧ bits u true) ∧
      (fenced → ∃ u, exec (.ste f) s = .next u ∧ waits u 0x5E) ∧
      (∃ u, exec (.fest f) s = .next u ∧ IssuerReg s u f.rd 1 ∧ u.mem = s.mem ∧ bits u true)) ∧
    (s.isFull pa = false →
      (∃ u, exec (.ldf f) s = .next u ∧ waits u 0x5C) ∧ (∃ u, exec (.ldfk f) s = .next u ∧ waits u 0x5D) ∧
      (fenced → ∃ u, exec (.ste f) s = .next u ∧ IssuerReg s u 0 0 ∧ puts u ∧ bits u true) ∧
      (∃ u, exec (.fest f) s = .next u ∧ IssuerReg s u f.rd 0 ∧ u.mem = s.mem ∧ bits u false)) ∧
    (fenced → ∃ u, exec (.stf f) s = .next u ∧ IssuerReg s u 0 0 ∧ puts u ∧ bits u true) ∧
    (fenced → ∃ u, exec (.feset f) s = .next u ∧ IssuerReg s u 0 0 ∧ u.mem = s.mem ∧ bits u ((s.rg f.rd).getLsbD 0))

/-- R224: the tags: tagwait goes on when every bit of its mask is set and tagany when one is, and they wait otherwise; tagff finds the
lowest; tagclr clears the bits of its mask and no others. R225, R227: take of a present inbox register gives its value and empties it,
and no other; of an empty one the thread waits; peek leaves the registers as they are, and reads 0 of an empty one; peek.m gives the
presence bits. -/
def Obligations.TagsAndInboxes : Prop :=
  (
    ∀ (f : AR) (s : State), s.guard f.pn f.pg = true → s.cur.chunk = none →
      let m := s.rg f.ra
      let hit := s.own.tags &&& m
      (hit = m → exec (.tagwait f) s = .next s) ∧
      (hit ≠ m → ∃ u, exec (.tagwait f) s = .next u ∧ OnlyIssuer s u ∧ IssuerWaits s u (.tags m false)) ∧
      (m = 0 ∨ hit ≠ 0 → Gives (.tagany f) s f.rd hit) ∧
      (m ≠ 0 → hit = 0 → ∃ u, exec (.tagany f) s = .next u ∧ OnlyIssuer s u ∧ IssuerWaits s u (.tags m true)) ∧
      (∃ x, Gives (.tagff f) s f.rd x ∧ (hit = 0 → x = 64) ∧
        (hit ≠ 0 → hit.getLsbD x.toNat = true ∧ ∀ i < x.toNat, hit.getLsbD i = false)) ∧
      (∃ u, exec (.tagclr f) s = .next u ∧ { u with cores := s.cores } = s ∧ { u.own with tags := s.own.tags } = s.own ∧
        (∀ d, d ≠ s.ctx.core → u.core d = s.core d) ∧ ∀ i, u.own.tags.getLsbD i = (s.own.tags.getLsbD i && !m.getLsbD i))) ∧
  (
    ∀ (f : AR) (s : State), s.guard f.pn f.pg = true →
      let i := f.fn.toNat % 32
      let box := fun (u : State) (j : Nat) => Tab.find u.own.inbox j
      (∀ v, s.cur.chunk = none → s.cur.acc = none → box s i = some v →
        ∃ u, exec (.take f) s = .next u ∧ IssuerReg s u f.rd v ∧ u.mem = s.mem ∧ OthersSame s u ∧
          ∀ j, box u j = if j = i then none else box s j) ∧
      (s.cur.chunk = none → s.cur.acc = none → box s i = none →
        ∃ u, exec (.take f) s = .next u ∧ OnlyIssuer s u ∧ IssuerWaits s u (.take i)) ∧
      Gives (.peek f) s f.rd ((box s i).getD 0) ∧
      (s.own.inbox.Pairwise (fun a b => a.1 < b.1) → (∀ e ∈ s.own.inbox, e.1 < 32) →
        ∃ x, Gives (.peekM f) s f.rd x ∧ ∀ j, x.getLsbD j = (box s j).isSome))

/-- R130, R228, R230, R233 to R238: post, send, chblk and chunblk to a core that the thread may name, a call placed at it, a task forked,
and the answer to a call, whose link is cleared at once: inside a chunk the effect is held until the chunk commits; of a step it is
released at once, a message to the core that the target word names, or the task at the young end of the own deque, or a message that
is offered to it while the deque holds 256. A core that the thread may not name, and a reply without a link, are the access fault.
R234: join of a record in the own local memory, inside a chunk of scope MODULE or as a step: the count goes down by one and into RD;
memory outside the record is as before; at 0 the record's address is posted to the target (a held effect of the chunk, a message of
the step, which goes to the own core, to be refused there, where the target word has a reserved bit set), and otherwise no post is
made. R244: launch of an aligned record in the own local memory: inside a chunk it is held until the chunk commits; of a step its
pointer goes to the intake at once, with the thread's tenant and class; a record off 64 bytes is the alignment fault. -/
def Obligations.HeldEffects : Prop :=
  (
    ∀ (f : AR) (s : State), s.guard f.pn f.pg = true →
      let w := s.rg f.ra
      let quad := fun n => s.rg (f.rb + BitVec.ofNat 4 n)
      let e : FaultInfo := { code := 0x03 }
      let c := s.ctx.core
      let idx := w.toNat / 2 ^ 20 % 32
      let goes := fun (i : Instr) (eff : Effect) (body : Body) =>
        (s.cur.chunk ≠ none → ∃ u, exec i s = .next u ∧ Holds s u eff id) ∧
        (s.cur.chunk = none → ∃ u, exec i s = .next u ∧ Releases s u (w.toNat % 2 ^ 14) (w.toNat / 2 ^ 14 % 64) body)
      let child := fun (tk : Task) (hint : Nat) => tk.entry = s.rg f.rd ∧ [tk.a0, tk.a1, tk.a2, tk.a3] = [quad 0, quad 1, quad 2, quad 3] ∧
        bindLid tk.bind = bindLid s.cur.bind ∧ bindTen tk.bind = bindTen s.cur.bind ∧ bindSd tk.bind = bindSd s.cur.bind ∧
        bindCls tk.bind = bindCls s.cur.bind ∧ bindHk tk.bind = f.fn.getLsbD 0 ∧ fld tk.bind 14 5 = 0 ∧ fld tk.bind 0 14 = hint ∧
        tk.root = s.cur.root
      (s.targetOk w 25 = true →
        goes (.post f) (.post w (s.rg f.rb) 0x7C) (.post idx (s.rg f.rb) 0x7C w) ∧
        goes (.chblk f) (.chctl w true) (.chctl idx true w) ∧ goes (.chunblk f) (.chctl w false) (.chctl idx false w) ∧
        ∃ tk l, child tk (w.toNat % 2 ^ 14) ∧ l = c + 16384 * s.modid + 1048576 * idx ∧
          goes (.callat f) (.callat w tk l) (.callat tk l w)) ∧
      (s.targetOk w 28 = true → ∃ tk : Task, [tk.a0, tk.a1, tk.a2, tk.a3] = [quad 0, quad 1, quad 2, quad 3] ∧ tk.bind = s.cur.bind ∧
        tk.root = s.cur.root ∧
        goes (.send f) (.send w (quad 0) (quad 1) (quad 2) (quad 3)) (.chan idx tk (w.toNat / 2 ^ 25 % 8) w false)) ∧
      (∃ tk, child tk (c % 2 ^ 14) ∧
        (s.cur.chunk ≠ none → ∃ u, exec (.fork f) s = .next u ∧ Holds s u (.fork tk) id) ∧
        (s.cur.chunk = none → s.own.deque.length < 256 → ∃ u, exec (.fork f) s = .next u ∧ { u with cores := s.cores } = s ∧
          { u.core c with deque := s.own.deque } = s.own ∧ (u.core c).deque = s.own.deque ++ [tk] ∧ ∀ k, k ≠ c → u.core k = s.core k) ∧
        (s.cur.chunk = none → 256 ≤ s.own.deque.length → ∃ u, exec (.fork f) s = .next u ∧ Releases s u c s.modid (.fork tk))) ∧
      (∀ l, s.cur.link = some l →
        (s.cur.chunk ≠ none → ∃ u, exec (.reply f) s = .next u ∧ Holds s u (.reply l w) fun t => { t with link := none }) ∧
        (s.cur.chunk = none → ∃ u, exec (.reply f) s = .next u ∧ u.mem = s.mem ∧ u.cores = s.cores ∧ OthersSame s u ∧
          (∀ t, s.issues t → u.issues { t with link := none }) ∧ ∃ y ∈ u.net, y.dst = l % 16384 ∧ y.dmod = l / 16384 % 64 ∧
            y.body = .post (l / 1048576 % 32) w 0x83 (BitVec.ofNat 64 l))) ∧
      (s.faultsAtOnce →
        (s.targetOk w 25 = false → Faults (.post f) s e ∧ Faults (.chblk f) s e ∧ Faults (.chunblk f) s e ∧ Faults (.callat f) s e) ∧
        (s.targetOk w 28 = false → Faults (.send f) s e) ∧ (s.cur.link = none → Faults (.reply f) s e))) ∧
  (
    ∀ (f : AR) (s : State) (t : Thread) (off : Nat), s.guard f.pn f.pg = true → s.issues t → t.acc = none →
      let pa := localPa s.ctx.core off
      let p := s.rg f.ra
      LocalAt s p 16 off true → s.poisoned pa 16 = false →
        (∀ ck, t.chunk = some ck → 7 ≤ s.ctx.pre.csc → s.roomFor pa 16 true false → s.roomFor pa 16 true true →
          let old := s.seen pa 16
          ∃ u x t' ck', exec (.join f) s = .next u ∧ u.mem = s.mem ∧ OthersSame s u ∧ IssuerReg s u f.rd x ∧
            x.toNat = (old + 2 ^ 64 - 1) % 2 ^ 64 ∧ u.seen pa 16 = old / 2 ^ 64 * 2 ^ 64 + x.toNat ∧ u.issues t' ∧ t'.chunk = some ck' ∧
            (∀ a, a < pa ∨ pa + 16 ≤ a → Tab.find u.buf a = Tab.find s.buf a) ∧
            ck'.held.map (fun h => h.eff) = ck.held.map (fun h => h.eff) ++
              (if x = 0 then [.post (BitVec.ofNat 64 (old / 2 ^ 64)) p 0x81] else [])) ∧
        (t.chunk = none → s.ctx.pre.csc < 7 → s.fenceClear s.ctx.core t.uid 7 = true →
          s.soloBlocks s.ctx.core t.uid s.ctx.pre.csc (linesOf pa 16) = false → s.soloBlocks s.ctx.core t.uid t.csc (linesOf pa 16) = false →
          let old := s.memNat pa 16
          ∃ u x, exec (.join f) s = .next u ∧ OthersSame s u ∧ IssuerReg s u f.rd x ∧ x.toNat = (old + 2 ^ 64 - 1) % 2 ^ 64 ∧
            SameMemBut s u pa 16 ∧ u.memNat pa 16 = old / 2 ^ 64 * 2 ^ 64 + x.toNat ∧
            (x = 0 → Sends s u (if old / 2 ^ 64 < 2 ^ 25 then old / 2 ^ 64 % 2 ^ 14 else s.ctx.core) (.post (old / 2 ^ 84 % 32) p 0x81 (BitVec.ofNat 64 (old / 2 ^ 64)))) ∧
            (x ≠ 0 → ∀ y ∈ u.net, y ∈ s.net ∨ ∃ k v l, y.body = .notice k v l))) ∧
  (
    ∀ (f : AR) (s : State) (off : Nat), s.guard f.pn f.pg = true →
      let p := s.rg f.ra
      ptrAddr p = 0x1F0 * 2 ^ 48 + off → off + 192 ≤ 2 ^ 18 →
        (off % 64 = 0 → s.cur.chunk ≠ none → ∃ u, exec (.launch f) s = .next u ∧ Holds s u (.launch p) id) ∧
        (off % 64 = 0 → s.cur.chunk = none → ∃ u, exec (.launch f) s = .next u ∧
          Releases s u 16384 s.modid (.launch p (bindTen s.cur.bind) (bindCls s.cur.bind) none)) ∧
        (off % 64 ≠ 0 → s.faultsAtOnce → Faults (.launch f) s { code := 0x02 }))

/-- R221, R222, R243: a fence goes on once it is met and waits before that; chunk sets scope and budget for the chunks to come and nothing
else; yield, by itself in its bundle, changes nothing. R223: pref changes no register and no thread. A page whose translation its
first slice holds: no memory and nothing of the hub changes; a line of the own die is in its home slice afterwards, unless the hint
allocates none; a line of another die that the bank does not hold is asked for at its home. An aperture, host memory, and a page that
the walk refuses: nothing changes. A page of device memory that is walked with success: memory and hub as the walk leaves them. R253:
gang changes nothing in its own cycle; from the next cycle the gang of the issuing core is in the mode it names, and every other gang
in the mode it was in; of several cores of a gang the highest decides. The mode of a gang over a grant: assumption log 93. -/
def Obligations.FencesAndModes : Prop :=
  (
    (∀ (f : AM) (s : State), s.guard f.pn f.pg = true → s.cur.chunk = none →
      let met := s.fenceClear s.ctx.core s.cur.uid f.sc.toNat
      (met = true → ∃ u, exec (.fence f) s = .next u ∧ { u with codeLog := s.codeLog, fresh := s.fresh } = s) ∧
      (met = false → ∃ u, exec (.fence f) s = .next u ∧ OnlyIssuer s u ∧ IssuerWaits s u (.fence f.sc.toNat))) ∧
    (∀ (f : AI) (s : State), s.guard f.pn f.pg = true → s.cur.chunk = none →
      let imm := f.imm.toNat
      ∃ u, exec (.chunk f) s = .next u ∧ OnlyIssuer s u ∧ u.ctx = s.ctx ∧ ∀ t, s.issues t → ∃ t', u.issues t' ∧
        { t' with budget := t.budget, tsw := t.tsw } = t ∧
        t'.budget = (if imm / 32 % 2048 = 0 then t.budget else imm / 32 % 2048) ∧
        (imm / 16 % 2 = 0 → t'.tsw = t.tsw) ∧
        (imm / 16 % 2 = 1 → t'.csc = imm % 16 ∧ ∀ i, i < 19 ∨ 23 ≤ i → t'.tsw.getLsbD i = t.tsw.getLsbD i)) ∧
    (∀ (f : AR) (s : State), s.guard f.pn f.pg = true → s.cur.chunk = none → exec (.yield f) s = .next s)) ∧
  (
    ∀ (f : AM) (s : State), s.guard f.pn f.pg = true →
      let va := ptrAddr (s.ea f 1)
      let ten := bindTen s.cur.bind
      let c := s.firstSlice s.ctx.core va
      ∃ u, exec (.pref f) s = .next u ∧ u.threads = s.threads ∧ u.ctx = s.ctx ∧
        (2 ^ 56 ≤ va → u = s) ∧
        (va < 2 ^ 56 → ∀ pa, s.translate s.ctx.core ten va .read = .pa pa → u.mem = s.mem ∧ u.hub = s.hub ∧ (isDevice pa = false → u = s) ∧
          ∀ h, isDevice pa = true → s.homeOf (s.fat (pa / Config.dieBytes) (pa % Config.dieBytes / Config.frameBytes)) pa = some h →
            (pa / Config.dieBytes = c / 4096 → f.hint ≠ 1 → f.hint ≠ 2 → (Tab.find (u.core h).l2 (pa / 64)).isSome = true) ∧
            (pa / Config.dieBytes ≠ c / 4096 → s.bankLine c (pa / 64) = none →
              Sends s u h (.rfill c (pa / 64 * 64) 64 f.hint.toNat 0))) ∧
        (va < 2 ^ 56 → s.translate s.ctx.core ten va .read = .walk →
          (∀ e, s.walkDone c ten va .read = .error e → u = s) ∧
          ∀ w, s.walkDone c ten va .read = .ok w →
            ((∃ pa, w.translate s.ctx.core ten va .read = .pa pa ∧ isDevice pa = true) → u.mem = w.mem ∧ u.hub = w.hub) ∧
            (¬ (∃ pa, w.translate s.ctx.core ten va .read = .pa pa ∧ isDevice pa = true) → u = s))) ∧
  (
    (∀ (f : AI) (s : State), s.guard f.pn f.pg = true → s.cur.chunk = none →
      ∃ u, exec (.gang f) s = .next u ∧ { u with gangsNext := s.gangsNext } = s ∧
        (s.gangsNext.Pairwise (fun a b => a.1 < b.1) → u.gangsNext.Pairwise (fun a b => a.1 < b.1)) ∧
        ∀ c, Tab.find u.gangsNext c = if c = s.ctx.core then some (f.imm == 1) else Tab.find s.gangsNext c) ∧
    (∀ s : State, (∀ y ∈ s.stops, y.2.busy = false) → (∀ y ∈ s.cores, y.2.cmds = []) → (s.cycle + 1) % 1024 ≠ 0 →
      ∀ g, ((∀ y ∈ s.gangsNext, gangOf y.1 ≠ g) → (g ∈ s.advance.gangs ↔ g ∈ s.gangs)) ∧
        (∀ c b, s.gangsNext.Pairwise (fun a b => a.1 < b.1) → Tab.find s.gangsNext c = some b → gangOf c = g →
          (∀ y ∈ s.gangsNext, gangOf y.1 = g → y.1 ≤ c) → (g ∈ s.advance.gangs ↔ b = true))))

/-- R245 to R250: the barrier instructions on a barrier of the own core: initialised with its count; an arrival that is not the last is
counted and gives the sequence of its phase; the last one, where the barrier has no parent, opens the next phase; barwait goes on once
the phase is over; barlink gives the parent; barrd gives both words. No other barrier of the core changes. A barrier above 47 on a
core out of reach: assumption log 88. -/
def Obligations.BarrierResults : Prop :=
  let others := fun (s u : State) (b : Nat) => ∀ j, j ≠ b → u.bar s.ctx.core j = s.bar s.ctx.core j
  (∀ (f : AI) (s : State), s.guard f.pn f.pg = true → s.cur.chunk = none →
    let b := f.imm.toNat % 64
    let x := s.bar s.ctx.core b
    (x.arr = 0 → x.pend = false → ∃ u, exec (.barinit f) s = .next u ∧ u.threads = s.threads ∧ u.mem = s.mem ∧ others s u b ∧
      u.bar s.ctx.core b =
        { x with cnt := f.imm.toNat / 64 % 65536, arr := 0, pend := false, err := false, childs := [], uv := false }) ∧
    (x.arr ≠ 0 ∨ x.pend = true → s.faultsAtOnce → Faults (.barinit f) s { code := 0x03, aux0 := x.stateWord })) ∧
  (∀ (f : AR) (s : State), s.guard f.pn f.pg = true → s.cur.chunk = none → s.cur.acc = none →
    let w := s.rg f.ra
    let b := w.toNat / 2 ^ 20
    let x := s.bar s.ctx.core b
    let own := w.toNat % 2 ^ 14 = s.ctx.core ∧ w.toNat / 2 ^ 14 % 64 = s.modid ∧ b < 48 ∧ s.mayName s.ctx.core = true
    let word := if f.fn.getLsbD 0 then x.linkWord else x.stateWord
    (own → Gives (.barrd f) s f.rd word) ∧
    (own → s.cur.refusals = 0 → 0 < s.own.retry → s.fenceClear s.ctx.core s.cur.uid 1 = true → x.pend = false →
      (x.arr + 1 < x.cnt → ∃ u, exec (.bararr f) s = .next u ∧ IssuerReg s u f.rd (BitVec.ofNat 64 x.seq) ∧ u.mem = s.mem ∧
        others s u b ∧ u.bar s.ctx.core b = { x with arr := x.arr + 1 }) ∧
      (x.arr + 1 = x.cnt → x.uv = false → x.childs = [] → ∃ u, exec (.bararr f) s = .next u ∧
        IssuerReg s u f.rd (BitVec.ofNat 64 x.seq) ∧ others s u b ∧ (u.bar s.ctx.core b).seq = (x.seq + 1) % 65536 ∧
        (u.bar s.ctx.core b).arr = 0 ∧
        ∀ k t q, k < 16 → k ≠ s.ctx.slot → s.thr s.ctx.core k = some t → t.st = .waiting (.bar b q) false →
          q ≠ (x.seq + 1) % 65536 → ∃ t', u.thr s.ctx.core k = some t' ∧ t'.st = .waiting (.bar b q) true)) ∧
    (∀ j q, w = BitVec.ofNat 64 j → s.rg f.rb = BitVec.ofNat 64 q → j < 48 → q < 65536 →
      ((s.bar s.ctx.core j).seq ≠ q → exec (.barwait f) s = .next s) ∧
      ((s.bar s.ctx.core j).seq = q → ∃ u, exec (.barwait f) s = .next u ∧ IssuerWaits s u (.bar j q) ∧ u.mem = s.mem ∧
        others s u j ∧ ∀ i < 16, ((u.bar s.ctx.core j).watch).testBit i =
          (((s.bar s.ctx.core j).watch).testBit i || i == s.ctx.slot))) ∧
    (∀ j, w = BitVec.ofNat 64 j → j < 48 →
      let l := (s.rg f.rb).toNat
      let y := s.bar s.ctx.core j
      l < 2 ^ 21 → l / 2 ^ 14 % 64 < 48 → s.mayName (l % 2 ^ 14) = true → ¬ (l % 2 ^ 14 = s.ctx.core ∧ l / 2 ^ 14 % 64 = j) →
        y.arr = 0 → y.pend = false → ∃ u, exec (.barlink f) s = .next u ∧ u.threads = s.threads ∧ u.mem = s.mem ∧ others s u j ∧
          u.bar s.ctx.core j = { y with uv := l.testBit 20, upCore := l % 2 ^ 14, upBar := l / 2 ^ 14 % 64 }))

/-- R32, R200, R242, R329: exit, and ret and jr to a null address, end a thread without stacked handles: its slot is free and every other
slot as before; where its launch is not known to the hub, memory is as before; a pending reply link is answered 0. A thread with
handles stacked first asks for the unpin of the top one, waits, and takes it off once the unpin is performed. R239, R240: a migration:
the slot is free and the context is in a message to the named core, with its registers, its program counter after the bundle, its
binding, and with migc the basket's bytes; memory is as before. -/
def Obligations.ThreadsLeave : Prop :=
  (
    ∀ (f : AR) (s : State) (t : Thread), s.guard f.pn f.pg = true → s.issues t → t.chunk = none →
      let all := fun (p : Instr → Prop) => p (.exit f) ∧ (ptrAddr (s.rg f.ra) = 0 → p (.jr f)) ∧ (ptrAddr (s.rg 15) = 0 → p (.ret f))
      (t.hs = [] → all fun i => ∃ u, exec i s = .next u ∧ u.ctx.res = .left ∧ u.thr s.ctx.core s.ctx.slot = none ∧
        OthersSame s u ∧ (s.launchOf t.bind = none → u.mem = s.mem) ∧
        ∀ l, t.link = some l → ∃ m ∈ u.net, m.org.uid = t.uid ∧
          m.body = .post (l / 2 ^ 20 % 32) 0 0x83 (BitVec.ofNat 64 l) ∧ m.dst = l % 2 ^ 14) ∧
      (∀ q e, t.hs = q ++ [e] → t.link = none →
        (t.acc = none → s.fenceClear s.ctx.core t.uid 7 = true → s.entryAddr (bindTen t.bind) e.handle ≠ none →
          all fun i => ∃ u, exec i s = .next u ∧ IssuerWaits s u .reply ∧ u.mem = s.mem ∧ OthersSame s u ∧
            ∃ m ∈ u.net, m.body = .handle e.handle 1 ∧ m.dst = s.entryHome (bindTen t.bind) e.handle) ∧
        (∀ a v, t.acc = some a → a.ans = .data v →
          all fun i => ∃ u t', exec i s = .next u ∧ u.ctx.res = .again ∧ u.mem = s.mem ∧ OthersSame s u ∧ u.issues t' ∧ t'.hs = q ∧
            t'.g = t.g ∧ t'.pc = t.pc ∧ t'.tsw = t.tsw))) ∧
  (
    ∀ (f : AR) (s : State) (t : Thread), s.guard f.pn f.pg = true → s.issues t → t.chunk = none → t.hs = [] → t.link = none →
      let w := s.rg f.ra
      let b := s.rg f.rb
      let lm := match s.own.grant with
        | some g => g.lmem
        | none => 0
      let off := b.toNat % 2 ^ 18
      let len := b.toNat / 2 ^ 18
      s.targetOk w 20 = true → s.fenceClear s.ctx.core t.uid (if twMod w = s.modid then scopeBetween s.ctx.core (twCore w) else 9) = true →
      s.own.port.length < 16 →
        let leaves := fun (i : Instr) (bytes : List Byte) => ∃ u, exec i s = .next u ∧ u.ctx.res = .left ∧ u.mem = s.mem ∧
          u.thr s.ctx.core s.ctx.slot = none ∧ OthersSame s u ∧
          ∃ m ∈ u.net, m.dst = w.toNat % 2 ^ 14 ∧ m.dmod = w.toNat / 2 ^ 14 ∧ ∃ c, m.body = .context c ∧ c.g = t.g ∧
            c.pc = s.ctx.next ∧ c.tsw = t.tsw ∧ c.bind = t.bind ∧ c.root = t.root ∧ c.ready = t.ready ∧ c.basket = bytes
        leaves (.mig f) [] ∧
        (len < 2 ^ 15 → 8 ≤ len → len ≤ 16384 → len % 8 = 0 → off % 8 = 0 → off + len ≤ lm → off + len ≤ 2 ^ 18 →
          leaves (.migc f) ((List.range len).map fun i => Mem.read s.mem (localPa s.ctx.core (off + i)))))

/-- R344: what a bid does to the entries of a heap of capacity k, at most 8: it joins a heap that is not full; in a full one it takes the
place of the root when the root ranks worse, and otherwise is turned away with the entries as they were; and no entry of the heap then
ranks worse than its parent, if none did before. R344: hsift on a heap of the own local memory: RD 0 and nothing else when the bid is
turned away; RD 1 and the entries of R344 in memory, the count in the head, when it is admitted; a NaN score counts as minus infinity. -/
def Obligations.HeapSift : Prop :=
  (
    let heap := fun (l : List Word) => ∀ i, 0 < i → i < l.length → bidWorse (l.getD i 0) (l.getD ((i - 1) / 2) 0) = false
    ∀ (k : Nat) (l : List Word) (bid : Word), 1 ≤ k → k ≤ 8 → l.length ≤ k →
      let r := offerBid k l bid
      (l.length < k → r.2 = true ∧ r.1.Perm (bid :: l)) ∧
      (∀ e q, l = e :: q → l.length = k →
        (bidWorse e bid = true → r.2 = true ∧ r.1.Perm (bid :: q)) ∧ (bidWorse e bid = false → r = (l, false))) ∧
      (heap l → heap r.1)) ∧
  (
    ∀ (f : AR) (s : State) (off k n : Nat), s.guard f.pn f.pg = true → HeapAt s (s.rg f.ra) off k n →
      let b := s.rg f.rb
      let pa := localPa s.ctx.core off
      let bid := if scoreNaN (b.toNat % 2 ^ 32) then BitVec.ofNat 64 (b.toNat / 2 ^ 32 * 2 ^ 32 + 0xFF800000) else b
      let r := offerBid k (heapEntries s off n) bid
      (r.2 = false → Gives (.hsift f) s f.rd 0) ∧
      (r.2 = true → s.soloBlocks s.ctx.core s.cur.uid s.cur.csc (linesOf pa (8 + 8 * r.1.length)) = false →
        ∃ u, exec (.hsift f) s = .next u ∧ IssuerReg s u f.rd 1 ∧ OthersSame s u ∧ SameMemBut s u pa (8 + 8 * r.1.length) ∧
          (u.mem64 pa).toNat = k + 256 * r.1.length + (s.mem64 pa).toNat / 2 ^ 32 * 2 ^ 32 ∧ heapEntries u off r.1.length = r.1))

/-- R347, R350: route and rhome take the thread from its slot and send its context with the basket to a routing engine: route to the own
die's, with the transaction of the heap's head, RD, and the experts of the heap best first; rhome to that of the die of the home core,
which it must be allowed to name. R351 to R353: rcommit and rabort ask the routing engine of their die and wait, rcommit with KIND 9;
the engine's answer goes into RD when the bundle reissues; rstat reads the transaction's slot without waiting; a transaction word with
bits above 31, and a count of 0 or above 65,535, is the access fault. Assumption log 59. -/
def Obligations.RoutingInstructions : Prop :=
  (
    ∀ (f : AR) (s : State) (t : Thread), s.guard f.pn f.pg = true → s.issues t → t.chunk = none → t.hs = [] → t.link = none →
      let b := s.rg f.rb
      let w := s.rg f.ra
      basketFits b s.grantedLmem → s.fenceClear s.ctx.core t.uid 9 = true → s.own.port.length < 16 →
        let leaves := fun (i : Instr) (dst : Nat) (body : Context → Body) (p : Routing → Prop) => ∃ u, exec i s = .next u ∧
          u.ctx.res = .left ∧ u.mem = s.mem ∧ u.thr s.ctx.core s.ctx.slot = none ∧ OthersSame s u ∧
          ∃ m ∈ u.net, m.dst = dst ∧ ∃ c r, m.body = body c ∧ c.g = t.g ∧ c.pc = s.ctx.next ∧ c.bind = t.bind ∧ c.root = t.root ∧
            c.basket = (List.range (b.toNat / 2 ^ 18)).map (fun i => Mem.read s.mem (localPa s.ctx.core (b.toNat % 2 ^ 18 + i))) ∧
            c.route = some r ∧ p r
        (∀ off k n, HeapAt s w off k n → leaves (.route f) (16385 + s.ctx.core / 4096) .routeIn fun r =>
          r.rd = f.rd.toNat ∧ r.home = s.ctx.core ∧ r.x.toNat = (s.mem64 (localPa s.ctx.core off)).toNat / 2 ^ 32 ∧
          r.choices.map (·.1) = List.range n ∧
          (r.choices.map (·.2)).Perm ((heapEntries s off n).map fun e => e.toNat / 2 ^ 32)) ∧
        (w.toNat / 2 ^ 14 % 4 = 0 → w.toNat / 2 ^ 28 % 16 = 0 →
          s.targetOk (BitVec.ofNat 64 (w.toNat % 2 ^ 14 + 2 ^ 14 * t.away.getD s.modid)) 20 = true → leaves (.rhome f) (16385 + w.toNat % 2 ^ 14 / 4096) .rrow fun r =>
          r.home = w.toNat % 2 ^ 14 ∧ r.x.toNat = w.toNat / 2 ^ 32)) ∧
  (
    ∀ (f : AR) (s : State), s.guard f.pn f.pg = true → s.cur.chunk = none →
      let x := s.rg f.ra
      let n := (s.rg f.rb).toNat
      let e : FaultInfo := { code := 0x03 }
      let asks := fun (u : State) (b : Body) => u.mem = s.mem ∧ OthersSame s u ∧ ∃ m ∈ u.net, m.body = b ∧ m.dst = 16385 + s.ctx.core / 4096
      let tx := s.txn (s.ctx.core / 4096) (bindTen s.cur.bind) x
      (x.toNat < 2 ^ 32 →
        (1 ≤ n → n ≤ 65535 →
          (s.cur.acc = none → ∃ u, exec (.rcommit f) s = .next u ∧ asks u (.rcommit x n) ∧ IssuerWaits s u (.rcommit x)) ∧
          (∀ a v, s.cur.acc = some a → a.ans = .data v →
            ∃ u, exec (.rcommit f) s = .next u ∧ IssuerReg s u f.rd (BitVec.ofNat 64 v) ∧ u.mem = s.mem ∧ OthersSame s u)) ∧
        (s.cur.acc = none → ∃ u, exec (.rabort f) s = .next u ∧ asks u (.rabort x) ∧ IssuerWaits s u .reply) ∧
        (∀ a v, s.cur.acc = some a → a.ans = .data v →
          ∃ u, exec (.rabort f) s = .next u ∧ IssuerReg s u f.rd (BitVec.ofNat 64 v) ∧ u.mem = s.mem ∧ OthersSame s u) ∧
        (∃ z, Gives (.rstat f) s f.rd z ∧ fld z 0 16 = tx.sent % 65536 ∧
          (tx.ack < 65536 → tx.wait < 65536 → tx.state < 4 → tx.reason < 8 → fld z 16 16 = tx.ack ∧ fld z 32 16 = tx.wait ∧
            fld z 48 2 = tx.state ∧ fld z 50 3 = tx.reason ∧ (z.getLsbD 53 = true ↔ tx.seq = x.toNat / 64 % 2 ^ 26)))) ∧
      (¬ x.toNat < 2 ^ 32 → s.faultsAtOnce → Faults (.rcommit f) s e ∧ Faults (.rabort f) s e ∧ Faults (.rstat f) s e) ∧
      (n = 0 ∨ 65535 < n → s.faultsAtOnce → Faults (.rcommit f) s e))

/-- R327 to R330: the handle instructions, from the answer of the entry's home: spec's request reaches the cluster's folding unit and the
thread waits with KIND 5, and the unit's answer is the new handle; callh stacks the handle and goes to CODE; reth takes the top entry
off and goes to its return address; hrel is done with its answer; hinfo reads the entry; hkeep sends the image to the depot. -/
def Obligations.HandleInstructions : Prop :=
  ∀ (f : AR) (s : State) (t : Thread), s.guard f.pn f.pg = true → s.issues t → t.chunk = none →
    let h := (s.rg f.ra).toNat % 2 ^ 32
    let mask := s.rg f.rb
    let hw := BitVec.ofNat 64 h
    (∀ x, t.foldAns = some (.ok x) → ∃ u, exec (.spec f) s = .next u ∧ IssuerReg s u f.rd x ∧ u.mem = s.mem ∧ OthersSame s u) ∧
    (∀ a v, t.acc = some a → a.ans = .data v →
      (t.foldAns = none → ∃ u q, exec (.spec f) s = .next u ∧ IssuerWaits s u (.fold 0) ∧ u.mem = s.mem ∧
        (u.cluster (s.ctx.core / 16)).folds = (s.cluster (s.ctx.core / 16)).folds ++ [q] ∧ q.handle = hw ∧
        q.em = mask.toNat % 256 ∧ q.ub = mask.toNat / 256 % 2048 ∧
        q.g = (List.range 8).map fun i => s.rg (BitVec.ofNat 4 (i + 1))) ∧
      (t.hs.length < 4 → v % 16 = 0 → v < 2 ^ 57 → ∃ u t', exec (.callh f) s = .next u ∧ u.ctx.next.toNat = v ∧ u.ctx.enter = true ∧
        u.mem = s.mem ∧ OthersSame s u ∧ u.issues t' ∧ t'.g = t.g ∧
        t'.hs = t.hs ++ [{ handle := hw, ret := BitVec.ofNat 64 ((s.ctx.pre.pc.toNat + 16) % 2 ^ 57) }]) ∧
      (∀ e q, t.hs = q ++ [e] → ptrAddr e.ret ≠ 0 → ∃ u t', exec (.reth f) s = .next u ∧ u.ctx.next.toNat = ptrAddr e.ret ∧
        u.mem = s.mem ∧ OthersSame s u ∧ u.issues t' ∧ t'.g = t.g ∧ t'.hs = q) ∧
      (∃ u, exec (.hrel f) s = .next u ∧ IssuerReg s u 0 0 ∧ u.mem = s.mem ∧ OthersSame s u)) ∧
    (4 ≤ t.hs.length → s.faultsAtOnce → Faults (.callh f) s { code := 0x13, aux0 := hw }) ∧
    (t.hs = [] → s.faultsAtOnce → Faults (.reth f) s { code := 0x13 }) ∧
    (t.acc = none → s.fenceClear s.ctx.core t.uid 7 = true → s.entryAddr (bindTen t.bind) hw ≠ none →
      let asks := fun (i : Instr) (op : Nat) (w : Wait) => ∃ u, exec i s = .next u ∧ IssuerWaits s u w ∧ u.mem = s.mem ∧ OthersSame s u ∧
        ∃ m ∈ u.net, m.body = .handle hw op ∧ m.dst = s.entryHome (bindTen t.bind) hw
      (t.foldAns = none → s.specFault hw mask = none → asks (.spec f) 0 (.fold 2)) ∧ (t.hs.length < 4 → asks (.callh f) 0 .reply) ∧
        asks (.hrel f) 2 .reply) ∧
    (∃ z, Gives (.hinfo f) s f.rd z ∧ ∀ a, h % 2 ^ 24 < fld (s.tenantWord (bindTen t.bind) 1) 0 24 →
      a = (s.tenantWord (bindTen t.bind) 0).toNat + 32 * (h % 2 ^ 24) →
      (fld f.fn 0 2 = 1 → z = s.mem64 a) ∧ (fld f.fn 0 2 = 2 → z = s.mem64 (a + 16)) ∧ (fld f.fn 0 2 = 3 → z = s.mem64 (a + 24)) ∧
      (fld f.fn 0 2 = 0 → (z.getLsbD 7 = true ↔ (s.handleValid (bindTen t.bind) hw).isSome = true) ∧
        ∀ i, i ≠ 7 → z.getLsbD i = (s.mem64 (a + 8)).getLsbD i)) ∧
    (∀ a, s.handleValid (bindTen t.bind) hw = some a → fld (s.mem64 (a + 8)) 10 2 ≠ 0 →
      (s.mem64 (a + 8)).getLsbD 4 = false → (s.mem64 (a + 8)).getLsbD 9 = false →
      ∃ u, exec (.hkeep f) s = .next u ∧ u.mem = s.mem ∧ u.threads = s.threads ∧ ∃ m ∈ u.net, m.body = .depot hw ∧ m.dst = 16384)

/-- R356, R357: afetch of an adapter that a slot holds full pins the slot and gives its address (whose place the spec leaves open:
assumption log 5); afetch.rel takes a pin off; an adapter number out of range is the access fault. R115, R216, R357: a shelf slot that
is to be filled gets one fill command on the copy engine of its cluster's core 0; a fill that is done leaves, and the slot's status
word is full, which serves a thread that waits on it, unless the slot has been given to another adapter since. Assumption log 60 and
78; where a slot lies: log 5. -/
def Obligations.Adapters : Prop :=
  (
    ∀ (f : AR) (s : State), s.guard f.pn f.pg = true → s.cur.chunk = none → s.cur.acc = none → s.cur.refusals = 0 →
      s.own.cmds = [] →
      let id := (s.rg f.ra).toNat
      let t := bindTen s.cur.bind
      let cl := s.ctx.core / 16
      let known := id < 16384 ∧ id < fld (s.tenantWord t 6) 0 15
      (∀ i, known → s.slotOf cl t id = some i → s.isFull (s.statusWord cl t i) = true →
        ∃ u, exec (.afetch f) s = .next u ∧ IssuerReg s u f.rd (BitVec.ofNat 64 (s.slotVa cl t i)) ∧ u.mem = s.mem ∧
          OthersSame s u ∧ (u.shelf cl t i).pins = (s.shelf cl t i).pins + 1 ∧ (u.shelf cl t i).adapter = some id) ∧
      (∀ i, known → s.slotOf cl t id = some i → 0 < (s.shelf cl t i).pins →
        ∃ u, exec (.afetchRel f) s = .next u ∧ IssuerReg s u f.rd 0 ∧ u.mem = s.mem ∧ OthersSame s u ∧
          (u.shelf cl t i).pins + 1 = (s.shelf cl t i).pins) ∧
      (¬ known → s.faultsAtOnce → Faults (.afetch f) s { code := 0x03 } ∧ Faults (.afetchRel f) s { code := 0x03 })) ∧
  (
    (∀ (s : State) (cl key : Nat), cl < 1024 → s.fills cl = [] → s.owedFill cl = some key → s.queueFull (16 * cl) 2 0 = false →
      s.coreFrozen (16 * cl) = false →
      ∃ u x, exec (.shelfFill cl) s = .next u ∧ QuietBut s u (16 * cl) ∧ (u.core (16 * cl)).cmds = (s.core (16 * cl)).cmds ++ [x] ∧
        x.eng = .copy ∧ x.instr = .shelfFill cl ∧ x.gs = BitVec.ofNat 64 key ∧ x.done = false ∧ u.owedFill cl ≠ some key) ∧
    (∀ (s : State) (cl : Nat) (x : Cmd), cl < 1024 → (s.fills cl).find? (fun y => y.done) = some x →
      let t := x.gs.toNat / 256
      let i := x.gs.toNat % 256
      let pa := s.statusWord cl t i
      let right := x.pa = (s.fillCmd cl x.gs.toNat).pa
      let ends := fun (u : State) => u.mem = s.mem ∧ (∀ y ∈ (u.core (16 * cl)).cmds, y.id ≠ x.id) ∧ (u.shelf cl t i).filling = false ∧
        (u.shelf cl t i).full = true ∧ (u.shelf cl t i).adapter = (s.shelf cl t i).adapter ∧ u.isFull pa = true ∧ (u.core (16 * cl)).parks = []
      (right → (s.core (16 * cl)).parks = [] → ∃ u, exec (.shelfFillComplete cl) s = .next u ∧ ends u) ∧
      (¬ right → ∃ u, exec (.shelfFillComplete cl) s = .next u ∧ QuietBut s u (16 * cl) ∧ u.clusters = s.clusters ∧
        (u.core (16 * cl)).cmds = (s.core (16 * cl)).cmds.filter fun y => y.id != x.id) ∧
      (∀ p th, right → (s.core (16 * cl)).parks = [p] → p.word = pa → p.opc = 0xA6 → p.org.core = 16 * cl → s.bound p.org = some th →
        ∀ a, th.acc = some a → a.id = p.acc → a.ans = .none →
          ∃ u th', exec (.shelfFillComplete cl) s = .next u ∧ ends u ∧ u.thr p.org.core p.org.slot = some th' ∧
            th'.acc = some { a with ans := .data (s.memNat pa 8) })))

/-- R63, R259, R260: how an integer result is formed from the exact x: scaled by 2^DSC exactly; rounded to an integer by the mode; reduced
into the range of the type, or clamped to it, and clamped at zero. R257, R258, R264 to R266: the elementwise instructions on an
integer lane: the exact results, formed by R259, and the bit patterns of the logical instructions, the shifts, the comparison masks
and the selection; no flag is set. A negated lane: assumption log 35. -/
def Obligations.IntegerLanes : Prop :=
  (
    ∀ (ty rm : Nat) (u : Bool) (x dsc : Int), 1 ≤ ty → ty ≤ 3 → rm ≤ 4 → -4 ≤ dsc → dsc < 4 →
      let w : Nat := 4 * 2 ^ ty
      let lo : Int := if u then 0 else -2 ^ (w - 1)
      let hi : Int := if u then 2 ^ w - 1 else 2 ^ (w - 1) - 1
      let val := fun (p : Nat) => intLane w u false false p
      let res := fun (dcl : Nat) => formResult ty u rm dcl dsc (Val.ofInt x)
      ∃ y : Int,
        (0 ≤ dsc → y = x * 2 ^ dsc.toNat) ∧
        (dsc < 0 → ∀ d e : Int, d = 2 ^ (-dsc).toNat → e = (y * d - x).natAbs →
          e < d ∧ (rm = 1 → y = x.tdiv d) ∧ (rm = 2 → y * d ≤ x) ∧ (rm = 3 → x ≤ y * d) ∧
          (rm = 0 ∨ rm = 4 → 2 * e ≤ d) ∧ (2 * e = d → (rm = 0 → y % 2 = 0) ∧ (rm = 4 → x.natAbs ≤ (y * d).natAbs))) ∧
        (∀ dcl ≤ 2, (res dcl).1 < 2 ^ w ∧ (res dcl).2 = 0) ∧
        ((res 0).1 : Int) = y % 2 ^ w ∧ val (res 1).1 = max lo (min hi y) ∧ val (res 2).1 = max 0 (val (res 0).1)) ∧
  (
    ∀ (f : VF) (rm k a b c : Nat) (gs : Word), 1 ≤ f.ty.toNat → f.ty.toNat ≤ 3 → rm ≤ 4 → f.dcl ≠ 3 →
      let w : Nat := 4 * 2 ^ f.ty.toNat
      a < 2 ^ w → b < 2 ^ w → c < 2 ^ w →
      let A := intLane w f.u f.na f.xa a
      let B := intLane w f.u f.nb f.xb b
      let C := intLane w f.u false false c
      let lane := fun (opc : Nat) => elemOp opc f rm gs k a b c
      let form := fun (x : Int) => formResult f.ty.toNat f.u rm f.dcl.toNat f.dsc.toInt (Val.ofInt x)
      let mask := fun (p : Bool) => ((if p then 2 ^ w - 1 else 0, 0) : Nat × Nat)
      lane 0x01 = form (A + B) ∧ lane 0x02 = form (A - B) ∧ lane 0x03 = form (A * B) ∧ lane 0x04 = form (A * B + C) ∧
      lane 0x05 = form (min A B) ∧ lane 0x06 = form (max A B) ∧
      (∀ i, (lane 0x08).1.testBit i = (a.testBit i && b.testBit i) ∧ (lane 0x09).1.testBit i = (a.testBit i || b.testBit i) ∧
        (lane 0x0A).1.testBit i = (a.testBit i != b.testBit i)) ∧
      (f.dcl = 0 → lane 0x0B = (a * 2 ^ (b % w) % 2 ^ w, 0)) ∧
      lane 0x0C = (a / 2 ^ (b % w), 0) ∧
      ((lane 0x0D).1 : Int) = intLane w false false false a / 2 ^ (b % w) % 2 ^ w ∧
      (f.fn = 0 → lane 0x0E = mask (decide (A = B))) ∧ (f.fn = 1 → lane 0x0E = mask (decide (A ≠ B))) ∧
      (f.fn = 2 → lane 0x0E = mask (decide (A < B))) ∧ (f.fn = 3 → lane 0x0E = mask (decide (A ≤ B))) ∧
      (f.fn = 4 → lane 0x0E = mask (decide (B < A))) ∧ (f.fn = 5 → lane 0x0E = mask (decide (B ≤ A))) ∧
      lane 0x0F = (if c ≠ 0 then a else b, 0) ∧ lane 0x14 = form (gs.toInt + (k : Int)))

/-- R54, R264, R265, R267: floating lanes: a comparison with a NaN is false but for ne and unord, and -0 equals +0; minimum and maximum
choose the number; every NaN result of an arithmetic instruction is the canonical quiet NaN; a signalling NaN sets NV; the logical
instructions and an unmodified vmov move bit patterns. R273, R72: an integer converted to an integer type keeps its value reduced into
the new range, or clamped to it under .sat; a NaN converted to a floating type is the canonical quiet NaN. -/
def Obligations.FloatLanes : Prop :=
  (
    ∀ (f : VF) (rm k a b c : Nat) (gs : Word), 6 ≤ f.ty.toNat → f.ty.toNat ≤ 8 → rm ≤ 4 →
      let w : Nat := if f.ty.toNat = 8 then 32 else 16
      let frac : Nat := if f.ty.toNat = 8 then 23 else if f.ty.toNat = 6 then 7 else 10
      a < 2 ^ w → b < 2 ^ w → c < 2 ^ w →
      let nan := fun (x : Nat) => decide (2 ^ (w - 1) - 2 ^ frac < x % 2 ^ (w - 1))
      let sig := fun (x : Nat) => nan x && !x.testBit (frac - 1)
      let quiet : Nat := 2 ^ (w - 1) - 2 ^ (frac - 1)
      let lane := fun (opc : Nat) => elemOp opc f rm gs k a b c
      let nv := fun (x : Nat × Nat) => x.2.testBit 4
      (nan a = true ∨ nan b = true →
        (∀ opc ∈ [0x01, 0x02, 0x03, 0x04], (lane opc).1 = quiet) ∧
        (lane 0x0E).1 = (if f.fn = 1 ∨ f.fn = 7 then 2 ^ w - 1 else 0)) ∧
      (nan a = true → ∀ opc ∈ [0x20, 0x21, 0x22, 0x23, 0x24, 0x25, 0x26], (lane opc).1 = quiet ∧ nv (lane opc) = sig a) ∧
      (nan a = true → nan b = true → (lane 0x05).1 = quiet ∧ (lane 0x06).1 = quiet) ∧
      (∀ opc ∈ [0x05, 0x06, 0x0E], nv (lane opc) = (sig a || sig b)) ∧
      (nan a = false → a % 2 ^ (w - 1) = 0 → b % 2 ^ (w - 1) = 0 → (lane 0x0E).1 =
        (if f.fn = 0 ∨ f.fn = 3 ∨ f.fn = 5 ∨ f.fn = 6 then 2 ^ w - 1 else 0)) ∧
      (∀ i, (lane 0x08).1.testBit i = (a.testBit i && b.testBit i) ∧ (lane 0x0A).1.testBit i = (a.testBit i != b.testBit i)) ∧
      (f.na = false → f.xa = false → f.dsc = 0 → f.dcl = 0 → lane 0x11 = (a, 0)) ∧
      lane 0x0F = (if c ≠ 0 then a else b, 0)) ∧
  (
    ∀ (f : VF) (rm p : Nat), 1 ≤ f.ty.toNat → rm ≤ 4 → f.dsc = 0 → f.na = false → f.xa = false →
      let st := f.gs.toNat
      let ty := f.ty.toNat
      let w : Nat := 4 * 2 ^ ty
      let v := intLane (4 * 2 ^ st) f.u false false p
      let out := cvtElem f rm (cvtSrc f (elemVal st f.u p))
      (1 ≤ st → st ≤ 3 → ty ≤ 3 → p < 2 ^ (4 * 2 ^ st) → out.2 = 0 ∧
        (f.dcl = 0 → (out.1 : Int) = v % 2 ^ w) ∧
        (f.dcl = 1 → intLane w f.u false false out.1 =
          max (if f.u then 0 else -2 ^ (w - 1)) (min (if f.u then 2 ^ w - 1 else 2 ^ (w - 1) - 1) v))) ∧
      (st = 8 → ty = 6 → p < 2 ^ 32 → 0x7F800000 < p % 2 ^ 31 → out.1 = 0x7FC0) ∧
      (st = 6 → ty = 8 → p < 2 ^ 16 → p % 2 ^ 15 ≤ 0x7F80 → f.dcl = 0 → out = (p * 2 ^ 16, 0)))

/-- R257, R258, R262, R264 to R274: register form: lane i of VD is the instruction's result on lane i of its operands, or on the scalar
where FN bit 0 asks for it, all flags of the lanes are set, and nothing else changes; a rounding mode that R64 forbids is the
reserved-code fault. -/
def Obligations.VectorRegisterForm : Prop :=
  ∀ (f : VF) (s : State), s.guard f.pn f.pg = true → ownVectors f →
    let ty := f.ty.toNat
    let eb := elemBytes ty
    let two := [(Instr.vadd f, 0x01), (.vsub f, 0x02), (.vmul f, 0x03), (.vfma f, 0x04), (.vmin f, 0x05), (.vmax f, 0x06), (.vand f, 0x08),
      (.vor f, 0x09), (.vxor f, 0x0A), (.vshl f, 0x0B), (.vshr f, 0x0C), (.vsar f, 0x0D), (.vsel f, 0x0F)]
    let one := [(Instr.vmov f, 0x11), (.vrcp f, 0x20), (.vrsqrt f, 0x21), (.vexp2 f, 0x22), (.vlog2 f, 0x23), (.vtanh f, 0x24), (.vsigm f, 0x25),
      (.vsqrt f, 0x26), (.vscale f, 0x31), (.vcmp f, 0x0E), (.vsplat f, 0x10), (.viota f, 0x14)]
    let reg := fun (r : Nat) => s.rv r
    let rm := if f.rm = 5 then s.ctx.pre.tsw.toNat / 2 ^ 16 % 8 else f.rm.toNat
    let gives := fun (i : Instr) (res : Nat → Nat × Nat) => ∃ u x fl, exec i s = .next u ∧ WritesVF s u f.vd.toNat x fl ∧
      (∀ n < 64 / eb, laneOf x (8 * eb) n = (res n).1 % 2 ^ (8 * eb)) ∧
      ∀ j < 5, fl.testBit j = (List.range (64 / eb)).any fun n => (res n).2.testBit j
    let opd := fun (scalar : Bool) (n : Nat) => if scalar then (s.rg f.gs).toNat % 2 ^ (8 * eb) else laneOf (reg f.vb.toNat) (8 * eb) n
    let elem := fun (opc : Nat) (scalar : Bool) (n : Nat) =>
      elemOp opc f rm (s.rg f.gs) n (laneOf (reg f.va.toNat) (8 * eb) n) (opd scalar n) (laneOf (reg f.vd.toNat) (8 * eb) n)
    1 ≤ ty → ty ≤ 8 →
      (s.rounds f → (∀ i ∈ two, gives i.1 (elem i.2 (f.fn.getLsbD 0))) ∧ (∀ i ∈ one, gives i.1 (elem i.2 false))) ∧
      (¬ s.rounds f → s.faultsAtOnce → ∀ i ∈ two ++ one, Faults i.1 s { code := 0x01 })

/-- R268, R269, R273: vext, vins, vperm and vcvt in register form. R44, R168, R268, R269: a gang offset on VA outside gang mode is the
reserved-code fault; in gang mode it names the vector register of the thread in the same slot of the core that many places on in the
gang, as it stood at the start of the cycle, and zero where no thread is bound there. R277 to R281: the row operations in register
form: on integers the sum, the largest and the smallest element of the row in lane 0 and zero elsewhere, the running sums, the first
index of the largest element; vsoftmax writes all lanes, a NaN among them making every lane the canonical quiet NaN. -/
def Obligations.LanesAndRows : Prop :=
  (
    ∀ (f : VF) (s : State), s.guard f.pn f.pg = true → f.ga = 0 → f.gb = 0 → f.vd.toNat < 16 → f.va.toNat < 16 →
      let ty := f.ty.toNat
      let eb := elemBytes ty
      let n := 64 / eb
      let lane := fun (r i : Nat) => laneOf (s.rv r) (8 * eb) i
      let L := f.vb.toNat + (if f.fn.getLsbD 0 then 32 else 0)
      let rm := if f.rm = 5 then s.ctx.pre.tsw.toNat / 2 ^ 16 % 8 else f.rm.toNat
      let sb := elemBytes f.gs.toNat
      1 ≤ ty → ty ≤ 8 →
        (L < n → f.fn.toNat < 2 →
          (∃ x, Gives (.vext f) s f.gs x ∧
            (ty ≤ 3 → f.u = false → x.toInt = Int.bmod (lane f.va.toNat L) (2 ^ (8 * eb))) ∧
            (4 ≤ ty ∨ f.u = true → x.toNat = lane f.va.toNat L)) ∧
          (∃ u x, exec (.vins f) s = .next u ∧ WritesVF s u f.vd.toNat x 0 ∧ ∀ i < n, laneOf x (8 * eb) i =
            if i = L then (s.rg f.gs).toNat % 2 ^ (8 * eb) else lane f.vd.toNat i)) ∧
        (f.vb.toNat < 16 → ∃ u x, exec (.vperm f) s = .next u ∧ WritesVF s u f.vd.toNat x 0 ∧ ∀ i < n, laneOf x (8 * eb) i =
          lane f.va.toNat (lane f.vb.toNat i % n)) ∧
        (1 ≤ f.gs.toNat → f.gs.toNat ≤ 8 → s.rounds f → ∃ u x fl, exec (.vcvt f) s = .next u ∧ WritesVF s u f.vd.toNat x fl ∧
          ∀ i < n, laneOf x (8 * eb) i =
            if i < 64 / max sb eb then (cvtElem f rm (cvtSrc f (elemVal f.gs.toNat f.u (laneOf (s.rv f.va.toNat) (8 * sb) i)))).1 % 2 ^ (8 * eb)
            else 0)) ∧
  (
    ∀ (f : VF) (s : State), s.guard f.pn f.pg = true → f.ga ≠ 0 → f.gb = 0 → f.vd.toNat < 16 → 1 ≤ f.ty.toNat → f.ty.toNat ≤ 8 →
      ∀ h : f.va.toNat < 16,
      let c := s.ctx.core
      let eb := elemBytes f.ty.toNat
      let n := 64 / eb
      let L := f.vb.toNat + (if f.fn.getLsbD 0 then 32 else 0)
      let ganged := gangOf c ∈ s.gangs
      let far := Tab.find s.gangV (slotKey (c / 4 * 4 + (c % 4 + f.ga.toNat) % 4) s.ctx.slot)
      let reads := fun (w : VReg) =>
        (L < n → f.fn.toNat < 2 → ∃ x, Gives (.vext f) s f.gs x ∧ x.toNat % 2 ^ (8 * eb) = laneOf w (8 * eb) L) ∧
        (f.vb.toNat < 16 → ∃ u x, exec (.vperm f) s = .next u ∧ WritesVF s u f.vd.toNat x 0 ∧ ∀ i < n, laneOf x (8 * eb) i =
          laneOf w (8 * eb) (laneOf (s.rv f.vb.toNat) (8 * eb) i % n))
      (ganged → ∀ w, far = some w → reads w[f.va.toNat]) ∧ (ganged → far = none → reads 0) ∧
      (¬ ganged → s.faultsAtOnce → ∀ i ∈ [Instr.vext f, .vperm f, .vins f], Faults i s { code := 0x01 })) ∧
  (
    ∀ (f : VF) (s : State), s.guard f.pn f.pg = true → ownVectors f → s.rounds f →
      let ty := f.ty.toNat
      let eb := elemBytes ty
      let w := 8 * eb
      let n := 64 / eb
      let lane := fun (i : Nat) => laneOf (s.rv f.va.toNat) w i
      let X := fun (i : Nat) => intLane w f.u f.na f.xa (lane i)
      let rm := if f.rm = 5 then s.ctx.pre.tsw.toNat / 2 ^ 16 % 8 else f.rm.toNat
      let form := fun (x : Int) => (formResult ty f.u rm f.dcl.toNat f.dsc.toInt (Val.ofInt x)).1
      let sum := fun (k : Nat) => ((List.range k).map X).foldl (fun a x => a + x) 0
      let gives := fun (i : Instr) (P : VReg → Prop) => ∃ u x fl, exec i s = .next u ∧ WritesVF s u f.vd.toNat x fl ∧ P x ∧ (ty ≤ 3 → fl = 0)
      let alone := fun (x : VReg) => x.toNat < 2 ^ 32
      1 ≤ ty → ty ≤ 8 →
        gives (.vredadd f) (fun x => alone x ∧ (ty ≤ 3 → x.toNat = form (sum n))) ∧
        gives (.vredmax f) (fun x => alone x ∧ (ty ≤ 3 → ∃ k < n, (∀ j < n, X j ≤ X k) ∧ x.toNat = form (X k))) ∧
        gives (.vredmin f) (fun x => alone x ∧ (ty ≤ 3 → ∃ k < n, (∀ j < n, X k ≤ X j) ∧ x.toNat = form (X k))) ∧
        gives (.vscan f) (fun x => ty ≤ 3 → ∀ i < n, laneOf x w i = form (sum (if f.fn.getLsbD 0 then i else i + 1))) ∧
        gives (.vargmax f) (fun x => x.toNat < n ∧ (ty ≤ 3 → (∀ j < n, X j ≤ X x.toNat) ∧ ∀ j < x.toNat, X j < X x.toNat)) ∧
        gives (.vsoftmax f) (fun x => ty = 8 → (∃ j < n, 0x7F800000 < lane j % 2 ^ 31) → ∀ i < n, laneOf x w i = 0x7FC00000))

/-- R261, R262, R264 to R267, R273 to R277, R282, R283: shape form: where the operands are regions of the formats and extents of the
instruction's rule, each region passes its checks and the queue has a free entry, the instruction is one command of the vector engine
whose footprints are its regions. Order of the checks: assumption log 33. -/
def Obligations.VectorCommands : Prop :=
  ∀ (f : VF) (s : State), s.guard f.pn f.pg = true → f.ga = 0 → f.gb = 0 → s.rounds f → s.queueFree .vector → 16 ≤ f.vd.toNat →
    let ty := f.ty.toNat
    let d := s.rh (f.vd.toNat - 16)
    let a := s.rh (f.va.toNat - 16)
    let b := s.rh (f.vb.toNat - 16)
    let ha := 16 ≤ f.va.toNat
    let hb := 16 ≤ f.vb.toNat
    let is := fun (h : Shape) (fmt : Nat) => shKind h = 0 ∧ shFmt h = fmt
    let elem := fun (h : Shape) => shKind h = 0 ∧ 1 ≤ shFmt h ∧ shFmt h ≤ 8
    let same := fun (x y : Shape) => shE x 0 = shE y 0 ∧ shE x 1 = shE y 1 ∧ shE x 2 = shE y 2 ∧ shE x 3 = shE y 3
    let cmd := fun (i : Instr) (foots : List (Option Foot)) => ∃ u, exec i s = .next u ∧ Commands s u i .vector f.tag.toNat foots
    let two := [Instr.vadd f, .vsub f, .vmul f, .vfma f, .vmin f, .vmax f, .vand f, .vor f, .vxor f, .vshl f, .vshr f, .vsar f, .vsel f]
    let one := [Instr.vmov f, .vrcp f, .vrsqrt f, .vexp2 f, .vlog2 f, .vtanh f, .vsigm f, .vsqrt f, .vscale f]
    let foot := fun (h : Shape) (wr counted : Bool) (q : Option Foot) => ∃ r, s.region h wr counted false = .ok r ∧ r.foot = q
    1 ≤ ty → ty ≤ 8 →
      (∀ fd fa fb, is d ty → foot d true false fd →
        (ha → is a ty ∧ same a d ∧ foot a false false fa) → (hb → is b ty ∧ same b d ∧ foot b false false fb) →
        (¬ ha → fa = none) → (¬ hb → fb = none) →
          (f.fn.getLsbD 0 = false → ∀ i ∈ two, cmd i [fd, fa, fb]) ∧ (f.fn.getLsbD 0 = true → ∀ i ∈ two, cmd i [fd, fa]) ∧
          cmd (.vcmp f) [fd, fa, fb] ∧ (∀ i ∈ one, cmd i [fd, fa]) ∧ cmd (.vsplat f) [fd] ∧ cmd (.viota f) [fd] ∧
          cmd (.vscan f) [fd, fa] ∧ cmd (.vsoftmax f) [fd, fa]) ∧
      (∀ fd, is d ty → foot d true false fd → f.fn = 0 → cmd (.vfill f) [fd]) ∧
      (∀ fd fa, is d ty → ty ≤ 8 → 1 ≤ f.gs.toNat → f.gs.toNat ≤ 8 → ha → is a f.gs.toNat → same a d → foot d true false fd →
        foot a false false fa → cmd (.vcvt f) [fd, fa]) ∧
      (∀ fd fa fb, is d ty → ha → is a ty → (hb → is b 3 ∧ foot b false false fb) → (¬ hb → fb = none) → foot d true false fd →
        foot a false false fa →
          ((hb → same b d) → cmd (.vgath f) [fd, fa, fb]) ∧ ((hb → same b a) → cmd (.vscat f) [fd, fa, fb])) ∧
      (∀ fd fa, foot d true false fd → (ha → is a ty ∧ foot a false false fa ∧ shE a 1 = shE d 1 ∧ shE a 2 = shE d 2 ∧ shE a 3 = shE d 3) →
        (¬ ha → fa = none) → shE d 0 = 1 →
          (is d ty → ∀ i ∈ [Instr.vredadd f, .vredmax f, .vredmin f], cmd i [fd, fa]) ∧ (is d 3 → cmd (.vargmax f) [fd, fa])) ∧
      (∀ fd fa, is d 3 → ha → is a ty → foot d true true fd → foot a false false fa → shCount a ≤ 2 ^ 31 →
        shE d 1 = 1 → shE d 2 = 1 → shE d 3 = 1 → cmd (.vnz f) [fd, fa]) ∧
      (∀ fd fa fb, is d ty → ha → hb → is a ty → elem b → foot d true true fd → foot a false false fa → foot b false false fb →
        shE a 2 = 1 → shE a 3 = 1 → shE b 0 = 1 → shE b 1 = shE a 1 → shE b 2 = 1 → shE b 3 = 1 →
        shE d 0 = shE a 0 → shE d 2 = 1 → shE d 3 = 1 → cmd (.vcompact f) [fd, fa, fb])

/-- R115, R120, R206: the checks of a region that lies in the own local memory of a core with no grant: its footprint is the bytes from
its lowest to its highest, by its extents and strides; one that leaves the local memory is the footprint fault; a reserved field is
the reserved-code fault; an empty one has no footprint. R77, R78, R287, R290, R291: the checks of mma on operands in the own core's
memories: the three regions are checked first, and the first that fails gives its fault's code; then, with the rules of the
accumulator region met, sources in the own local memory, an allowed pairing of formats, matching extents and whole blocks pass, with
the three regions' footprints; otherwise the first failing rule gives its fault's code. R115, R120, R289, R290: an accumulator region:
its reserved fields, and its bytes from the lowest to the highest, which must lie in the store, are checked as those of any region;
then its format and anchor, its space, its alignment and its upper extents, each with its fault's code. The order of several failures,
and DM 2 and 3 on a source: assumption log 33 and 71. -/
def Obligations.CommandChecks : Prop :=
  (
    ∀ (s : State) (h : Shape) (off : Nat) (wr : Bool), off < 2 ^ 18 → ptrAddr (shBase h) = 0x1F0 * 2 ^ 48 + off →
      (s.core s.ctx.core).grant = none → 1 ≤ shFmt h → shFmt h ≤ 8 →
      let eb := elemBytes (shFmt h)
      let legal := shBlk h = 0 ∧ shKind h = 0 ∧ h.toNat / 2 ^ 240 = 0 ∧ h.toNat / 2 ^ 226 % 4 = 0 ∧ h.toNat / 2 ^ 230 % 2 ^ 10 = 0
      let d := fun (n : Nat) => ((shE h n : Int) - 1) * shS h n
      let lo : Int := (off : Int) + min 0 (d 1) + min 0 (d 2) + min 0 (d 3)
      let hi : Int := (off : Int) + ((shE h 0 * eb : Nat) : Int) - 1 + max 0 (d 1) + max 0 (d 2) + max 0 (d 3)
      let empty := shE h 0 * shE h 1 * shE h 2 * shE h 3 = 0
      (shKind h ≠ 0 ∨ h.toNat / 2 ^ 240 ≠ 0 ∨ h.toNat / 2 ^ 231 % 2 ^ 9 ≠ 0 → s.region h wr false false = .error 0x01) ∧
      (legal → empty → ∃ r, s.region h wr false false = .ok r ∧ r.foot = none) ∧
      (legal → ¬ empty → lo < 0 ∨ 2 ^ 18 ≤ hi → s.region h wr false false = .error 0x11) ∧
      (legal → ¬ empty → 0 ≤ lo → hi < 2 ^ 18 → ∃ r f, s.region h wr false false = .ok r ∧ r.foot = some f ∧ f.core = s.ctx.core ∧
        (f.lo : Int) = lo ∧ (f.hi : Int) = hi ∧ f.wr = wr)) ∧
  (
    ∀ (s : State) (hc ha hb : Shape) (u : Bool),
      let c := s.ctx.core
      let ten := bindTen s.cur.bind
      let chk := s.mmaCheck hc ha hb none u false
      let f32 := fun (x : Nat) => x = 6 ∨ x = 7
      let int := fun (x : Nat) => x = 1 ∨ x = 4 ∨ x = 5 ∨ (9 ≤ x ∧ x ≤ 14)
      let af := hc.toNat / 2 ^ 228 % 4
      let pairs := if af = 2 then f32 (shFmt ha) ∧ f32 (shFmt hb) else int (shFmt ha) ∧ int (shFmt hb)
      let whole := fun (h : Shape) => shE h 0 % (if 9 ≤ shFmt h ∧ shFmt h ≤ 14 then 2 ^ shBlk h else 1) = 0
      let flat := fun (h : Shape) => shE h 2 = 1 ∧ shE h 3 = 1
      let base := fun (h : Shape) => s.region h false false false
      let own := fun (r : Reg) => ∃ o, r.sp = .loc c o
      let acc := s.accRegion c ten hc true
      (∀ e, acc = .error e → chk = .error e) ∧
      (∀ rc e, acc = .ok rc → base ha = .error e → chk = .error e) ∧
      (∀ rc ra e, acc = .ok rc → base ha = .ok ra → base hb = .error e → chk = .error e) ∧
      (∀ rc ra rb, acc = .ok rc → base ha = .ok ra → base hb = .ok rb →
        (∀ e, accRule c hc rc false = .error e → chk = .error e) ∧
        (∀ o, accRule c hc rc false = .ok o →
          (¬ own ra ∨ ¬ own rb → chk = .error 0x03) ∧
          (own ra → own rb →
            (¬ pairs → chk = .error 0x01) ∧ (pairs → u = true → shFmt ha ≠ 1 → shFmt hb ≠ 1 → chk = .error 0x01) ∧
            (pairs → (u = true → shFmt ha = 1 ∨ shFmt hb = 1) →
              (flat ha → flat hb → shE hc 1 = shE ha 1 → shE hc 0 = shE hb 1 → shE ha 0 = shE hb 0 → whole ha → whole hb →
                ∃ r, chk = .ok r ∧ r.foots = [rc.foot, ra.foot, rb.foot, none]) ∧
              (¬ flat ha ∨ ¬ flat hb ∨ shE hc 1 ≠ shE ha 1 ∨ shE hc 0 ≠ shE hb 1 ∨ shE ha 0 ≠ shE hb 0 ∨ ¬ whole ha ∨ ¬ whole hb →
                chk = .error 0x11)))))) ∧
  (
    ∀ (s : State) (h : Shape) (off : Nat) (wr : Bool),
      let c := s.ctx.core
      let r := s.accRegion c (bindTen s.cur.bind) h wr
      let rule := fun (g : Reg) => accRule c h g false
      let af := h.toNat / 2 ^ 228 % 4
      let z := if af = 0 then 2 else 4
      let fmt := if af = 0 then 2 else if af = 1 then 3 else 8
      let fields := shKind h = 1 ∧ h.toNat / 2 ^ 240 = 0 ∧ h.toNat / 2 ^ 226 % 4 = 0 ∧ af < 3 ∧ shBlk h = 0 ∧ 1 ≤ shFmt h ∧ shFmt h ≤ 8
      let legal := shFmt h = fmt ∧ (af = 2 → h.toNat / 2 ^ 230 % 2 ^ 10 = 0)
      let d := fun (n : Nat) => ((shE h n : Int) - 1) * shS h n
      let lo : Int := (off : Int) + min 0 (d 1) + min 0 (d 2) + min 0 (d 3)
      let hi : Int := (off : Int) + ((shE h 0 * z : Nat) : Int) - 1 + max 0 (d 1) + max 0 (d 2) + max 0 (d 3)
      let empty := shE h 0 * shE h 1 * shE h 2 * shE h 3 = 0
      (shKind h ≠ 1 ∨ h.toNat / 2 ^ 240 ≠ 0 ∨ h.toNat / 2 ^ 226 % 4 ≠ 0 ∨ af = 3 → r = .error 0x01) ∧
      (fields → ptrAddr (shBase h) = 0x1F1 * 2 ^ 48 + off → off < 2 ^ 17 →
        (empty → r = .ok { sp := .acc c off }) ∧
        (¬ empty → lo < 0 ∨ 2 ^ 17 ≤ hi → r = .error 0x11) ∧
        (¬ empty → 0 ≤ lo → hi < 2 ^ 17 → ∃ f : Foot, r = .ok { sp := .acc c off, foot := some f } ∧ f.core = c ∧ (f.lo : Int) = lo ∧
          (f.hi : Int) = hi ∧ f.wr = wr)) ∧
      (∀ g : Reg,
        (¬ legal → rule g = .error 0x01) ∧
        (legal → (∀ o, g.sp ≠ .acc c o) → rule g = .error 0x03) ∧
        (legal → g.sp = .acc c off →
          (off % z ≠ 0 ∨ shS h 1 % z ≠ 0 → rule g = .error 0x02) ∧
          (off % z = 0 → shS h 1 % z = 0 →
            (shE h 2 ≠ 1 ∨ shE h 3 ≠ 1 → rule g = .error 0x11) ∧ (shE h 2 = 1 → shE h 3 = 1 → rule g = .ok off)))))

/-- R291, R296, R298: mma, mmar and mseg whose operands pass the checks of R290 and R291 (on the core that runs them) are one command of
the matrix engine: mma with those footprints; mmar, whose target core the thread may name, with none of its own core; mseg with the
read footprint of its segment table besides; a target that may not be named, and a segment table off 16 bytes, are faults. Order of
the checks: assumption log 33. -/
def Obligations.MatrixMultiplies : Prop :=
  ∀ (f : VF) (s : State), s.guard f.pn f.pg = true → s.queueFree .matrix →
    let c := s.ctx.core
    let hd := s.rh (f.vd.toNat - 16)
    let ha := s.rh (f.va.toNat - 16)
    let hb := if 16 ≤ f.vb.toNat then s.rh (f.vb.toNat - 16) else 0
    let latched := f.fn.getLsbD 1 = true
    let from_ := if f.fn.getLsbD 1 then some f.vb.toNat else none
    let p := s.rg f.gs
    let target := p.toNat % 2 ^ 14
    let cmd := fun (i : Instr) (foots : List (Option Foot)) => ∃ u, exec i s = .next u ∧ Commands s u i .matrix f.tag.toNat foots
    16 ≤ f.vd.toNat → 16 ≤ f.va.toNat → (latched → f.vb.toNat < 2) → (¬ latched → 16 ≤ f.vb.toNat) →
      (∀ r, s.mmaCheck hd ha hb from_ f.u false = .ok r → cmd (.mma f) r.foots) ∧
      (∀ e, s.mmaCheck hd ha hb from_ f.u false = .error e → s.faultsAtOnce → Faults (.mma f) s { code := e }) ∧
      (p.toNat / 2 ^ 48 = 0 → p.toNat / 2 ^ 14 % 4 = 0 →
        (s.mayName target = true → ∀ r q, s.mmaRegions target (bindTen s.cur.bind) hd ha hb (!f.fn.getLsbD 1) false = .ok r →
          mmaRules target hd ha hb r from_ f.u true = .ok q → cmd (.mmar f) []) ∧
        (s.mayName target = false → ∀ r, s.mmaRegions c (bindTen s.cur.bind) hd ha hb (!f.fn.getLsbD 1) false = .ok r →
          s.faultsAtOnce → Faults (.mmar f) s { code := 0x03 })) ∧
      (¬ latched → ∀ r, s.mmaCheck hd ha hb none f.u true = .ok r →
        ∀ off, ptrAddr p = 0x1F0 * 2 ^ 48 + off →
          (off + 4112 ≤ 2 ^ 18 → off % 16 = 0 → ∃ q : Foot, cmd (.mseg f) (r.foots ++ [some q]) ∧ q.core = c ∧ q.lo = off ∧
            q.hi = off + 4111 ∧ q.wr = false) ∧
          (off < 2 ^ 18 → off % 16 ≠ 0 → s.faultsAtOnce → Faults (.mseg f) s { code := 0x02 }))

/-- R293 to R295, R299 to R301: the other commands of the matrix engine and its latches, each of which is one command under its tag with
its regions, its word or its latch as footprints. R304 to R309: a copy command whose regions agree in format, extents and whole groups
is one command of the copy engine; a remote copy has the footprint of its local side alone, and naming its own module is the access
fault. Corners of the copy family and of manchor: assumption log 34, 37 and 71. -/
def Obligations.EngineCommands : Prop :=
  (
    ∀ (f : VF) (s : State), s.guard f.pn f.pg = true → s.queueFree .matrix →
      let c := s.ctx.core
      let ten := bindTen s.cur.bind
      let hd := s.rh (f.vd.toNat - 16)
      let ha := s.rh (f.va.toNat - 16)
      let hb := s.rh (f.vb.toNat - 16)
      let p := s.rg f.gs
      let cmd := fun (i : Instr) (e : Engine) (foots : List (Option Foot)) =>
        ∃ u, exec i s = .next u ∧ Commands s u i e f.tag.toNat foots
      let latch := fun (n : Nat) (q : Foot) => q.core = c ∧ q.lo = n ∧ q.hi = n ∧ q.wr = true
      let inOwn := fun (r : Reg) => ∃ o, r.sp = .loc c o
      let fmts := fun (x : Nat) => x = 1 ∨ x = 4 ∨ x = 5 ∨ (9 ≤ x ∧ x ≤ 14)
      let len := fun (h : Shape) => if 9 ≤ shFmt h ∧ shFmt h ≤ 14 then 2 ^ shBlk h else 1
      let whole := fun (h : Shape) => shE h 0 % len h = 0
      let same := shE ha 0 = shE hd 0 ∧ shE ha 1 = shE hd 1 ∧ shE ha 2 = shE hd 2 ∧ shE ha 3 = shE hd 3
      (16 ≤ f.va.toNat → 16 ≤ f.vb.toNat → fmts (shFmt ha) → fmts (shFmt hb) → (f.u = true → shFmt ha = 1 ∨ shFmt hb = 1) →
        ∀ ra rb off, s.region ha false false false = .ok ra → s.region hb false false false = .ok rb → inOwn ra → inOwn rb →
          whole ha → whole hb → ptrAddr p = 0x1F0 * 2 ^ 48 + off → off % 8 = 0 → off + 8 ≤ 2 ^ 18 →
            ∃ q : Foot, cmd (.manchor f) .matrix [ra.foot, rb.foot, some q] ∧ q.core = c ∧ q.lo = off ∧ q.hi = off + 7 ∧ q.wr = true) ∧
      (s.rounds f → 16 ≤ f.vd.toNat → 16 ≤ f.va.toNat → shKind ha = 1 → shKind hd = 0 → shFmt hd = f.ty.toNat → same →
        ∀ o ra rd, s.accRegion c ten ha (f.fn.getLsbD 1) = .ok ra → accRule c ha ra false = .ok o → s.region hd true false false = .ok rd →
          (f.fn.getLsbD 0 = false ∨ f.vb.toNat < 16 → cmd (.macc f) .matrix [ra.foot, rd.foot, none]) ∧
          (∀ rb, f.fn.getLsbD 0 = true → 16 ≤ f.vb.toNat → shKind hb = 0 → 1 ≤ shFmt hb → shFmt hb ≤ 8 →
            s.region hb false false false = .ok rb → shE hb 0 = shE ha 0 → shE hb 1 = 1 → shE hb 2 = 1 → shE hb 3 = 1 →
              cmd (.macc f) .matrix [ra.foot, rd.foot, rb.foot])) ∧
      (16 ≤ f.vd.toNat → ∀ o rc, s.accRegion c ten hd true = .ok rc → accRule c hd rc false = .ok o → cmd (.mclr f) .matrix [rc.foot]) ∧
      (f.vd.toNat < 2 → 16 ≤ f.va.toNat → (fmts (shFmt ha) ∨ shFmt ha = 6 ∨ shFmt ha = 7) →
        ∀ r, s.region ha false false false = .ok r → inOwn r → shE ha 2 = 1 → shE ha 3 = 1 → whole ha →
          (shE ha 0 ≤ 256 → shE ha 1 ≤ 24 → shE ha 0 / len ha * shUnit ha * shE ha 1 ≤ 12288 →
            ∃ q : Foot, cmd (.mld f) .latch [r.foot, some q] ∧ latch f.vd.toNat q) ∧
          (256 < shE ha 0 ∨ 24 < shE ha 1 → s.faultsAtOnce → Faults (.mld f) s { code := 0x11 })) ∧
      (f.va.toNat < 2 →
        (s.mayName (c / 16 * 16 + (c + 1) % 16) = true → ∃ q : Foot, cmd (.mrot f) .latch [some q] ∧ latch f.va.toNat q) ∧
        (s.mayName (c / 16 * 16 + (c + 1) % 16) = false → s.faultsAtOnce → Faults (.mrot f) s { code := 0x03 }) ∧
        (∃ q : Foot, cmd (.mrotDrop f) .latch [some q] ∧ latch f.va.toNat q))) ∧
  (
    ∀ (f : VF) (s : State), s.guard f.pn f.pg = true → s.queueFree .copy → 16 ≤ f.vd.toNat → 16 ≤ f.va.toNat →
      let hd := s.rh (f.vd.toNat - 16)
      let ha := s.rh (f.va.toNat - 16)
      let hb := s.rh (f.vb.toNat - 16)
      let w := s.rg f.gs
      let cmd := fun (i : Instr) (foots : List (Option Foot)) => ∃ u, exec i s = .next u ∧ Commands s u i .copy f.tag.toNat foots
      let kind := fun (h : Shape) => shKind h = 0 ∧ shFmt h ≠ 15
      let whole := fun (h : Shape) => shE h 0 % (if 9 ≤ shFmt h ∧ shFmt h ≤ 14 then 2 ^ shBlk h else 1) = 0
      let same := shE hd 0 = shE ha 0 ∧ shE hd 1 = shE ha 1 ∧ shE hd 2 = shE ha 2 ∧ shE hd 3 = shE ha 3
      let flat := fun (h : Shape) => shE h 2 = 1 ∧ shE h 3 = 1
      let dur := fun (h : Shape) => ptrAddr (shBase h) / 2 ^ 48 = 0x1F8
      let peer := fun (h : Shape) => ptrAddr (shBase h) < 2 ^ 56 ∨ ptrAddr (shBase h) / 2 ^ 48 = 0x1F2
      (kind hd → kind ha → shFmt hd = shFmt ha → shBlk hd = shBlk ha → whole hd → whole ha →
        (∀ rd ra, same → s.region hd true false false = .ok rd → s.region ha false false false = .ok ra → cmd (.cp f) [rd.foot, ra.foot]) ∧
        (∀ ra fb fp, s.region ha false false false = .ok ra →
          (16 ≤ f.vb.toNat → kind hb ∧ shFmt hb = 3 ∧ flat hb ∧ shE hb 1 = 1 ∧
            ∃ rb, s.region hb false false false = .ok rb ∧ rb.foot = fb) → (f.vb.toNat < 16 → fb = none) →
          (f.gs = 0 → fp = none) → (f.gs ≠ 0 → ∃ off q, ptrAddr w = 0x1F0 * 2 ^ 48 + off ∧ off % 8 = 0 ∧ off + 8 ≤ 2 ^ 18 ∧
            fp = some q ∧ q = { space := 1, core := s.ctx.core, lo := off, hi := off + 7, wr := false }) →
          shE hd 0 = shE ha 0 → flat hd → flat ha → ∀ rd,
            (s.region hd true true false = .ok rd → cmd (.cpg f) [rd.foot, ra.foot, fb, fp]) ∧
            (shDm hd < 2 → s.region (setFld (setFld hd 230 1 0) 226 2 0) true false false = .ok rd →
              cmd (.cps f) [rd.foot, ra.foot, fb, fp])) ∧
        (w.toNat < 64 → w.toNat ≠ s.modid → same →
          (∀ r, peer hd → shLegal hd true false = true → s.region ha false false false = .ok r → cmd (.cpr f) [r.foot]) ∧
          (∀ r, peer ha → shLegal ha false false = true → s.region hd true false false = .ok r → cmd (.cprPull f) [r.foot])) ∧
        (64 ≤ w.toNat ∨ w.toNat = s.modid → s.faultsAtOnce →
          (∀ r, shLegal hd true false = true → s.region ha false false false = .ok r → Faults (.cpr f) s { code := 0x03 }) ∧
          (∀ r, shLegal ha false false = true → s.region hd true false false = .ok r → Faults (.cprPull f) s { code := 0x03 })) ∧
        (∀ rd ra, (dur hd ↔ ¬ dur ha) → same → durAligned (if dur hd then hd else ha) = true → s.region hd true false true = .ok rd →
          s.region ha false false true = .ok ra → cmd (.cpdur f) [rd.foot, ra.foot]) ∧
        (∀ rd ra, (dur hd ↔ dur ha) → s.region hd true false true = .ok rd → s.region ha false false true = .ok ra → s.faultsAtOnce →
          Faults (.cpdur f) s { code := 0x03 })) ∧
      (∀ rd, shKind hd = 0 → shFmt hd ≤ 8 → s.region hd true false false = .ok rd → cmd (.cpfill f) [rd.foot]))

/-- R84, R85, R87: the scale of an accumulator element is exact: while the lean is not LOST, the stored value, the lean's 2^W and the
terms in the pans add up to the same number before and after a cycle of a lane, with the term that arrived; a released term alone
likewise; LOST stays LOST; the pans never hold more than four terms of a sign. -/
def Obligations.ExactScale : Prop :=
  ∀ (w : Nat) (n : Int) (l : Lean), 2 ≤ w → -(2 ^ (w - 1) : Int) ≤ n → n < 2 ^ (w - 1) →
    let fits := fun (x : Int) => -(2 ^ (w - 1) : Int) ≤ x ∧ x < 2 ^ (w - 1)
    let sum := fun (t : List Int) => t.foldl (fun a x => a + x) 0
    (∀ x, fits x →
      let r := releaseTerm w n l x
      fits r.1 ∧ (l = .lost → r.2 = .lost) ∧ (r.2 ≠ .lost → r.1 + r.2.num * 2 ^ w = n + l.num * 2 ^ w + x)) ∧
    (∀ (ended : Bool) (p : Lane) (t : Int), fits t → (∀ x ∈ p.pos, 0 < x ∧ fits x) → (∀ x ∈ p.neg, x < 0 ∧ fits x) →
      p.pos.length ≤ 4 → p.neg.length ≤ 4 →
      let r := laneCycle w ended p n l t
      fits r.2.1 ∧ r.1.pos.length ≤ 4 ∧ r.1.neg.length ≤ 4 ∧ (l = .lost → r.2.2 = .lost) ∧
      (r.2.2 ≠ .lost →
        r.2.1 + r.2.2.num * 2 ^ w + sum r.1.pos + sum r.1.neg = n + l.num * 2 ^ w + sum p.pos + sum p.neg + t))

/-- R26, R27, R29, R31, R39, R40, R459: a thread whose event has come re-enters the rotation, no earlier than 8 cycles after its last
issue; a free slot binds the first of the frames, the remote calls and the newest entry of the deque while no source has been passed
over 8 times, and nothing without a free slot; a thread parks or halts at its boundary. R41, R42: a core with a free slot and no work
of its own probes its next victim; the victim hands over its oldest entry to a thief in scope, or answers that it does not; the thief
binds the entry, or takes it into its deque (the model's choice: assumption log 18), goes on to its next victim, or waits 64 cycles
and begins again. R36, R46, R379, R380: the intake takes up a launch's next root, which waits to walk; the root's walk, while no root
is served before it, places it on the core that the walk finds, with its arguments as they stand then (null where its record names
none) and the root's start registers; a root that waits is walked again when its time has come; with all roots finished the launch is
complete, and its word is written when it has one. The slot that is taken, the victim that is asked and a new thread's key are the
model's choice: assumption log 17, 18, 64 and 65; the tenant record by which the hub walks: log 77; a grant that an away token keeps:
log 86. -/
def Obligations.SchedulerEvents : Prop :=
  (
    (∀ (s : State) (c k : Nat) (t : Thread) (w : Wait), s.thr c k = some t → t.st = .waiting w true →
      (t.ready ≤ s.cycle → ∃ u t', exec (.rotationReentry c k) s = .next u ∧ SlotOnly s u c k ∧ u.thr c k = some t' ∧
        t'.st = .runnable ∧ { t' with st := t.st, key := t.key, w0 := t.w0 } = t ∧ fld t'.w0 0 4 = 0) ∧
      (s.cycle < t.ready → exec (.rotationReentry c k) s = .next s)) ∧
    (∀ (s : State) (c k : Nat), s.isOffice c = false → (s.core c).grant = none → s.freeSlot c = some k →
      let q := s.core c
      let binds := fun (P : Thread → Prop) (d : List Task) (r : List (Task × Option Nat)) (f : List Context) =>
        ∃ u t, exec (.schedulerBind c) s = .next u ∧ u.mem = s.mem ∧ u.thr c k = some t ∧ P t ∧
          (u.core c).deque = d ∧ (u.core c).remote = r ∧ (u.core c).frames = f ∧
          ∀ key, key ≠ slotKey c k → Tab.find u.threads key = Tab.find s.threads key
      let starts := fun (t : Task) (l : Option Nat) (x : Thread) => x.st = .runnable ∧ x.pc = t.entry ∧ x.bind = t.bind ∧ x.root = t.root ∧
        x.link = l ∧ x.tsw = 0x188000 ∧ ∀ r, x.reg r = if r = 1 then t.a0 else if r = 2 then t.a1 else if r = 3 then t.a2 else
          if r = 4 then t.a3 else if r = 14 then
            BitVec.ofNat 64 (0x01F0000000000000 + (s.launchRec t.bind).lmem - (s.launchRec t.bind).sstk * k) else 0
      let plain := fun (t : Task) => s.launchOf t.bind = none ∧ bindHk t.bind = false ∧ t.argFault = none
      q.chans = [] → q.skips.1 < 8 → q.skips.2.1 < 8 → q.skips.2.2 < 8 →
        (∀ x r, q.frames = x :: r → s.launchOf x.bind = none → x.route = none → x.fault = none →
          binds (fun t => t.st = .runnable ∧ t.g = x.g ∧ t.pc = x.pc ∧ t.tsw = x.tsw ∧ t.bind = x.bind ∧ t.uid = x.uid) q.deque q.remote r) ∧
        (∀ t l r, q.frames = [] → q.remote = (t, l) :: r → plain t → binds (starts t l) q.deque r []) ∧
        (∀ t r, q.frames = [] → q.remote = [] → q.deque = r ++ [t] → plain t → binds (starts t none) r [] [])) ∧
    (∀ (s : State) (c : Nat), s.freeSlot c = none → exec (.schedulerBind c) s = .next s) ∧
    (∀ (s : State) (c k : Nat) (t : Thread), s.thr c k = some t → t.st = .runnable → t.chunk = none → t.acc = none → t.foldAns = none →
      t.solo = false → t.endAt = false → t.outgoing = none →
      (∀ r, t.parkAt = [r] → ∃ u t', exec (.instructionBoundaryPark c k) s = .next u ∧ u.thr c k = some t' ∧ t'.st = .parked ∧
        t'.g = t.g ∧ t'.pc = t.pc ∧ t'.parkAt = [] ∧ u.mem = s.mem ∧ (u.core c).waiting = (s.core c).waiting ++ [r]) ∧
      (t.parkAt = [] → t.haltAt = true → ∃ u t', exec (.instructionBoundaryPark c k) s = .next u ∧ u.thr c k = some t' ∧
        t'.st = .halted ∧ t'.g = t.g ∧ t'.pc = t.pc ∧ Quiet { s with threads := u.threads } u))) ∧
  (
    (∀ (s : State) (c k ten v : Nat) (r : List Nat), s.mayBind c = some k → s.coreTenant c = some ten → (s.core c).probing = false →
      (s.core c).frames = [] → (s.core c).chans = [] → (s.core c).remote = [] → (s.core c).deque = [] →
      ((s.core c).probeAt = 0 → s.nextVictim c ten (s.core c).probeNext = some v →
        ∃ u, exec (.stealProbe c) s = .next u ∧ QuietBut s u c ∧ Sends s u v (.stealReq c) ∧ (u.core c).probing = true) ∧
      ((s.core c).probeAt = 0 → s.nextVictim c ten (s.core c).probeNext = none → (s.core c).probeNext ≠ 0 →
        ∃ u, exec (.stealProbe c) s = .next u ∧ QuietBut s u c ∧ u.net = s.net ∧ (u.core c).probeNext = 0 ∧
          (u.core c).probeAt = s.cycle + 64) ∧
      ((s.core c).probeAt ≠ 0 → (s.core c).probeAt ≤ s.cycle → s.victims c ten = v :: r →
        ∃ u, exec (.stealRetry c) s = .next u ∧ QuietBut s u c ∧ Sends s u v (.stealReq c) ∧ (u.core c).probing = true)) ∧
    (∀ (s : State) (c ten d : Nat), d ∈ s.victims c ten → d ≠ c ∧ 2 ≤ scopeBetween c d ∧
      ∃ q ∈ s.cores, q.1 = d ∧ ∃ t ∈ q.2.deque, bindTen t.bind = ten) ∧
    (∀ (s : State) (m thief : Nat) (x : Msg), s.arrived m = some x → x.body = .stealReq thief →
      (∀ t r, (s.core x.dst).deque = t :: r → inScope (bindSd t.bind) x.dst thief = true → bindTen t.bind = x.ten →
        s.launchOf t.bind = none → r ≠ [] ∨ s.freeSlot x.dst = none →
        ∃ u, exec (.stealRequest m) s = .next u ∧ QuietBut s u x.dst ∧ (u.core x.dst).deque = r ∧ Sends s u thief (.stealRep (some t))) ∧
      ((s.core x.dst).deque = [] → ∃ u, exec (.stealRequest m) s = .next u ∧ Quiet s u ∧ NetTakes s u m ∧ Sends s u thief (.stealRep none))) ∧
    (∀ (s : State) (m : Nat) (x : Msg), s.arrived m = some x →
      (∀ t, x.body = .stealRep (some t) → s.launchOf t.bind = none →
        (s.admits x.dst x.ten = true → ∀ k, s.stealSlot x.dst t.bind = some k → bindHk t.bind = false → t.argFault = none →
          ∃ u t', exec (.stealReply m) s = .next u ∧ u.mem = s.mem ∧ u.thr x.dst k = some t' ∧
            t'.pc = t.entry ∧ t'.bind = t.bind ∧ t'.root = t.root ∧ (u.core x.dst).probing = false) ∧
        (s.admits x.dst x.ten = true → s.stealSlot x.dst t.bind = none → (s.core x.dst).deque.length < 256 →
          ∃ u, exec (.stealReply m) s = .next u ∧ QuietBut s u x.dst ∧ NetTakes s u m ∧
            (u.core x.dst).deque = (s.core x.dst).deque ++ [t] ∧ (u.core x.dst).probing = false) ∧
        (s.admits x.dst x.ten = false ∨ s.stealSlot x.dst t.bind = none ∧ 256 ≤ (s.core x.dst).deque.length →
          ∃ u, exec (.stealReply m) s = .next u ∧ OfferedLater s u x)) ∧
      (x.body = .stealRep none → ∃ u, exec (.stealReply m) s = .next u ∧ QuietBut s u x.dst ∧ NetTakes s u m ∧
        (u.core x.dst).probing = false ∧
        let n := probeKey x.dst x.src + 1
        (s.nextVictim x.dst x.ten n ≠ none → (u.core x.dst).probeNext = n) ∧
        (s.nextVictim x.dst x.ten n = none → (u.core x.dst).probeNext = 0 ∧ (u.core x.dst).probeAt = s.cycle + 64)))) ∧
  (
    (∀ (s : State) (l : Launch), s.hub.launches = [l] → l.st = .active → l.perRoot = false → l.next < l.roots → l.ready l.next = true →
      ∃ u l', exec .rootPlacement s = .next u ∧ Quiet s u ∧ u.net = s.net ∧ u.hub.launches = [l'] ∧ l'.next = l.next + 1 ∧
        Tab.find l'.waits l.next = some {}) ∧
    (∀ (s : State) (l : Launch) (r c cl k : Nat) (w : RootWait) (q : List Nat) (g : Grant) (bs : List Byte), s.launch l.num = some l →
      l.st = .active → Tab.find l.waits r = some w → w.paged = false → w.next ≤ s.cycle → w.args = none → w.victim = none → l.w 4 = 0 →
      s.served1st l r = false →
      s.visited (fld (l.w 3) 0 14) l.rad = cl :: q → s.rootCore cl l = some c → (s.core c).grant = some g → s.freeSlot c = some k →
      l.hk = false → w.argFault = none → s.launchOf (rootTask l r (fld (l.w 3) 0 14) w).bind = some l →
      (l.w 1 ≠ 0 → s.hubRead l.ten (l.argAddr r) 32 = .ok bs) →
      let args := if l.w 1 = 0 then [0, 0, 0, 0] else wordsOf bs 4
      ∃ u t, exec (.rootWalk l.num r) s = .next u ∧ (∀ d, d ≠ c → u.core d = s.core d) ∧
        u.mem = (if l.w 1 = 0 then s else s.hubUsed l.ten (l.argAddr r) 32 .read).mem ∧
        { u.core c with skips := (s.core c).skips } = s.core c ∧ u.thr c k = some t ∧ t.pc = l.w 0 ∧ t.root = r ∧
        t.ftgt = l.w 7 ∧ t.st = .runnable ∧
        (∀ i < 4, t.g.toList.getD (i + 1) 0 = args.getD i 0) ∧
        t.g.toList.getD 14 0 = BitVec.ofNat 64 (0x01F0000000000000 + l.lmem - l.sstk * k) ∧
        (∀ key, key ≠ slotKey c k → Tab.find u.threads key = Tab.find s.threads key) ∧
        (w.next ≠ 0 → exec (.rootWalkRetry l.num r) s = .next u)) ∧
    (∀ (s : State) (l : Launch) (r : Nat), s.launch l.num = some l → s.served1st l r = true → exec (.rootWalk l.num r) s = .next s) ∧
    (∀ (s : State) (l : Launch), s.launch l.num = some l → l.st = .active → l.wordDone = false → l.roots ≤ l.finished.length →
      s.hub.writes = [] →
      (l.w 9 = 0 → ∃ u l', exec (.completionWordWrite l.num) s = .next u ∧ Quiet s u ∧ u.launch l.num = some l' ∧ l'.st = .complete ∧
        l'.wordDone = true) ∧
      (l.w 9 ≠ 0 → ∀ pa, s.hubPa l.ten (ptrAddr (l.w 9)) .write = .ok pa → ∃ u l', exec (.completionWordWrite l.num) s = .next u ∧
        u.mem = Mem.writeN (s.hubUsed l.ten (l.w 9) 8 .write).mem pa (bytesOfNat 8 (l.w 10).toNat) ∧ u.threads = s.threads ∧ u.launch l.num = some l' ∧ l'.st = .complete)))

/-- R29, R98, R101, R107, R108, R112, R129, R137, R215 to R217, R250, R420: an access is performed at its home slice, the host or the
owning core, which answers with the value read once a line that the slice lacks has come from its vault, stores the bytes once no
other die's bank holds the line, or refuses a tenant that it does not admit; an inbox window, a barrier word, a full/empty word are
read there; a durable store persists; an answer reaches its thread. R108, R136: the bank that serves a slice is filled with the
sectors of a line that a load touches, and the home's directory lists the die, unless a write waits for the line's invalidation; an
invalidation takes the line from the banks of its die and is acknowledged; with an acknowledgement the die leaves the directory, and
the write waits for one die less. Assumption log 14, 16, 67, 72, 73 and 92. -/
def Obligations.MemoryEvents : Prop :=
  (
    ∀ (s : State) (m : Nat) (x : Msg), s.arrived m = some x →
      let c := x.dst
      let o := x.org
      let free := fun (pa n : Nat) => s.poisoned pa n = false ∧ s.soloBlocks o.core o.uid o.csc (linesOf pa n) = false
      let refused := fun (u : State) => Answered s u c o m (.fault { code := 0x03 }) ∧ u.mem = s.mem
      (∀ acc a, x.body = .answer acc a → ∃ u, exec (.memoryReply m) s = .next u ∧ Answered s u o.core o acc a ∧ u.mem = s.mem ∧
        u.cores = s.cores ∧ NetTakes s u m) ∧
      (∀ pa n hint e, pa < 4 * Config.dieBytes → s.fat (pa / Config.dieBytes) (pa % Config.dieBytes / Config.frameBytes) = e →
        s.homeOf e pa = some c → free pa n → s.launchOf o.bind = none → s.spoilt m (pa / 64) = false →
        let there := fun (wr : Bool) => s.vaultTrip c pa n hint wr = false ∨ s.atHand m (pa / 64) = true
        (x.body = .access pa n hint .load → there false → ∃ u, exec (.homeSliceAccess m) s = .next u ∧ u.mem = s.mem ∧
          Answered s u c o m (.data (s.memNat pa n))) ∧
        (∀ v, x.body = .access pa n hint (.store v) →
          (s.listed (some (o.core / 4096)) false (pa / 64) = [] → there true → ∃ u, exec (.homeSliceAccess m) s = .next u ∧
            u.mem = Mem.writeN s.mem pa (bytesOfNat n v) ∧ Answered s u c o m (.data 0)) ∧
          (s.listed (some (o.core / 4096)) false (pa / 64) ≠ [] → (∀ y ∈ s.unacked, y.org.uid ≠ o.uid) →
            ∃ u, exec (.homeSliceAccess m) s = .next u ∧ Quiet s u ∧ x ∈ u.net ∧ ∀ d ∈ s.listed (some (o.core / 4096)) false (pa / 64),
              Sends s u (4096 * d) (.inval (pa / 64) d s.fresh)))) ∧
      (∀ pa n hint, Config.hostBase ≤ pa → free pa n →
        (x.body = .access pa n hint .load → ∃ u, exec (.homeSliceAccess m) s = .next u ∧ u.mem = s.mem ∧
          Answered s u c o m (.data (s.memNat pa n))) ∧
        (∀ v, x.body = .access pa n hint (.store v) → ∃ u, exec (.homeSliceAccess m) s = .next u ∧
          u.mem = Mem.writeN s.mem pa (bytesOfNat n v) ∧ Answered s u c o m (.data 0))) ∧
      (∀ pa n hint, Config.localBase ≤ pa → pa < Config.hostBase → free pa n →
        (s.admits c x.ten = true →
          (x.body = .access pa n hint .load → ∃ u, exec (.ownerCoreAccess m) s = .next u ∧ u.mem = s.mem ∧
            Answered s u c o m (.data (s.memNat pa n))) ∧
          (∀ v, x.body = .access pa n hint (.store v) → ∃ u, exec (.ownerCoreAccess m) s = .next u ∧
            u.mem = Mem.writeN s.mem pa (bytesOfNat n v) ∧ Answered s u c o m (.data 0))) ∧
        (s.admits c x.ten = false → ∀ op, x.body = .access pa n hint op →
          ∃ u, exec (.ownerCoreAccess m) s = .next u ∧ refused u)) ∧
      (∀ w, x.body = .winRead w → s.admits c x.ten = true → ∃ u, exec (.ownerCoreAccess m) s = .next u ∧ u.mem = s.mem ∧
        Answered s u c o m (.data (s.windowValue c w))) ∧
      (∀ b l, x.body = .barRead b l → s.admits c x.ten = true → ∃ u, exec (.ownerCoreAccess m) s = .next u ∧ u.mem = s.mem ∧
        Answered s u c o m (.data (if l then (s.bar c b).linkWord else (s.bar c b).stateWord).toNat)) ∧
      (∀ pa bs n, x.body = .durable pa bs n → s.net.head? = some x → s.launchOf o.bind = none →
        ∃ u, exec (.durablePersist m) s = .next u ∧ u.mem = Mem.writeN s.mem pa bs ∧ u.threads = s.threads ∧ u.cores = s.cores ∧
          NetTakes s u m) ∧
      (∀ opc pa d, x.body = .fe opc pa d → free pa 8 →
        (s.admits c x.ten = false → opc < 256 → ∃ u, exec (.fullEmptyAccess m) s = .next u ∧ refused u) ∧
        (s.admits c x.ten = true → (s.core c).parks = [] →
          (opc = 0x5C → s.isFull pa = true → ∃ u, exec (.fullEmptyAccess m) s = .next u ∧ u.mem = s.mem ∧ u.isFull pa = false ∧
            Answered s u c o m (.data (s.memNat pa 8))) ∧
          (opc = 0x5F ∨ opc = 0x5E ∧ s.isFull pa = false → ∃ u, exec (.fullEmptyAccess m) s = .next u ∧
            u.mem = Mem.writeN s.mem pa (bytesOfNat 8 d) ∧ u.isFull pa = true ∧ Answered s u c o m (.data 0)) ∧
          (opc = 0x5C ∧ s.isFull pa = false ∨ opc = 0x5E ∧ s.isFull pa = true → ∃ u, exec (.fullEmptyAccess m) s = .next u ∧
            u.mem = s.mem ∧ (u.core c).parks = [{ org := o, acc := m, opc := opc, word := pa, data := d }] ∧
            ∀ t, s.bound o = some t → t.st = .waiting .reply false → ∃ t', u.thr o.core o.slot = some t' ∧
              t'.st = .waiting (.park pa) false ∧ fld t'.w0 0 4 = 3)))) ∧
  (
    ∀ (s : State) (m : Nat) (x : Msg), s.arrived m = some x →
      (∀ slice pa n hint acc, x.body = .rfill slice pa n hint acc →
        ((∀ y ∈ s.unacked, y.line ≠ pa / 64) → s.poisoned pa n = false → s.spoilt m (pa / 64) = false →
          s.vaultTrip x.dst pa n hint false = false ∨ s.atHand m (pa / 64) = true → 0 < n → pa % 64 + n ≤ 64 →
          ∃ u l, exec (.remoteCacheFill m) s = .next u ∧ u.mem = s.mem ∧
            (acc ≠ 0 → Answered s u x.dst x.org acc (.data (s.memNat pa n))) ∧ (acc = 0 → u.threads = s.threads) ∧
            u.bankLine slice (pa / 64) = some l ∧
            (pa % 64 < 32 → l.lo = some (Mem.readN s.mem (64 * (pa / 64)) 32)) ∧
            (32 < pa % 64 + n → l.hi = some (Mem.readN s.mem (64 * (pa / 64) + 32) 32)) ∧
            slice / 4096 ∈ Tab.findD (u.core (4096 * (pa / Config.dieBytes))).dirs (pa / 64) []) ∧
        ((∃ y ∈ s.unacked, y.line = pa / 64) → exec (.remoteCacheFill m) s = .next s)) ∧
      (∀ line die wr, x.body = .inval line die wr → ∃ u, exec (.remoteCacheInvalidate m) s = .next u ∧ Quiet s u ∧
        Sends s u x.src (.wack wr) ∧ (∀ k, k / 4 = line → Tab.find (u.die die).bank k = none) ∧
        ∀ k, k / 4 ≠ line → Tab.find (u.die die).bank k = Tab.find (s.die die).bank k) ∧
      (∀ wr w, x.body = .wack wr → s.unacked.find? (fun y => y.num == wr) = some w →
        ∃ u, exec (.writeAcknowledge m) s = .next u ∧ u.threads = s.threads ∧ u.mem = s.mem ∧ NetTakes s u m ∧
          { w with left := w.left - 1 } ∈ u.unacked ∧
          (64 * w.line < 4 * Config.dieBytes →
            x.src / 4096 ∉ Tab.findD (u.core (4096 * (64 * w.line / Config.dieBytes))).dirs w.line [])))

/-- R108, R125 to R127: a commit request joins its arbiter's; the grant performs the chunk, whose buffered bytes then stand in memory and
whose thread has no open chunk, once the banks of other dies have lost its lines, which they are asked for before, and its lines are
through to their homes; the notices go out, and when they are delivered, at once where no chunk is to be told, the held effects are
released, the request leaves and the thread goes on; a notice squashes a chunk whose lines it meets, which takes its checkpoint back,
and no other; the hub grants the one solo token to its oldest request. The choices among requests, all lines in one step, and a token
that is kept: assumption log 55, 67, 68 and 91. -/
def Obligations.CommitEvents : Prop :=
  (∀ (s : State) (m a : Nat) (x : Msg), s.arrived m = some x → x.body = .commitReq a →
    ∃ u, exec (.commitRequest m) s = .next u ∧ Quiet s u ∧ NetTakes s u m ∧ u.arbs = s.arbs ++ [(a, x)]) ∧
  (∀ (s : State) (a : Nat) (x : Msg) (t : Thread), s.grantable a = some x → s.bound x.org = some t → s.launchOf t.bind = none →
    let goesOn := fun (u : State) (t' : Thread) => u.thr x.org.core x.org.slot = some t' ∧ t'.chunk = none ∧ t'.outgoing = none ∧ t'.g = t.g ∧
      t'.pc = t.pc ∧ (∀ w, t.st = .waiting w false → t'.st = .waiting w true) ∧ ∀ y ∈ u.arbs, y ∈ s.arbs ∧ y.2.id ≠ x.id
    (∀ ck, t.chunk = some ck → ck.buf.Pairwise (fun p q => p.1 < q.1) →
      (∀ l d, s.toClear x.org.core ck = [(l, d)] → (∀ y ∈ s.unacked, y.org.uid ≠ x.org.uid) →
        ∃ u, exec (.commitGrant a) s = .next u ∧ Quiet s u ∧ u.arbs = s.arbs ∧ ∀ k ∈ d, Sends s u (4096 * k) (.inval l k s.fresh)) ∧
      (s.toClear x.org.core ck = [] → s.farLines x.org.core t.uid ck = [] → s.notifying t.uid = false →
        let told := s.noticed x.org.core t.uid ck.scope ck.writes
        let bytes := fun (u : State) => ∀ b, Mem.read u.mem b = (Tab.find ck.buf b).getD (Mem.read s.mem b)
        (told = [] ∨ ck.writes = [] → ∃ u t', exec (.commitGrant a) s = .next u ∧ goesOn u t' ∧ t'.squash = 0 ∧ bytes u) ∧
        (told ≠ [] → ck.writes ≠ [] → ∃ u t', exec (.commitGrant a) s = .next u ∧ bytes u ∧ u.arbs = s.arbs ∧
          u.thr x.org.core x.org.slot = some t' ∧
          t' = { t with chunk := none, squash := 0, outgoing := some ck.held } ∧
          ∀ p ∈ told, Sends s u (p.1 / 16) (.notice (p.1 % 16) p.2 ck.writes)))) ∧
    (∀ l, t.chunk = none → t.outgoing = some l → t.solo = false → ∃ u t', exec (.commitGrant a) s = .next u ∧ goesOn u t' ∧ u.mem = s.mem)) ∧
  (∀ (s : State) (m k uid : Nat) (lines : List Nat) (x : Msg) (t : Thread) (ck : Chunk), s.arrived m = some x →
    x.body = .notice k uid lines → s.thr x.dst k = some t → t.chunk = some ck →
    (t.uid = uid → t.solo = false → (∃ l ∈ lines, l ∈ ck.lines) → ∃ u t', exec (.commitNotice m) s = .next u ∧ u.mem = s.mem ∧
      u.thr x.dst k = some t' ∧ t'.chunk = none ∧ t'.g = ck.g ∧ t'.pc = ck.pc ∧ t'.tsw = ck.tsw ∧ t'.v = ck.v ∧ t'.h = ck.h ∧
      t'.link = ck.link ∧ t'.squash = t.squash + 1) ∧
    (t.uid ≠ uid ∨ t.solo = true → ∃ u, exec (.commitNotice m) s = .next u ∧ Quiet s u ∧ NetTakes s u m)) ∧
  (∀ (s : State) (m : Nat) (x : Msg) (t : Thread), s.arrived m = some x → x.body = .tokenReq → s.bound x.org = some t →
    ∃ u, exec (.soloTokenRequest m) s = .next u ∧ Quiet s u ∧ NetTakes s u m ∧
      u.hub.tokenQ = s.hub.tokenQ ++ [slotKey x.org.core x.org.slot]) ∧
  (∀ (s : State) (c k : Nat) (r : List Nat) (t : Thread) (b : Bool), k < 16 → s.hub.token = none → s.hub.tokenQ = slotKey c k :: r →
    s.thr c k = some t → t.st = .waiting .token b → ∃ u t', exec .soloTokenGrant s = .next u ∧ u.hub.token = some (slotKey c k) ∧
      u.hub.tokenQ = r ∧ u.thr c k = some t' ∧ t' = { t with solo := true } ∧ u.mem = s.mem ∧ u.cores = s.cores) ∧
  (∀ (s : State) (k : Nat), s.hub.token = some k → exec .soloTokenGrant s = .next s)

/-- R225 to R227, R231, R233, R235, R237, R238, R389: a message that its destination admits is accepted: a post into its empty inbox
register, or straight to the thread that waits for it; a remote call into the queue; a channel message while the channel is enabled
and holds fewer than four; a change of BLK. A full place refuses it until the sender's retry limit, and it is offered again 64 cycles
later; one of a saved launch is held. R240, R241, R346, R378: a migrated context, its basket arrived, that its destination admits and
whose basket fits enters a receive frame, its basket's bytes in the local memory; full frames keep it at its port for another 64
cycles; a destination that does not admit its tenant sends it back with code 0x10, and it enters a receive frame of its source, from
which it parks when it is bound. Assumption log 18, 19 and 89. -/
def Obligations.MessagesBetweenCores : Prop :=
  (
    (∀ (s : State) (m : Nat) (x : Msg), s.arrived m = some x → s.launchOf x.org.bind = none →
      let c := x.dst
      let q := s.core c
      s.admits c x.ten = true →
        (∀ i v opc t, x.body = .post i v opc t → s.postBehind x i = false → s.savedUnder x = false → opc ≠ 0x81 →
          (Tab.find q.inbox i = none → s.taker c i = none → ∃ u, exec (.postArrival m) s = .next u ∧ QuietBut s u c ∧ NetTakes s u m ∧
            Tab.find (u.core c).inbox i = some v ∧ ∀ j, j ≠ i → Tab.find (u.core c).inbox j = Tab.find q.inbox j) ∧
          (∀ k t0, Tab.find q.inbox i = none → s.taker c i = some k → s.thr c k = some t0 → t0.st = .waiting (.take i) false →
            ∃ u t1 a, exec (.postArrival m) s = .next u ∧ u.cores = s.cores ∧ u.mem = s.mem ∧ NetTakes s u m ∧ u.thr c k = some t1 ∧
              t1.st = .waiting (.take i) true ∧ t1.acc = some a ∧ a.ans = .data v.toNat ∧ t1.g = t0.g) ∧
          (∀ w, Tab.find q.inbox i = some w → x.org.away = none → x.refusals + 1 < (s.core x.org.core).retry →
            ∃ u, exec (.postArrival m) s = .next u ∧ OfferedLater s u x)) ∧
        (∀ t l w, x.body = .callat t l w → s.launchOf t.bind = none →
          (q.remote.length < 64 → ∃ u, exec (.callatArrival m) s = .next u ∧ QuietBut s u c ∧ NetTakes s u m ∧
            (u.core c).remote = q.remote ++ [(t, some l)]) ∧
          (64 ≤ q.remote.length → x.org.away = none → x.refusals + 1 < (s.core x.org.core).retry →
            ∃ u, exec (.callatArrival m) s = .next u ∧ OfferedLater s u x)) ∧
        (∀ ch t pri w, x.body = .chan ch t pri w false → (s.chan c ch).en = true → (s.chan c ch).ten = x.ten → s.launchOf t.bind = none →
          ((s.chan c ch).pend.length < 4 → ∃ u, exec (.channelMessageArrival m) s = .next u ∧ QuietBut s u c ∧ NetTakes s u m ∧
            (u.chan c ch).pend = (s.chan c ch).pend ++ [(t, pri)]) ∧
          (4 ≤ (s.chan c ch).pend.length → x.org.away = none → x.refusals + 1 < (s.core x.org.core).retry →
            ∃ u, exec (.channelMessageArrival m) s = .next u ∧ OfferedLater s u x)) ∧
        (∀ ch b w, x.body = .chctl ch b w → (s.chan c ch).ten = x.ten → ∃ u, exec (.channelControlArrival m) s = .next u ∧ QuietBut s u c ∧
          NetTakes s u m ∧ u.chan c ch = { s.chan c ch with blk := b })) ∧
    (∀ (s : State) (m n : Nat) (x : Msg), s.msg m = some x → x.stage = .wait n → n ≤ s.cycle →
      let offered := fun (u : State) => Quiet s u ∧ ∃ y ∈ u.net, y.id = m ∧ y.body = x.body ∧ y.dst = x.dst ∧ y.stage = (if s.direct x then .arrived else .flits) ∧ y.held = false
      (x.held = false → (∀ b i v t, x.body = .post b i v t → ∃ u, exec (.messageResend m) s = .next u ∧ offered u) ∧
        (∀ t, x.body = .fork t → s.launchOf x.org.bind = none → s.admits x.dst x.ten = true → (s.core x.dst).deque.length < 256 → ∃ u, exec (.messageResend m) s = .next u ∧ QuietBut s u x.dst ∧
          NetTakes s u m ∧ (u.core x.dst).deque = (s.core x.dst).deque ++ [t]) ∧
        (∀ c, x.body = .context c → ∃ u, exec (.migrationResend m) s = .next u ∧ offered u) ∧
        (∀ b c d, x.body = .barFwd b c d → ∃ u, exec (.barrierForwardResend m) s = .next u ∧ offered u)) ∧
      (x.held = true → ∃ u, exec (.holdResend m) s = .next u ∧ offered u)) ∧
    (∀ (s : State) (m n : Nat) (x : Msg), s.msg m = some x → x.stage = .wait n → s.cycle < n →
      ∀ i ∈ [Instr.messageResend m, .holdResend m, .migrationResend m, .barrierForwardResend m], exec i s = .next s)) ∧
  (
    ∀ (s : State) (m : Nat) (x : Msg) (ctx : Context), s.arrived m = some x → x.body = .context ctx → x.src < 16384 →
      s.launchOf ctx.bind = none →
      let c := x.dst
      (ctx.fault = none → s.basketHere x ctx = true →
        (s.admits c x.ten = true → ctx.basket = [] ∨ ctx.basketOff + ctx.basket.length ≤ s.basketLimit c ctx.bind →
          (32 ≤ (s.core c).frames.length → ∃ u, exec (.migrationArrival m) s = .next u ∧ OfferedLater s u x) ∧
          ((s.core c).frames.length < 32 → c < 16384 → ctx.basketOff + ctx.basket.length ≤ 2 ^ 18 →
            ∃ u, exec (.migrationArrival m) s = .next u ∧ u.threads = s.threads ∧ NetTakes s u m ∧
              (u.core c).frames = (s.core c).frames ++ [{ ctx with basket := [], bad := false }] ∧
              SameMemBut s u (localPa c ctx.basketOff) ctx.basket.length ∧
              ∀ i < ctx.basket.length, Mem.read u.mem (localPa c ctx.basketOff + i) = ctx.basket.getD i 0)) ∧
        (s.admits c x.ten = false → (s.core c).port.length < 16 → ∃ u f, exec (.migrationArrival m) s = .next u ∧ u.threads = s.threads ∧ u.mem = s.mem ∧
          f.code = 0x10 ∧ Sends s u x.org.core (.context { ctx with fault := some f, basket := [] }))) ∧
      (ctx.fault ≠ none → s.admits c x.ten = true → (s.core c).frames.length < 32 → ctx.basket = [] → ∃ u, exec (.migrationRefusedReturn m) s = .next u ∧
        u.threads = s.threads ∧ u.mem = s.mem ∧ NetTakes s u m ∧ (u.core c).frames = (s.core c).frames ++ [{ ctx with bad := false }]))

/-- R248, R249, R252, R255: an arrival from another core is counted, and the last one of a phase opens the next; a forwarded arrival
enters its child; a completion notice opens the next phase and tells the children; a wait in take or barwait that outlasts the
watchdog parks with code 0x09, its wait register in the auxiliary words. -/
def Obligations.BarrierEvents : Prop :=
  (∀ (s : State) (m b : Nat) (x : Msg), s.arrived m = some x → s.launchOf x.org.bind = none → s.savedUnder x = false →
    let c := x.dst
    let y := s.bar c b
    let done := fun (u : State) => (u.bar c b).seq = (y.seq + 1) % 65536 ∧ (u.bar c b).arr = 0 ∧ (u.bar c b).pend = false ∧
      (u.bar c b).childs = []
    (x.body = .barArr b → s.admits c x.ten = true → x.org.core ≠ c → y.pend = false →
      (y.arr + 1 < y.cnt → ∃ u, exec (.barrierArrival m) s = .next u ∧ QuietBut s u c ∧ u.bar c b = { y with arr := y.arr + 1 } ∧
        Sends s u x.org.core (.answer m (.data y.seq))) ∧
      (y.arr + 1 = y.cnt → y.uv = false → ∃ u, exec (.barrierArrival m) s = .next u ∧ u.mem = s.mem ∧ done u ∧
        Sends s u x.org.core (.answer m (.data y.seq))) ∧
      (y.arr + 1 = y.cnt → y.uv = true → ∃ u, exec (.barrierArrival m) s = .next u ∧ QuietBut s u c ∧ (u.bar c b).pend = true ∧
        Sends s u y.upCore (.barFwd y.upBar c b)) ∧
      (y.arr = y.cnt → ∃ u, exec (.barrierArrival m) s = .next u ∧ Quiet s u ∧ Sends s u x.org.core (.answer m .retry))) ∧
    (∀ cc cb, x.body = .barFwd b cc cb → y.pend = false → y.childs.length < 16 → y.arr + 1 < y.cnt →
      ∃ u, exec (.barrierArrival m) s = .next u ∧ QuietBut s u c ∧ NetTakes s u m ∧
        u.bar c b = { y with arr := y.arr + 1, childs := y.childs ++ [(cc, cb)] }) ∧
    (x.body = .barNote b → ∃ u, exec (.barrierCompletionNotice m) s = .next u ∧ u.mem = s.mem ∧ done u ∧
      ∀ p ∈ y.childs, Sends s u p.1 (.barNote p.2))) ∧
  (∀ (s : State) (c k : Nat) (t : Thread), s.thr c k = some t → s.recordsFull c = false →
    (∀ i, t.st = .waiting (.take i) false → t.since + (s.core c).watchdog ≤ s.cycle →
      ∃ u t' r, exec (.waitWatchdogExpiry c k) s = .next u ∧ u.mem = s.mem ∧ u.thr c k = some t' ∧ t'.st = .parked ∧ t'.g = t.g ∧
        t'.pc = t.pc ∧ (u.core c).waiting = (s.core c).waiting ++ [r] ∧ r.code = 0x09 ∧ r.aux0 = t.w0 ∧ r.aux1 = t.w1) ∧
    (∀ b q, t.st = .waiting (.bar b q) false → t.since + (s.core c).watchdog ≤ s.cycle → k < 16 →
      ∃ u t', exec (.waitWatchdogExpiry c k) s = .next u ∧ u.thr c k = some t' ∧ t'.st = .parked ∧
        ((u.bar c b).watch).testBit k = false) ∧
    (s.cycle < t.since + (s.core c).watchdog → exec (.waitWatchdogExpiry c k) s = .next s))

/-- R116, R118, R261, R262, R276, R288, R303, R305, R310: the vector engine goes on with the command at its head, the copy engine with
each of its commands, once no older command conflicts, by a run of at most 64 bytes from its cursor: a fill writes its scalar into the
elements of the run, a copy the source's bytes, and nothing else of memory changes; the cursor moves past the run, and after the last
element the command is done; a command that is done completes. The size of a run: assumption log 30; the moment of SUBST: log 80;
coinciding regions: log 83. -/
def Obligations.VectorAndCopyEvents : Prop :=
  ∀ (s : State) (c n fmt off : Nat) (x : Cmd), c < 16384 → s.coreFrozen c = false → s.launchOf x.org.bind = none →
    let eb := elemBytes fmt
    let row := fun (h : Shape) => shE h 0 = n ∧ shE h 1 = 1 ∧ shE h 2 = 1 ∧ shE h 3 = 1 ∧ shFmt h = fmt ∧ shBlk h = 0
    let r := min (64 / eb) (n - x.pos)
    let lo := localPa c off + x.pos * eb
    let goes := fun (u : State) => SameMemBut s u lo (r * eb) ∧ u.threads = s.threads ∧
      ∃ y ∈ (u.core c).cmds, y.id = x.id ∧ y.pos = x.pos + r ∧ y.started = true ∧ (y.done = true ↔ x.pos + r = n)
    (s.mayRun c x = true → x.pos < n → x.flags = 0 → x.k3 = false → x.old = none → x.selfReads = false → 1 ≤ fmt → fmt ≤ 8 → row x.sd →
      x.pd = .loc c off → off + n * eb ≤ 2 ^ 18 →
      (∀ f, s.vectorHead c = some x → x.instr = .vfill f → f.ty.toNat = fmt → f.fn = 0 →
        ∃ u, exec (.vectorCommandStart c) s = .next u ∧ goes u ∧ ∀ k < r, ∀ i < eb,
          Mem.read u.mem (lo + k * eb + i) = BitVec.ofNat 8 (x.gs.toNat / 2 ^ (8 * i))) ∧
      (∀ q f from_, s.copyAt c q = some x → x.instr = .cp f → row x.sa → x.pa = .loc c from_ → from_ + n * eb ≤ 2 ^ 18 →
        from_ + n * eb ≤ off ∨ off + n * eb ≤ from_ → s.poison = [] → s.fetched = [] →
        ∃ u, exec (.copyCommandStart c q) s = .next u ∧ goes u ∧ ∀ i < r * eb,
          Mem.read u.mem (lo + i) = Mem.read s.mem (localPa c from_ + x.pos * eb + i))) ∧
    (x.done = true →
      (s.vectorHead c = some x → ∃ u, exec (.vectorCommandComplete c) s = .next u ∧ Retires s u c x) ∧
      (∀ q f, s.copyAt c q = some x → x.instr = .cp f → ∃ u, exec (.copyCommandComplete c q) s = .next u ∧ Retires s u c x)) ∧
    (x.done = false →
      (s.vectorHead c = some x → exec (.vectorCommandComplete c) s = .next s) ∧
      (∀ q, s.copyAt c q = some x → exec (.copyCommandComplete c q) s = .next s))

/-- R80, R83, R87, R89, R90, R94, R288, R291, R297, R301 to R303, R334: the matrix datapath takes its next command: mclr leaves the
elements of a run 0 with lean 0, an mma begins; a slice is fed to the block in hand; past its last slice the block drains behind the
next one; drained, it is finished, or in a LAST command waits for its check; the check of a block with all leans 0 finishes it, and a
lean of ±1 under AOT halts the command with code 0x06; a command that is done completes, or tells its issuer; a matrix command from
another core is accepted with the capability, and halts at its issuer without it; its notice completes it there. R293 to R295: the
latch path: an mld fills an EMPTY latch that no transfer is coming to; the fill's end makes it FULL; an mrot waits for its own latch
FULL and the neighbour's EMPTY, and its end leaves the neighbour's FULL with the tile and the own EMPTY; mrot.drop empties its latch
at once. Two blocks at once: assumption log 15; a run of mclr: log 30; the moment of SUBST: log 80; an mmar that halts: log 94. -/
def Obligations.MatrixEvents : Prop :=
  (
    (∀ (s : State) (c : Nat) (x : Cmd), s.datapath c = none → s.datapathNext c = some x →
      (∀ f, x.instr = .mclr f → x.flags = 0 → x.k3 = false → x.selfReads = false → x.pos < shCount x.sd →
        let r := min 16 (min (shE x.sd 0 - x.pos % shE x.sd 0) (shCount x.sd - x.pos))
        ∃ u, exec (.matrixCommandStart c) s = .next u ∧ u.threads = s.threads ∧
          (∀ k, x.pos ≤ k → k < x.pos + r →
            (u.accGet (x.accPa c (k / shE x.sd 0) (k % shE x.sd 0)) (accZ x.sd)).1 = 0) ∧
          ∃ y ∈ (u.core c).cmds, y.id = x.id ∧ y.pos = x.pos + r ∧ y.started = true ∧ (y.done = true ↔ x.pos + r = shCount x.sd)) ∧
      (∀ f, x.instr = .mma f → latchSrc f = none → s.substAt c x = false → ∃ u, exec (.matrixCommandStart c) s = .next u ∧
        u.threads = s.threads ∧ u.mem = s.mem ∧ ∃ y ∈ (u.core c).cmds, y.id = x.id ∧ y.started = true ∧
          (y.done = true ↔ shCount x.sd = 0 ∨ shCount x.sa = 0 ∨ shCount x.sb = 0))) ∧
    (∀ (s : State) (c : Nat) (x : Cmd) (f : VF), s.datapath c = some x → x.instr = .mma f → s.coreFrozen c = false → x ∈ (s.core c).cmds →
      let last := f.fn.getLsbD 0 = true ∧ accAF x.sd ≠ 2
      let more := x.cur + 1 < x.blocks ∨ x.seg + 1 < x.segs.length
      let checked := fun (b : Back) (p : Lean → Prop) (q : Nat × Nat × Nat × Nat × Nat) => q ∈ (x.onBack b).positions ∧
        p (s.accGet (x.accPa c q.2.1 q.2.2.1) (accZ x.sd)).2
      (x.done = false → x.spent = false → x.back = none → x.begun = true → x.paged = false → s.feedsNow c = true →
        ∀ as bs, x.slice < s.slices c x → s.blockSlices c x f.u = .ok s (as, bs) → s.badElement c x = none →
        ∃ u y, exec (.matrixFeedCycle c) s = .next u ∧ u.threads = s.threads ∧ y ∈ (u.core c).cmds ∧ y.id = x.id ∧
          (x.slice + 1 < s.slices c x → y.slice = x.slice + 1 ∧ y.cur = x.cur ∧ y.back = none) ∧
          (x.slice + 1 = s.slices c x → y.slice = 0 ∧ y.begun = false ∧ (y.spent = true ↔ ¬ more) ∧
            ∃ b, y.back = some b ∧ b.seg = x.seg ∧ b.cur = x.cur)) ∧
      (∀ b, x.done = false → x.spent = true → x.back = some b → x.fed = false → b.lanes = [] → s.badElement c (x.onBack b) = none →
        ∃ u y, exec (.matrixFeedCycle c) s = .next u ∧ u.mem = s.mem ∧ u.threads = s.threads ∧ y ∈ (u.core c).cmds ∧ y.id = x.id ∧
          (last → y.fed = true ∧ y.back = some b ∧ y.done = false) ∧ (¬ last → y.back = none ∧ y.done = true)) ∧
      (∀ b, x.done = false → x.back = some b → x.fed = true → s.recordsFull x.org.core = false →
        ((∀ q ∈ (x.onBack b).positions, checked b (· = .zero) q) →
          ∃ u, exec (.lastBlockCheck c) s = .next u ∧ u.mem = s.mem ∧ u.lean = s.lean ∧ u.threads = s.threads ∧
            { x with back := none, fed := false } ∈ (u.core c).cmds) ∧
        ((∃ q, checked b (· = .plus) q) → (∀ q, ¬ checked b (· = .lost) q) → x.tsw.getLsbD 15 = true →
          x.forgiving = false → x.from_ = none → s.cmd c x.id = some x → ∃ u y e, exec (.lastBlockCheck c) s = .next u ∧ u.mem = s.mem ∧
            y ∈ (u.core c).cmds ∧ y.id = x.id ∧ y.halted = some e ∧ e.code = 0x06 ∧ fld e.aux0 0 6 = x.tag % 64)) ∧
      (x.done = true → s.launchOf x.org.bind = none →
        (x.from_ = none → ∃ u, exec (.matrixCommandComplete c) s = .next u ∧ Retires s u c x) ∧
        (∀ o, x.from_ = some o → ∃ u, exec (.matrixCommandComplete c) s = .next u ∧ u.mem = s.mem ∧ u.threads = s.threads ∧
          (∀ y ∈ (u.core c).cmds, y.id ≠ x.id) ∧ Sends s u o (.mmarDone x.peer x.flags (x.flags.testBit 6) none)))) ∧
    (∀ (s : State) (m ten id : Nat) (token : Word) (x : Msg) (y : Cmd) (f : VF), s.arrived m = some x → s.launchOf x.org.bind = none →
      x.body = .mmar ten token id → s.cmd x.org.core id = some y → y.instr = .mmar f →
      ((s.core x.dst).capable token = true → s.coreTenant x.dst = some ten → (s.core x.dst).remoteBusy = false →
        ∃ u z, exec (.mmarArrival m) s = .next u ∧ QuietBut s u x.dst ∧ NetTakes s u m ∧
          (u.core x.dst).cmds = (s.core x.dst).cmds ++ [z] ∧ z.instr = .mma f ∧ z.foots = y.tfoots ∧ z.from_ = some x.org.core ∧
          z.peer = id ∧ z.started = false) ∧
      ((s.core x.dst).capable token = false → s.recordsFull x.org.core = false → ∃ u z e, exec (.mmarArrival m) s = .next u ∧
        u.mem = s.mem ∧ z ∈ (u.core x.org.core).cmds ∧ z.id = id ∧ z.halted = some e ∧ e.code = 0x0E ∧ e.aux1 = 1 ∧ e.addr = y.gs)) ∧
    (∀ (s : State) (m id fl : Nat) (b : Bool) (x : Msg) (y : Cmd), s.arrived m = some x → x.body = .mmarDone id fl b none →
      s.cmd x.dst id = some y → s.launchOf y.org.bind = none →
        ∃ u, exec (.mmarCompletionNotice m) s = .next u ∧ NetTakes s u m ∧ Retires s u x.dst { y with flags := orFl y.flags fl })) ∧
  (
    ∀ (s : State) (c : Nat) (x : Cmd), s.latchHead c = some x → s.coreFrozen c = false → s.launchOf x.org.bind = none →
      let next := c / 16 * 16 + (c + 1) % 16
      let started := fun (u : State) => ∃ y ∈ (u.core c).cmds, y.id = x.id ∧ y.started = true
      (s.mayStart c x = true →
        (∀ f bs, x.instr = .mld f → f.vd.toNat < 2 → (s.latch c f.vd.toNat).st = .empty → s.inbound c f.vd.toNat = false →
          shCount x.sa ≠ 0 → s.readTile x c (shE x.sa 1) 0 = .ok s bs → ∃ u, exec (.latchCommandStart c) s = .next u ∧ started u ∧
            u.latch c f.vd.toNat = { st := .filling, recd := x.sa, tile := bs }) ∧
        (∀ f, x.instr = .mrot f → f.va.toNat < 2 →
          ((s.latch c f.va.toNat).st ≠ .full ∨ (s.latch next (1 - f.va.toNat)).st ≠ .empty → exec (.latchCommandStart c) s = .next s) ∧
          ((s.latch c f.va.toNat).st = .full → (s.latch next (1 - f.va.toNat)).st = .empty →
            ∃ u, exec (.latchCommandStart c) s = .next u ∧ started u ∧ u.mem = s.mem ∧
              u.latch next (1 - f.va.toNat) = { st := .filling, reserved := true } ∧
              u.latch c f.va.toNat = s.latch c f.va.toNat)) ∧
        (∀ f, x.instr = .mrotDrop f → f.va.toNat < 2 → ∃ u, exec (.latchCommandStart c) s = .next u ∧ Retires s u c x ∧
          u.latch c f.va.toNat = { st := .empty })) ∧
      (x.started = true →
        (∀ f, x.instr = .mld f → f.vd.toNat < 2 → ∃ u, exec (.latchFillComplete c) s = .next u ∧ Retires s u c x ∧
          u.latch c f.vd.toNat = { s.latch c f.vd.toNat with st := .full }) ∧
        (∀ f, x.instr = .mrot f → f.va.toNat < 2 → ∃ u, exec (.mrotTransferComplete c) s = .next u ∧ u.mem = s.mem ∧
          u.latch next (1 - f.va.toNat) = { s.latch c f.va.toNat with reserved := false } ∧ u.latch c f.va.toNat = { st := .empty } ∧
          ∀ y ∈ (u.core c).cmds, y.id ≠ x.id)) ∧
      (x.started = false → exec (.latchFillComplete c) s = .next s ∧ exec (.mrotTransferComplete c) s = .next s))

/-- The spec of thread t at an origin has the unit's answer, and its wait's event. -/ def FoldAnswered (u : State) (o : Origin) (t :
Thread) (a : FoldAns) : Prop := ∃ t', u.thr o.core o.slot = some t' ∧ t'.foldAns = some a ∧ t'.g = t.g ∧ t'.pc = t.pc ∧ ∀ w, t.st =
.waiting w false → t'.st = .waiting w true /-- R22, R327, R441: a cluster's folding unit takes the oldest queued request; with a kept
image of the fold's key in the depot the residual is that image, marked FROMDEPOT; a fold that has come to a fault, or whose residual
finds no space, no FREE entry or no branch to its source (code 0x0D, reasons 1 to 3), sends the unpin of its source; a residual whose
code is written gets its entry, and sends the unpin unless it is generic; the update that performs the unpin gives the spec the fault
or the handle, as the end of a generic one does at once. R312 to R314, R328: an update of a handle's entry at its home: a pin of a
LIVE entry raises PINS and answers CODE, of a RELEASED one is code 0x0B, of a stale handle 0x0A; an unpin lowers PINS, and the last
one of a RELEASED entry reclaims it: its generation rises and it is FREE, or it retires at generation 255; a release of a LIVE entry
makes it RELEASED, or reclaims it at once without pins. R330, R437, R440, R441: the image of an hkeep that its depot message brings is
kept when it fits under the tenant's quota, and the entry's KEPT is set; an image of a key that the depot holds is not stored again;
one that alone is beyond the quota is not kept. Where the residual and its entry are placed, and what an image counts: assumption log
38, 78 and 79; a fold for its faults alone: log 13. -/
def Obligations.FoldEvents : Prop :=
  (
    (∀ (s : State) (cl : Nat) (r : FoldReq) (l : List FoldReq) (i : Image), (s.cluster cl).folding = none → (s.cluster cl).folds = r :: l →
      (s.hub.images.find? fun x => x.key == s.foldKey r && x.persistent) = some i → i.intact = true →
      ∃ u y, exec (.foldStart cl) s = .next u ∧ Quiet s u ∧ (u.cluster cl).folds = l ∧ (u.cluster cl).folding = some y ∧ y.req = r ∧
        y.walked = true ∧ y.fault = none ∧ y.image = i.body.take i.size ∧
        (i.body.length ≤ i.size → y.pool = []) ∧ y.flags = i.flags + 2 ^ 8 ∧
        ∀ k, k ≠ cl → u.cluster k = s.cluster k) ∧
    (∀ (s : State) (cl : Nat) (x : FoldRes) (t : Thread), (s.cluster cl).folding = some x → x.walked = true → x.ending = none →
      (s.cluster cl).foldPaged = false → s.bound x.req.org = some t →
      let ten := bindTen x.req.org.bind
      let n := 16 * x.image.length
      let answers := fun (u : State) (a : FoldAns) => (u.cluster cl).folding = none ∧ FoldAnswered u x.req.org t a
      let ends := fun (v u : State) (a : FoldAns) => ∃ y z, (u.cluster cl).folding = some y ∧ y.ending = some (z.id, a) ∧ y.req = x.req ∧
        z ∈ u.net ∧ v.fresh ≤ z.id ∧ z.dst = v.entryHome ten x.req.handle ∧ z.body = .handle x.req.handle 1 ∧ z.org = x.req.org
      let no := fun (k : Nat) => FoldAns.fault { code := 0x0D, aux0 := BitVec.ofNat 64 (x.req.handle.toNat % 2 ^ 32), aux1 := BitVec.ofNat 64 k }
      let source := match s.entryAddr ten x.req.handle with
        | some a => ptrAddr (s.mem64 a)
        | none => 0
      (∀ f, x.fault = some f → ∃ u, exec (.foldComplete cl) s = .next u ∧ u.mem = s.mem ∧ u.cores = s.cores ∧ ends s u (.fault f)) ∧
      (x.fault = none → x.pool = [] →
        (s.arenaSpace ten 16 n = none → ∃ u, exec (.foldComplete cl) s = .next u ∧ u.mem = s.mem ∧ ends s u (no 1)) ∧
        (∀ va, s.arenaSpace ten 16 n = some va →
          (s.freeEntry ten = none → ∃ u, exec (.foldComplete cl) s = .next u ∧ u.mem = s.mem ∧ ends s u (no 2)) ∧
          (∀ e, s.freeEntry ten = some e →
            (x.imageAt va source = none → ∃ u, exec (.foldComplete cl) s = .next u ∧ u.mem = s.mem ∧ ends s u (no 3)) ∧
            (∀ img, x.imageAt va source = some img →
              (x.req.check = true → ∃ u, exec (.foldComplete cl) s = .next u ∧ u.mem = s.mem ∧ ends s u .clean) ∧
              (∀ s', x.req.check = false →
                s.engWrite { org := x.req.org, core := x.req.org.core, ten := ten, waiter := .fold cl,
                             refused := x.refused.find? fun p => decide (va / 4096 ≤ p) && decide (p ≤ (va + n) / 4096) } (.virt va)
                  (img.flatMap fun p => bytesOfNat 8 p.1.toNat ++ bytesOfNat 8 p.2.toNat) = .ok s' () →
                s'.threads = s.threads → (s'.cluster cl).folding = some x →
                let a := (s.tenantWord ten 0).toNat + 32 * e
                let gen := fld (s'.mem64 (a + 8)) 32 8
                let h := FoldAns.ok (BitVec.ofNat 64 (gen * 2 ^ 24 + e))
                ∃ u, exec (.foldComplete cl) s = .next u ∧ (if x.flags / 2 ^ 4 % 2 = 1 then answers u h else ends s' u h) ∧
                  (∀ b, b < a ∨ a + 32 ≤ b → Mem.read u.mem b = Mem.read s'.mem b) ∧ u.mem64 a = BitVec.ofNat 64 va ∧
                  u.mem64 (a + 8) = BitVec.ofNat 64 (gen * 2 ^ 32 + 2 ^ 10 + x.flags + 1) ∧
                  u.mem64 (a + 16) = BitVec.ofNat 64 (x.req.handle.toNat % 2 ^ 32 * 2 ^ 32 + img.length))))))) ∧
    (∀ (s : State) (m : Nat) (y : Msg) (x : FoldRes) (h : Word) (t : Thread) (a : FoldAns), s.arrived m = some y → y.body = .handle h 1 →
      (s.cluster (clusterOf y.org.core)).folding = some x → x.ending = some (m, a) → s.bound x.req.org = some t →
      ∃ u, exec (.handleUpdate m) s = .next u ∧ (u.cluster (clusterOf y.org.core)).folding = none ∧ FoldAnswered u x.req.org t a)) ∧
  (
    ∀ (s : State) (m : Nat) (x : Msg) (h : Word) (op : Nat), s.arrived m = some x → x.body = .handle h op →
      let t := bindTen x.org.bind
      let back := fun (u : State) (a : Answer) => Answered s u x.dst x.org m a
      let hw := BitVec.ofNat 64 (h.toNat % 2 ^ 32)
      (s.handleValid t h = none →
        (op = 0 ∨ 2 ≤ op → ∃ u, exec (.handleUpdate m) s = .next u ∧ u.mem = s.mem ∧ back u (.fault { code := 0x0A, aux0 := hw }))) ∧
      (∀ a, s.handleValid t h = some a →
        let w := s.mem64 (a + 8)
        let pins := w.toNat / 2 ^ 40
        let others := fun (u : State) => SameMemBut s u (a + 8) 8 ∧ u.cores = s.cores
        let word := fun (u : State) (p st gen : Nat) => u.mem64 (a + 8) =
          BitVec.ofNat 64 (p * 2 ^ 40 + gen * 2 ^ 32 + w.toNat % 2 ^ 32 / 4 * 4 + st)
        let gen := w.toNat / 2 ^ 32 % 256
        let reclaimed := fun (u : State) (p : Nat) => if gen = 255 then word u p 3 gen else word u p 0 (gen + 1)
        let plain := w.getLsbD 4 = false ∨ fld w 10 2 ≠ 1
        (op = 0 → w.toNat % 4 = 1 → pins < 2 ^ 24 - 1 → ∃ u, exec (.handleUpdate m) s = .next u ∧ others u ∧ word u (pins + 1) 1 gen ∧
          back u (.data (s.mem64 a).toNat)) ∧
        (op = 0 → w.toNat % 4 = 1 → pins = 2 ^ 24 - 1 → ∃ u, exec (.handleUpdate m) s = .next u ∧ u.mem = s.mem ∧
          back u (.fault { code := 0x0D, aux0 := hw, aux1 := 4 })) ∧
        (op = 0 → w.toNat % 4 = 2 → ∃ u, exec (.handleUpdate m) s = .next u ∧ u.mem = s.mem ∧ back u (.fault { code := 0x0B, aux0 := hw })) ∧
        (op = 1 → 1 ≤ pins → ∃ u, exec (.handleUpdate m) s = .next u ∧ back u (.data 0) ∧
          (w.toNat % 4 = 1 ∨ 1 < pins → others u ∧ word u (pins - 1) (w.toNat % 4) gen) ∧
          (w.toNat % 4 = 2 → pins = 1 → plain → others u ∧ reclaimed u 0)) ∧
        (op = 4 ∨ op = 6 → ∃ u, exec (.handleUpdate m) s = .next u ∧ u.mem = s.mem ∧ u.cores = s.cores) ∧
        (2 ≤ op → op ≠ 4 → op ≠ 6 → ∃ u, exec (.handleUpdate m) s = .next u ∧ back u (.data 0) ∧
          (w.toNat % 4 = 2 → u.mem = s.mem) ∧
          (w.toNat % 4 = 1 → 1 ≤ pins → others u ∧ word u pins 2 gen) ∧
          (w.toNat % 4 = 1 → pins = 0 → plain → others u ∧ reclaimed u 0)))) ∧
  (
    ∀ (s : State) (m : Nat) (x : Msg) (h : Word) (a : Nat) (r : Arena) (bs : List Byte), s.arrived m = some x → x.body = .depot h →
      s.net.head? = some x →
      let t := bindTen x.org.bind
      s.handleValid t h = some a → (s.hub.arenas.find? fun y => y.ten == t && y.idx == h.toNat % 2 ^ 24) = some r →
      s.arenaBytes t r.lo r.bytes = some bs →
        let v := s.hubUsed t (BitVec.ofNat 64 r.lo) r.bytes .read
        let kept := fun (u : State) => SameMemBut v u (a + 8) 8 ∧ u.mem64 (a + 8) = s.mem64 (a + 8) ||| 64
        let held := s.hub.images.any fun y => y.key == r.key
        let mib := (16 * ((r.bytes + 15) / 16) + 80 + 2 ^ 20 - 1) / 2 ^ 20
        ∃ u, exec (.depotImagePersist m) s = .next u ∧ u.threads = s.threads ∧ u.cores = s.cores ∧ NetTakes s u m ∧
          (held = true → kept u ∧ u.hub = v.hub) ∧
          (held = false → s.iquota t < mib → u.mem = v.mem ∧ u.hub = v.hub) ∧
          (held = false → s.hub.iused t + mib ≤ s.iquota t → kept u ∧
            ∃ i, u.hub.images = s.hub.images ++ [i] ∧ i.key = r.key ∧ i.persistent = true ∧ i.intact = true ∧
              i.size = (v.mem64 (a + 16)).toNat % 2 ^ 32 ∧ i.body.length = (r.bytes + 15) / 16 ∧
              ∀ j, j < bs.length → j < r.bytes → (bytesOfNat 8 ((i.body.getD (j / 16) (0, 0)).1.toNat) ++
                bytesOfNat 8 ((i.body.getD (j / 16) (0, 0)).2.toNat)).getD (j % 16) 0 = bs.getD j 0))

/-- R346 to R348, R350 to R353: routing engines at the arrival of tokens. A routed context joins the send list of its first valid choice
in its OPEN transaction, or opens the next one of its slot; waits at its port while the engine holds 4,096; goes home unplaced with
OUT 1 when no choice is left, with OUT 2 from an aborted transaction; an invalid choice counts in INV and in RDIR. A send list whose
oldest token has waited 128 cycles is flushed: a batch header goes to the owner core; where the expert's entry has become invalid, its
tokens move on. A header is answered with the tokens that CAP still admits, and with none by a core of another tenant or with 16
intake entries. Admitted tokens migrate to the owner; the others, and a context that comes back, move on to their next choice, or go
home where their transaction has ended: OUT 2, after a commit OUT 1 (assumption log 76). R350 to R352, R348: routing engines at the
end of tokens. A row of an OPEN transaction is staged and acknowledged, of any other discarded, and its context goes home in either
case; a row beyond the tenant's staging aborts with reason 3. An rcommit is counted, and with it the transaction commits once its
waits and its acknowledgements are complete: the staged row is in memory, the waiter receives 0; one that names another transaction,
or another count, is the access fault; a transaction that has ended answers at once. An rabort answers the state before it and aborts
an OPEN transaction. The end of a transaction frees its intake entries at an owner core. Assumption log 59 and 76. -/
def Obligations.RoutingEvents : Prop :=
  (
    let home := fun (s u : State) (ctx : Context) (r : Routing) => Sends s u r.home (.context { ctx with route := some r, basket := [] })
    let still := fun (s u : State) => u.threads = s.threads ∧ u.mem = s.mem
    let redirected := fun (s u : State) (d : Nat) (ctx : Context) (r : Routing) =>
      let t := bindTen ctx.bind
      let tx := s.txn d t r.x
      let live := tx.seq = r.x.toNat / 64 % 2 ^ 26 ∧ tx.state = 1
      let ended := tx.seq = r.x.toNat / 64 % 2 ^ 26 ∧ tx.state = 0
      (¬ live → home s u ctx { r with out := if ended then 1 else 2 }) ∧
      (live → r.choices.drop 1 = [] → home s u ctx { r with rdir := r.rdir + 1, choices := [], out := 1 }) ∧
      (∀ i e q w, live → r.choices.drop 1 = (i, e) :: q → s.expert t e = some w → Tab.find tx.lists e = none →
        Tab.find (u.txn d t r.x).lists e =
          some ([{ ctx with route := some { r with rdir := r.rdir + 1, choices := (i, e) :: q } }], s.cycle))
    (∀ (s : State) (m d : Nat) (x : Msg) (ctx : Context) (r : Routing), s.arrived m = some x → x.body = .routeIn ctx → d < 4 →
      x.dst = 16385 + d → ctx.route = some r →
      let t := bindTen ctx.bind
      let tx := s.txn d t r.x
      let seq := r.x.toNat / 64 % 2 ^ 26
      let ctx' := { ctx with bad := ctx.bad || s.basketBad x ctx }
      (s.basketHere x ctx = false → exec (.routeArrival m) s = .next s) ∧ (s.basketHere x ctx = true →
      (4096 ≤ s.engineHolds d → ∃ u, exec (.routeArrival m) s = .next u ∧ OfferedLater s u x) ∧
      (s.engineHolds d < 4096 →
        (∀ i e q w, r.choices = (i, e) :: q → s.expert t e = some w →
          (∀ old since, tx.seq = seq → tx.state = 1 → Tab.find tx.lists e = some (old, since) → old.length < 31 →
            ∃ u, exec (.routeArrival m) s = .next u ∧ still s u ∧ NetTakes s u m ∧
              Tab.find (u.txn d t r.x).lists e = some (old ++ [ctx'], since) ∧
              Tab.findD (u.txn d t r.x).seqs e 0 = Tab.findD tx.seqs e 0 + 1) ∧
          (tx.state ≠ 1 → (tx.seq + 1) % 2 ^ 26 = seq → ∃ u, exec (.routeArrival m) s = .next u ∧ still s u ∧ NetTakes s u m ∧
            (u.txn d t r.x).seq = seq ∧ (u.txn d t r.x).state = 1 ∧ (u.txn d t r.x).lists = [(e, [ctx'], s.cycle)])) ∧
        (∀ i e, r.choices = [(i, e)] → s.expert t e = none → tx.seq = seq → tx.state = 1 →
          ∃ u, exec (.routeArrival m) s = .next u ∧ still s u ∧ home s u ctx' { r with inv := r.inv + 1, rdir := r.rdir + 1, choices := [], out := 1 }) ∧
        (tx.seq = seq → tx.state = 2 → ∃ u, exec (.routeArrival m) s = .next u ∧ still s u ∧ home s u ctx' { r with out := 2 })))) ∧
    (∀ (s : State) (d n e since : Nat) (tx : Txn) (l : List Context), Tab.find (s.die d).txns n = some tx → tx.lists = [(e, l, since)] →
      (s.cycle < since + 128 → exec (.sendListFlushTimeout d n) s = .next s) ∧
      (∀ w, since + 128 ≤ s.cycle → s.expert (n / 64) e = some w → tx.seq < 2 ^ 26 → n < 4096 →
        let x := BitVec.ofNat 64 (tx.seq * 64 + n % 64)
        ∃ u, exec (.sendListFlushTimeout d n) s = .next u ∧ Quiet s u ∧ (u.txn d (n / 64) x).lists = [] ∧
          (u.txn d (n / 64) x).out = tx.out ++
            [{ expert := e, owner := w.toNat % 2 ^ 20, fseq := Tab.findD tx.seqs e 0 - l.length, toks := l }] ∧
          Sends s u (fld w 0 14) (.batch x e l.length (fld w 20 6) (Tab.findD tx.seqs e 0 - l.length))) ∧
      (∀ c r, since + 128 ≤ s.cycle → s.expert (n / 64) e = none → tx.seq < 2 ^ 26 → n < 4096 → l = [c] → c.route = some r →
        r.choices.drop 1 = [] → bindTen c.bind = n / 64 → ∃ u, exec (.sendListFlushTimeout d n) s = .next u ∧ Quiet s u ∧
          (u.txn d (n / 64) (BitVec.ofNat 64 (tx.seq * 64 + n % 64))).lists = [] ∧
          home s u c { r with inv := r.inv + 1, rdir := r.rdir + 1, choices := [], out := 1 })) ∧
    (∀ (s : State) (m e count cap sq : Nat) (x : Word) (b : Msg), s.arrived m = some b → b.body = .batch x e count cap sq →
      let k := s.core b.dst
      let is := fun (i : Intake) => i.x == x && i.engine == b.src && i.expert == e
      let answer := fun (u : State) (n : Nat) => u.threads = s.threads ∧ u.mem = s.mem ∧ Sends s u b.src (.batchAns x e sq n)
      (s.coreTenant b.dst ≠ some b.ten ∨ k.intake.any is = false ∧ 16 ≤ k.intake.length →
        ∃ u, exec (.batchHeader m) s = .next u ∧ answer u 0 ∧ u.cores = s.cores) ∧
      (s.coreTenant b.dst = some b.ten → k.intake.any is = false → k.intake.length < 16 → ∃ u, exec (.batchHeader m) s = .next u ∧
        answer u (min count cap) ∧ (u.core b.dst).intake = k.intake ++ [{ x := x, engine := b.src, expert := e, taken := min count cap }]) ∧
      (∀ i, s.coreTenant b.dst = some b.ten → k.intake = [i] → is i = true → ∃ u, exec (.batchHeader m) s = .next u ∧
        answer u (min count (cap - i.taken)) ∧
        (u.core b.dst).intake = [{ i with taken := i.taken + min count (cap - i.taken) }])) ∧
    (∀ (s : State) (m d e sq a o : Nat) (x : Word) (b : Msg) (l : List Context), s.arrived m = some b → b.body = .batchAns x e sq a → d < 4 →
      b.dst = 16385 + d →
      let tx := s.txn d b.ten x
      tx.seq = x.toNat / 64 % 2 ^ 26 → tx.out = [{ expert := e, owner := o, fseq := sq, toks := l }] →
      (l.length ≤ a → ∃ u, exec (.batchAnswer m) s = .next u ∧ Quiet s u ∧ (u.txn d b.ten x).out = [] ∧
        ∀ c ∈ l, ∃ y ∈ u.net, y.dst = o % 16384 ∧ y.dmod = o / 16384 ∧ y.body = .context c ∧ s.fresh ≤ y.id) ∧
      (∀ c r, l = [c] → a = 0 → c.route = some r → r.x = x → bindTen c.bind = b.ten →
        ∃ u, exec (.batchAnswer m) s = .next u ∧ Quiet s u ∧ redirected s u d c r)) ∧
    (∀ (s : State) (m d : Nat) (x : Msg) (ctx : Context) (r : Routing), s.arrived m = some x → x.body = .routedBack ctx → d < 4 →
      x.dst = 16385 + d → ctx.route = some r →
      ∃ u, exec (.routedContextReturn m) s = .next u ∧ Quiet s u ∧ NetTakes s u m ∧ redirected s u d ctx r)) ∧
  (
    ∀ (s : State) (m d : Nat) (b : Msg), s.arrived m = some b →
      let still := fun (u : State) => u.threads = s.threads ∧ u.mem = s.mem
      (d < 4 → b.dst = 16385 + d →
        (∀ ctx r, b.body = .rrow ctx → ctx.route = some r →
          let t := bindTen ctx.bind
          let tx := s.txn d t r.x
          let live := tx.seq = r.x.toNat / 64 % 2 ^ 26 ∧ tx.state = 1
          let fits := s.staged d t + ctx.basket.length ≤ (s.tenantWord t 8).toNat
          let home := fun (u : State) => Sends s u r.home (.context { ctx with route := none, basket := [], bad := false })
          let pa := localPa r.home ctx.basketOff
          (s.basketHere b ctx = false → exec (.rhomeRow m) s = .next s) ∧ (s.basketHere b ctx = true →
          (¬ live → ∃ u, exec (.rhomeRow m) s = .next u ∧ still u ∧ home u ∧ u.txn d t r.x = tx) ∧
          (live → fits → tx.n = 0 → ∃ u, exec (.rhomeRow m) s = .next u ∧ still u ∧ home u ∧
            u.txn d t r.x = { tx with
              ack := tx.ack + 1, rows := tx.rows ++ [(pa, ctx.basket)]
              badRows := if ctx.bad || s.basketBad b ctx then (sectorsIn pa ctx.basket.length).foldl insertNat tx.badRows else tx.badRows }) ∧
          (live → ¬ fits → (∀ w ∈ tx.waiters, w.1.core < 16384) → ∃ u, exec (.rhomeRow m) s = .next u ∧ still u ∧ home u ∧ (u.txn d t r.x).state = 2 ∧
            (u.txn d t r.x).reason = 3 ∧ (u.txn d t r.x).rows = []))) ∧
        (∀ x count th acc, b.body = .rcommit x count → s.bound b.org = some th → th.acc = some acc → acc.id = m → b.org.core < 16384 →
          let tx := s.txn d b.ten x
          let answer := fun (u : State) (a : Answer) => Answered s u b.dst b.org m a
          let same := fun (u : State) => still u ∧ u.txn d b.ten x = tx
          (tx.seq ≠ x.toNat / 64 % 2 ^ 26 ∨ tx.state = 1 ∧ tx.n ≠ 0 ∧ tx.n ≠ count →
            ∃ u, exec (.rcommitArrival m) s = .next u ∧ same u ∧ answer u (.fault { code := 0x03 })) ∧
          (tx.seq = x.toNat / 64 % 2 ^ 26 →
            (tx.state = 0 → ∃ u, exec (.rcommitArrival m) s = .next u ∧ same u ∧ answer u (.data 0)) ∧
            (tx.state = 2 → ∃ u, exec (.rcommitArrival m) s = .next u ∧ same u ∧ answer u (.data 1)) ∧
            (tx.state = 1 → tx.n = 0 ∨ tx.n = count → 0 < count →
              (tx.wait + 1 ≠ count ∨ tx.ack ≠ tx.sent → ∃ u, exec (.rcommitArrival m) s = .next u ∧ still u ∧
                u.txn d b.ten x = { tx with n := count, wait := tx.wait + 1, waiters := tx.waiters ++ [(b.org, m)] }) ∧
              (∀ pa bs, tx.wait + 1 = count → tx.ack = tx.sent → tx.rows = [(pa, bs)] → tx.waiters = [] →
                ∃ u, exec (.rcommitArrival m) s = .next u ∧ u.threads = s.threads ∧ (u.txn d b.ten x).state = 0 ∧ answer u (.data 0) ∧
                  SameMemBut s u pa bs.length ∧ (∀ i < bs.length, Mem.read u.mem (pa + i) = bs.getD i 0) ∧
                  ∀ c r, tx.contexts = [c] → c.route = some r →
                    Sends s u r.home (.context { c with route := some { r with out := 1 }, basket := [] }))))) ∧
        (∀ x, b.body = .rabort x → b.org.core < 16384 →
          let tx := s.txn d b.ten x
          ∃ u, exec (.rabortArrival m) s = .next u ∧ u.mem = s.mem ∧ Answered s u b.dst b.org m (.data tx.state) ∧
            (tx.seq = x.toNat / 64 % 2 ^ 26 → tx.state = 1 → (u.txn d b.ten x).state = 2 ∧ (u.txn d b.ten x).reason = 1 ∧
              ∀ w ∈ tx.waiters, w.1.core < 16384 → Answered s u b.dst w.1 w.2 (.data 1)) ∧
            (tx.seq ≠ x.toNat / 64 % 2 ^ 26 ∨ tx.state ≠ 1 → u.txn d b.ten x = tx))) ∧
      (∀ x, b.body = .txEnd x → ∃ u, exec (.transactionEndNotice m) s = .next u ∧ QuietBut s u b.dst ∧ NetTakes s u m ∧
        (u.core b.dst).intake = (s.core b.dst).intake.filter fun i => !(i.x == x && i.engine == b.src)))

/-- R367, R369, R370: the first record that waits at a core is offered to its target: the own queue while it holds fewer than eight, or an
enabled mailbox of an office core that is not full, which takes the record's 64 bytes and counts it; a target that is full is offered
the record again 64 cycles later. R27, R329, R371, R372: RESUME of a parked or halted thread makes it runnable at its program counter,
not before the 8th cycle after its last issue; END frees its slot, or with handles on its stack has it unpin them first; HALT of a
running one takes effect at its next boundary; STEP lets a halted one issue one bundle. Any of them on a free slot, and RESUME, END
and STEP of a thread that is not stopped or has been ended, raise the illegal-instruction exception in the hart and change nothing
else, as any of them from user mode does. Where one of these rows rests on a hart: assumption log 90. -/
def Obligations.FaultRecords : Prop :=
  (
    ∀ (s : State) (c : Nat) (r : Record) (l : List Record), (s.core c).waiting = r :: l →
      let later := fun (u : State) => QuietBut s u c ∧ (u.core c).waiting = { r with next := s.cycle + 64 } :: l
      let oc := r.ftgt.toNat / 2 ^ 10 % 2 ^ 14
      let mb := r.ftgt.toNat / 2 ^ 24 % 2 ^ 6
      let m := s.mailbox oc mb
      let boxed := r.ftgt.getLsbD 0 = true ∧ s.isOffice oc = true ∧ m.en = true
      let pa := localPa oc (m.w0.toNat % 2 ^ 18 + 64 * (m.wr % 2 ^ m.lsize))
      let does := fun (i : Instr) =>
        (¬ boxed →
          ((s.core c).recq.length < 8 → ∃ u, exec i s = .next u ∧ QuietBut s u c ∧ (u.core c).waiting = l ∧
            (u.core c).recq = (s.core c).recq ++ [{ r with redir := r.ftgt.getLsbD 0, next := 0 }]) ∧
          (8 ≤ (s.core c).recq.length → ∃ u, exec i s = .next u ∧ later u)) ∧
        (boxed → oc ≠ c →
          (m.full = false → r.raw = [] ∨ r.raw.length = 8 → ∃ u, exec i s = .next u ∧ u.threads = s.threads ∧ (u.core c).waiting = l ∧ SameMemBut s u pa 64 ∧
            u.mailbox oc mb = { m with wr := (m.wr + 1) % 2 ^ 32 } ∧
            (r.raw = [] → r.slot < 16 → r.code < 256 → r.core < 2 ^ 14 → r.ten < 64 → r.cls < 4 →
              u.mem64 pa = BitVec.ofNat 64 (r.code + r.slot * 2 ^ 8 + (if r.orphan then 2 ^ 15 else 0) + r.core * 2 ^ 16 + r.ten * 2 ^ 32 + r.cls * 2 ^ 40) ∧
              u.mem64 (pa + 8) = r.pc ∧ u.mem64 (pa + 16) = r.a ∧ u.mem64 (pa + 24) = r.v ∧ u.mem64 (pa + 32) = r.addr ∧
              u.mem64 (pa + 40) = r.aux0 ∧ u.mem64 (pa + 48) = r.aux1 ∧ u.mem64 (pa + 56) = BitVec.ofNat 64 r.stamp)) ∧
          (m.full = true → ∃ u, exec i s = .next u ∧ later u))
      (r.next = 0 → does (.faultRecordDelivery c)) ∧ (r.next ≠ 0 → r.next ≤ s.cycle → does (.recordRedelivery c)) ∧
      (s.cycle < r.next → l = [] → exec (.recordRedelivery c) s = .next s)) ∧
  (
    ∀ (s : State) (p : Nat),
      let sel := (s.porter p).dvsel
      let c := sel.toNat % 2 ^ 14
      let k := sel.toNat / 2 ^ 14 % 2 ^ 14 / 64
      let illegal := fun (i : Instr) => ∃ u, exec i s = .next u ∧ { u with porters := s.porters } = s ∧ (u.porter p).illegal = true
      ((s.porter p).hart.priv = 0 → illegal (.resume p) ∧ illegal (.endThread p) ∧ illegal (.halt p) ∧ illegal (.stepThread p)) ∧
      ((s.porter p).hart.priv ≠ 0 → sel.toNat < 2 ^ 28 →
      (s.thr c k = none → illegal (.resume p) ∧ illegal (.endThread p) ∧ illegal (.halt p) ∧ illegal (.stepThread p)) ∧
      (∀ t, s.thr c k = some t → (s.core c).cmds = [] → t.stopBar = none →
        let enters := fun (q : Thread) => if t.ready ≤ s.cycle then { q with st := .runnable, key := s.cycle } else { q with st := .waiting .resume true }
        let goes := fun (i : Instr) (q : Thread) => ∃ u, exec i s = .next u ∧ (u.porter p).illegal = false ∧ u.thr c k = some q ∧
          SlotOnly { s with porters := u.porters } u c k
        (t.endAt = true → illegal (.resume p) ∧ illegal (.endThread p) ∧ illegal (.stepThread p)) ∧
        (t.st = .parked ∨ t.st = .halted → goes (.halt p) t) ∧
        (t.st = .parked ∨ t.st = .halted → t.endAt = false →
          goes (.resume p) (enters { t with refusals := 0, stepping := false }) ∧ (t.hs ≠ [] → goes (.endThread p) { t with endAt := true }) ∧
          (t.link = none → t.hs = [] → t.solo = false → s.launchOf t.bind = none → ∃ u, exec (.endThread p) s = .next u ∧ u.thr c k = none ∧
            u.mem = s.mem ∧ ∀ key, key ≠ slotKey c k → Tab.find u.threads key = Tab.find s.threads key)) ∧
        (t.st = .halted → t.endAt = false → goes (.stepThread p) (enters { t with stepping := true })) ∧
        (t.st = .parked → illegal (.stepThread p)) ∧
        (t.st = .runnable → goes (.halt p) { t with haltAt := true } ∧ illegal (.resume p) ∧ illegal (.endThread p) ∧ illegal (.stepThread p)))))

/-- R363 to R366, R370, R421, R431, R437: a porter's accesses to the device registers. dvsel takes a selector that is in range; dvdata
reads and writes the selected word: a thread's registers while it is parked or halted, the core's words, a record queue pop, the
partition word of an empty core, the module id while no peer link is up, an image quota; any other access, and any access from user
mode, is the illegal-instruction exception in the hart and changes nothing else. R362: a porter's aligned load or store of 1, 2, 4 or
8 bytes reads or writes the bytes of local memory, and of device memory in a frame that has a home slice; a misaligned access, and one
outside the physical map, raise the access exception in the hart and change nothing else. R361, R363, R373: the hart of a porter. Its
local interrupt 16 is pending exactly while a record awaits the porter. A user-mode read or write of a device register by number is an
illegal instruction. An exception of the hart goes to its own trap vector, of supervisor mode where it is delegated and the hart is
below machine mode, with the program counter, the cause and the value saved, and touches no thread. Reach of a selector, reserved
words, misaligned accesses: assumption log 39 to 41; the exceptions of a hart: log 90. -/
def Obligations.PorterAccesses : Prop :=
  (
    ∀ (s : State) (p : Nat) (v : Word),
      let sel := (s.porter p).dvsel
      let c := sel.toNat % 2 ^ 14
      let j := sel.toNat / 2 ^ 14 % 2 ^ 14
      let unit := sel.toNat / 2 ^ 28 % 16
      let illegal := fun (i : Instr) => ∃ u, exec i s = .next u ∧ { u with porters := s.porters } = s ∧ (u.porter p).illegal = true
      let core := fun (i : Instr) (q : Core) => ∃ u, exec i s = .next u ∧ (u.porter p).illegal = false ∧ QuietBut s u c ∧ u.core c = q ∧ u.hub = s.hub
      let hub := fun (i : Instr) (q : Hub) => ∃ u, exec i s = .next u ∧ (u.porter p).illegal = false ∧ Quiet s u ∧ u.hub = q
      let reads := fun (x : Word) => ∃ u, exec (.dvdataWrite p 0x15C1 v) s = .next u ∧ { u with porters := s.porters } = s ∧
        (u.porter p).lastRead = x ∧ (u.porter p).illegal = false
      ((s.porter p).hart.priv = 0 → illegal (.recordQueuePop p) ∧ illegal (.partitionWrite p v) ∧ illegal (.moduleIdWrite p v) ∧
        illegal (.imageQuotaWrite p v) ∧ ∀ csr, illegal (.dvdataWrite p csr v)) ∧
      ((s.porter p).hart.priv ≠ 0 →
      (s.selOk p v = true → ∃ u, exec (.dvdataWrite p 0x5C0 v) s = .next u ∧ { u with porters := s.porters } = s ∧ (u.porter p).dvsel = v) ∧
      (s.selOk p v = false → illegal (.dvdataWrite p 0x5C0 v)) ∧
      (∃ u, exec (.dvdataWrite p 0x1DC0 v) s = .next u ∧ { u with porters := s.porters } = s ∧
        (u.porter p).lastRead = BitVec.ofNat 64 (p + s.modid * 2 ^ 14 + if s.isOffice p then 2 ^ 20 else 0)) ∧
      (∀ k t w, unit = 0 → j = 64 * k + w → s.thr c k = some t → 1 ≤ w → w < 16 →
        (t.st = .parked ∨ t.st = .halted → reads (t.g.toList.getD w 0) ∧ ∃ u t', exec (.dvdataWrite p 0x5C1 v) s = .next u ∧
          u.thr c k = some t' ∧ { t' with g := t.g } = t ∧ ∀ r, t'.reg r = if r.toNat = w then v else t.reg r) ∧
        (t.st = .runnable → illegal (.dvdataWrite p 0x15C1 v) ∧ illegal (.dvdataWrite p 0x5C1 v))) ∧
      (unit = 3 → j = 2 → reads (BitVec.ofNat 64 (s.core c).retry) ∧
        (1 ≤ v.toNat → v.toNat < 2 ^ 16 → core (.dvdataWrite p 0x5C1 v) { s.core c with retry := v.toNat }) ∧
        (v = 0 ∨ 2 ^ 16 ≤ v.toNat → illegal (.dvdataWrite p 0x5C1 v))) ∧
      (unit = 3 → j = 5 → core (.recordQueuePop p) { s.core c with recq := (s.core c).recq.drop 1 }) ∧
      (unit = 3 → j = 4 →
        (v.toNat < 2 ^ 7 → s.coreEmpty c = true → (s.core c).homing = [] → core (.partitionWrite p v) { s.core c with part := v }) ∧
        (2 ^ 7 ≤ v.toNat ∨ s.coreEmpty c = false → illegal (.partitionWrite p v))) ∧
      (unit = 5 → j = 1024 → s.isOffice p = true →
        (v.toNat < 2 ^ 7 → (∀ x ∈ s.hub.links, x.2.getLsbD 6 = false) → hub (.moduleIdWrite p v) { s.hub with modid := v }) ∧
        (2 ^ 7 ≤ v.toNat ∨ (∃ x ∈ s.hub.links, x.2.getLsbD 6 = true) → illegal (.moduleIdWrite p v))) ∧
      (∀ t, unit = 5 → t < 64 → j = 16 * t + 15 → s.isOffice p = true →
        let q := v.toNat % 2 ^ 16
        (v.toNat / 2 ^ 16 % 2 ^ 16 = 0 → v.toNat < 2 ^ 48 → s.depotTotal t (s.tenantWord t 9).toNat q ≤ 224 * 2 ^ 30 → s.hub.iused t ≤ q →
          hub (.imageQuotaWrite p v) { s.hub with tenants := Tab.put s.hub.tenants j (BitVec.ofNat 64 q) }) ∧
        (224 * 2 ^ 30 < s.depotTotal t (s.tenantWord t 9).toNat q → illegal (.imageQuotaWrite p v))) ∧
      (unit ≠ 3 → illegal (.recordQueuePop p) ∧ illegal (.partitionWrite p v)) ∧
      (unit ≠ 5 → illegal (.moduleIdWrite p v) ∧ illegal (.imageQuotaWrite p v)))) ∧
  (
    ∀ (s : State) (p pa n : Nat) (v : Word),
      let good := (n = 1 ∨ n = 2 ∨ n = 4 ∨ n = 8) ∧ pa % n = 0
      let frame := pa % Config.dieBytes / Config.frameBytes
      let place := (∃ c < 16384, ∃ off < 2 ^ 18, pa = localPa c off) ∨
        pa < 4 * Config.dieBytes ∧ frame + 1 < Config.frames ∧ (s.homeOf (s.fat (pa / Config.dieBytes) frame) pa).isSome = true
      (good → place →
        (s.poisoned pa n = false → ∃ u, exec (.porterAccess p pa n false v) s = .next u ∧ u.mem = s.mem ∧ u.threads = s.threads ∧
          (u.porter p).accessFault = false ∧ (u.porter p).lastRead = BitVec.ofNat 64 (s.memNat pa n)) ∧
        (∃ u, exec (.porterAccess p pa n true v) s = .next u ∧ u.threads = s.threads ∧ (u.porter p).accessFault = false ∧
          SameMemBut s u pa n ∧ ∀ i < n, Mem.read u.mem (pa + i) = BitVec.ofNat 8 (v.toNat / 2 ^ (8 * i)))) ∧
      (¬ good ∨ 4 * Config.dieBytes ≤ pa ∧ pa < Config.localBase ∨ Config.localBase + 2 ^ 32 ≤ pa ∧ pa < Config.accBase → ∀ wr,
        ∃ u, exec (.porterAccess p pa n wr v) s = .next u ∧ { u with porters := s.porters } = s ∧ (u.porter p).accessFault = true)) ∧
  (
    ∀ (s : State) (p : Nat),
      (s.mip p).getLsbD 16 = s.interrupt16 p ∧
      ((s.hart p).priv = 0 → ∀ n ∈ [0x5C0, 0x5C1, 0x5C2, 0x5C3, 0xDC0], s.csrRead p n = none ∧ ∀ v, s.csrWrite p n v = none) ∧
      ∀ cause value, cause < 16 →
        let h := s.hart p
        let u := s.hartTrap p cause false value
        let enters := fun (mode vector epc : Nat) => (u.hart p).priv = mode ∧ (u.hart p).pc = h.held vector &&& ~~~3 ∧
          (u.hart p).held epc = h.pc ∧ (u.hart p).held (epc + 1) = BitVec.ofNat 64 cause ∧ (u.hart p).held (epc + 2) = value
        { u with porters := s.porters } = s ∧
        (h.priv ≤ 1 → (h.held 0x302).getLsbD cause = true → enters 1 0x105 0x141) ∧
        (¬ (h.priv ≤ 1 ∧ (h.held 0x302).getLsbD cause = true) → enters 3 0x305 0x341))

/-- R392, R393, R396, R398 to R400: the walk of a waiting thread: a leaf in host memory sets A and D as walked, fills the slice's
translation cache and the thread goes on; a leaf of 2 MiB or 1 GiB in a MAPPED frame of the tenant sets the frame's A as well; a leaf
of another size over device memory is the access fault (of 512 GiB and more: assumption log 75); a page fault enters a page request in
entry 0 of a table with nothing pending, and is offered again 64 cycles later, without a new walk, by a full table; the office's
answer 1 lets the waiter go on, 2 gives it code 0x04 with its own address, either frees the entry, any other leaves it pending.
Assumption log 29, 43, 75, 78 and 91. -/
def Obligations.PageEvents : Prop :=
  (∀ (s : State) (m : Nat) (x : Msg) (va : Nat) (wr ex : Bool) (c k uid : Nat) (t : Thread), s.msg m = some x →
    x.body = .walk va wr ex (.thread c k uid) → s.thr c k = some t → t.uid = uid → t.st = .waiting .walk false →
    let d := dieOf x.dst
    let kind : Kind := if ex then .exec else if wr then .write else .read
    let woken := fun (u : State) => ∃ t', u.thr c k = some t' ∧ t'.st = .waiting .walk true ∧ t'.g = t.g ∧ t'.pc = t.pc ∧ t'.acc = t.acc
    let walked := fun (i : Instr) =>
      (∀ a pte base shift, s.walk d x.ten va kind = .leaf a pte base shift →
        let pa := s.fromHost d x.ten (base + va % 2 ^ shift)
        let f := pa % Config.dieBytes / Config.frameBytes
        let fd := pa / Config.dieBytes
        let filled := fun (u : State) (e : Tlb) => (u.core x.dst).tlb.getLast? = some e ∧ e.ten = x.ten ∧ e.wr = (pte.getLsbD 2 && pte.getLsbD 7) ∧
          e.rd = pte.getLsbD 1 ∧ e.ex = pte.getLsbD 3
        (Config.hostBase ≤ pa → ∃ u e, exec i s = .next u ∧ woken u ∧ NetTakes s u m ∧ u.mem = Mem.writeN s.mem a (bytesOfNat 8 pte.toNat) ∧
          filled u e ∧ e.vpn = va / 2 ^ min shift 30 ∧ e.shift = min shift 30 ∧ e.leaf = shift ∧
          e.pa = s.fromHost d x.ten (base + va % 2 ^ shift / 2 ^ min shift 30 * 2 ^ min shift 30) ∧ e.attr = none) ∧
        (pa < 4 * Config.dieBytes → shift ≠ 21 ∧ shift ≠ 30 → ∃ u, exec i s = .next u ∧ NetTakes s u m ∧ u.mem = s.mem ∧ ∃ t' q, u.thr c k = some t' ∧
          t'.st = .waiting .walk true ∧ t'.acc = some q ∧
          q.ans = .fault { code := 0x03, addr := if ex then BitVec.ofNat 64 va else 0, aux0 := 5 }) ∧
        (pa < 4 * Config.dieBytes → shift = 21 ∨ shift = 30 → fatState (s.fat fd f) = 1 → fatTen (s.fat fd f) = x.ten → ∃ u e, exec i s = .next u ∧
          woken u ∧ NetTakes s u m ∧
          u.mem = Mem.writeN (Mem.writeN s.mem a (bytesOfNat 8 pte.toNat)) (fatAddr fd f) (bytesOfNat 8 (s.fat fd f ||| BitVec.ofNat 64 (2 ^ 33)).toNat) ∧
          filled u e ∧ e.vpn = va / 2 ^ 21 ∧ e.shift = 21 ∧ e.pa = pa / 2 ^ 21 * 2 ^ 21 ∧ e.attr = some (s.fat fd f)))
    let asks := fun (i : Instr) => t.chunk = none →
        ((∀ e < 256, s.pagePending d e = false) → d < 4 → x.ten < 64 → x.org.core < 16384 →
          s.recordsFull x.org.core = false → ∃ u, exec i s = .next u ∧ NetTakes s u m ∧
          u.threads = s.threads ∧ u.pagePending d 0 = true ∧ u.mem64 (pageReq d 0 0) = BitVec.ofNat 64 (va % 2 ^ 57) ∧
          (u.die d).pageWaiters = Tab.put (s.die d).pageWaiters 0 (Tab.findD (s.die d).pageWaiters 0 [] ++ [.thread c k uid]) ∧
          u.mem64 (pageReq d 0 1) = BitVec.ofNat 64 (x.ten + (if ex then 2 ^ 8 else if wr then 2 ^ 7 else 2 ^ 6) + x.org.core * 2 ^ 10 + 2 ^ 24 + 2 ^ 32) ∧
          ∃ r, (u.core x.org.core).waiting = (s.core x.org.core).waiting ++ [r] ∧ r.raw.length = 8) ∧
        ((∀ e < 256, s.pagePending d e = true ∧ fld (s.mem64 (pageReq d e 0)) 12 45 ≠ va / 4096) →
          ∃ u y, exec i s = .next u ∧ u.threads = s.threads ∧ u.mem = s.mem ∧ y ∈ u.net ∧ y.id = x.id ∧ y.dst = x.dst ∧ y.body = x.body ∧
            y.stage = .wait (s.cycle + 64))
    (x.stage = .arrived → walked (.pageWalk m) ∧ (s.walk d x.ten va kind = .page → asks (.pageWalk m))) ∧
    (∀ n, x.stage = .wait n → m ≠ 0 → (n ≤ s.cycle → asks (.pageRequestResend m)) ∧ (s.cycle < n → exec (.pageRequestResend m) s = .next s))) ∧
  (∀ s : State, s.hub.writes = [] → exec (.pageRequestResend 0) s = .next s) ∧
  (∀ (s : State) (d e c k uid ans : Nat) (t : Thread), d < 4 → e < 256 → s.pagePending d e = true → s.thr c k = some t → t.uid = uid →
    t.st = .waiting .walk false → Tab.findD (s.die d).pageWaiters e [] = [.thread c k uid] →
    let w1 := s.mem64 (pageReq d e 1)
    let kind := BitVec.ofNat 64 ((if w1.getLsbD 7 then 1 else 0) + (if w1.getLsbD 8 then 2 else 0))
    let refusal : FaultInfo := { code := 0x04, addr := BitVec.ofNat 64 (t.w1.toNat % 2 ^ 57), aux0 := kind }
    let frees := fun (u : State) => u.pagePending d e = false ∧ SameMemBut s u (pageReq d e 1) 16 ∧
      u.mem64 (pageReq d e 2) = BitVec.ofNat 64 (ans % 4) ∧ Tab.find (u.die d).pageWaiters e = none
    (ans % 4 = 1 → ∃ u t', exec (.pageRequestAnswer d e ans) s = .next u ∧ frees u ∧ u.thr c k = some t' ∧ t'.st = .waiting .walk true ∧ t'.acc = t.acc) ∧
    (ans % 4 = 2 → ∃ u t' a, exec (.pageRequestAnswer d e ans) s = .next u ∧ frees u ∧ u.thr c k = some t' ∧ t'.st = .waiting .walk true ∧
      t'.acc = some a ∧ a.ans = .fault refusal) ∧
    (ans % 4 = 0 ∨ ans % 4 = 3 → ∃ u, exec (.pageRequestAnswer d e ans) s = .next u ∧ u.pagePending d e = true ∧ u.threads = s.threads)) ∧
  (∀ (s : State) (d e ans : Nat), s.pagePending d e = false → exec (.pageRequestAnswer d e ans) s = .next s)

/-- R395, R397, R404, R405: the states of a frame: FREE becomes MAPPED with the tenant and homing written, and the tenant's USED rises,
while USED is below its quota; MAPPED takes new homing under its tenant, or becomes SCRUB with its tenant and homing kept; any other
change of state is not stored, and reserved bits are not stored; a frame whose zeroing is complete reads zero, is FREE, and its
tenant's USED falls. R401 to R403: a shootdown that the host asks for takes the matching translations from every slice, squashes the
tenant's open chunk without counting, and waits; with no access left that was translated before it, its value stands in its completion
word. Reserved bits, and global entries: assumption log 42 and 44. -/
def Obligations.FramesAndShootdowns : Prop :=
  (
    ∀ (s : State) (d f : Nat), d < 4 → f + 1 < Config.frames →
      let e := s.fat d f
      let used := fun (s : State) (t : Nat) => (s.mem64 (tenRec d t 2)).toNat / 2 ^ 34 % 2 ^ 17
      let pa := d * Config.dieBytes + f * Config.frameBytes
      (∀ v,
        let t := v.toNat / 2 ^ 27 % 2 ^ 6
        let now := e.toNat / 2 ^ 34 % 4
        let new_ := v.toNat / 2 ^ 34 % 4
        (now = 0 → new_ = 1 → used s t < (s.mem64 (tenRec d t 2)).toNat / 2 ^ 17 % 2 ^ 17 →
          ∃ u, exec (.frameAttributeWrite d f v) s = .next u ∧ u.fat d f = BitVec.ofNat 64 (v.toNat % 2 ^ 36 / 2 ^ 10 * 2 ^ 10) ∧
            used u t = used s t + 1 ∧ ∀ g, g < Config.frames → g ≠ f → u.fat d g = s.fat d g) ∧
        (now = 0 → new_ = 1 → (s.mem64 (tenRec d t 2)).toNat / 2 ^ 17 % 2 ^ 17 ≤ used s t → exec (.frameAttributeWrite d f v) s = .next s) ∧
        (now = 1 → new_ = 2 → ∃ u, exec (.frameAttributeWrite d f v) s = .next u ∧
          u.fat d f = BitVec.ofNat 64 (e.toNat / 2 ^ 36 * 2 ^ 36 + 2 ^ 35 + e.toNat % 2 ^ 34) ∧ f ∈ (u.die d).scrubs ∧
          ∀ c, ∀ x ∈ (u.core c).tlb, ¬ (x.attr.isSome = true ∧ pa ≤ x.pa ∧ x.pa < pa + Config.frameBytes)) ∧
        (now = 1 → new_ = 1 → t = e.toNat / 2 ^ 27 % 2 ^ 6 → ∃ u, exec (.frameAttributeWrite d f v) s = .next u ∧
          u.fat d f = BitVec.ofNat 64 (v.toNat % 2 ^ 36 / 2 ^ 10 * 2 ^ 10) ∧ u.threads = s.threads) ∧
        (now = 1 → new_ = 1 → t ≠ e.toNat / 2 ^ 27 % 2 ^ 6 → exec (.frameAttributeWrite d f v) s = .next s) ∧
        (now = 0 ∧ 2 ≤ new_ ∨ now = 1 ∧ (new_ = 0 ∨ new_ = 3) ∨ 2 ≤ now → exec (.frameAttributeWrite d f v) s = .next s)) ∧
      (e.toNat / 2 ^ 34 % 4 = 2 → f ∈ (s.die d).scrubs → s.saving (256 * d + f % 256) = false →
        let t := e.toNat / 2 ^ 27 % 2 ^ 6
        1 ≤ used s t → ∃ u, exec (.frameScrubComplete d f) s = .next u ∧ (∀ i < Config.frameBytes, Mem.read u.mem (pa + i) = 0) ∧
          (u.fat d f).toNat / 2 ^ 34 % 4 = 0 ∧ used u t + 1 = used s t ∧ f ∉ (u.die d).scrubs) ∧
      (e.toNat / 2 ^ 34 % 4 ≠ 2 ∨ f ∉ (s.die d).scrubs ∨ s.saving (256 * d + f % 256) = true → exec (.frameScrubComplete d f) s = .next s)) ∧
  (
    (∀ (s : State) (t n : Nat), 1 ≤ n → n ≤ 64 → t < 64 →
      let a := s.fromHost 0 t ((s.mem64 (tenRec 0 t 4)).toNat + 32 * (n - 1))
      let va := (s.mem64 a).toNat % 2 ^ 57
      let w1 := s.mem64 (a + 8)
      let pages := w1.toNat % 2 ^ 32
      let asid := w1.toNat / 2 ^ 32 % 2 ^ 16
      ∃ u q, exec (.shootdownRequest t n) s = .next u ∧ u.mem = s.mem ∧ u.hub.shoots = s.hub.shoots ++ [q] ∧ q.ten = t ∧
        q.word = s.mem64 (a + 16) ∧ q.val = s.mem64 (a + 24) ∧
        (∀ c, ∀ x ∈ (s.core c).tlb,
          let lo := x.vpn * 2 ^ x.shift / 2 ^ x.leaf * 2 ^ x.leaf
          x ∈ (u.core c).tlb ↔ ¬ (x.ten = t ∧ (w1.getLsbD 63 = true ∨ x.asid = asid) ∧
            (pages = 0 ∨ lo < va + 4096 * pages ∧ va < lo + 2 ^ x.leaf))) ∧
        (∀ key th ck, Tab.find s.threads key = some th → bindTen th.bind = t → th.chunk = some ck →
          (s.threads.map (·.1)).Nodup → ∃ th', Tab.find u.threads key = some th' ∧ th'.chunk = none ∧ th'.g = ck.g ∧ th'.pc = ck.pc ∧
            th'.squash = th.squash)) ∧
    (∀ (s : State) (q : Shoot) (l : List Shoot), s.hub.shoots = q :: l →
      let pa := s.fromHost 0 q.ten q.word.toNat
      (s.accessBefore q.ten q.mark = false → ∃ u, exec (.shootdownComplete q.ten) s = .next u ∧ u.threads = s.threads ∧ u.hub.shoots = l ∧
        SameMemBut s u pa 8 ∧ u.mem64 pa = q.val) ∧
      (s.accessBefore q.ten q.mark = true → exec (.shootdownComplete q.ten) s = .next s)))

/-- R375 to R377, R381, R428, R460: the intake. A thread's submission whose record cannot be read is refused with code 0x15 and reason 9,
STATUS written where it can be and the thread parking at its next boundary; a readable one, in shared virtual memory or in local
memory that the thread's core reaches, is accepted, its launch joining the others and STATUS written 1, or refused with the first
reason that applies, STATUS written 2 with the reason; a write to a submission window of eight well-formed words to an office core
becomes a message to its channel, any other is discarded; a submission that its channel refused is offered again; a dependence whose
word has reached its value, or whose bits of a bitmap are set, is met. R386, R387, R390: pre-emption on a core. The stop lets every
running thread that belongs to it halt at its next boundary, and touches no other thread; once these threads are halted, the engines
at their cursors and the messages toward the core accepted, the save takes them from their slots, and of a grant core the local memory
with its bytes, which then reads zero, and fills the image's bytes of the save area; the last core makes the launch SAVED; a resume
brings the threads back into their slots: one that the stop had halted waits again where it waited at a barrier, and otherwise is
runnable, not before the 8th cycle after its last issue; and the launch is active. Assumption log 26, 28, 45, 46, 62, 77 and 87. -/
def Obligations.LaunchEvents : Prop :=
  (
    (∀ (s : State) (m cls ten : Nat) (ptr : Word) (x : Msg) (t : Thread), s.arrived m = some x → x.body = .launch ptr ten cls none →
      s.recordsFull x.org.core = false → s.bound x.org = some t → t.st = .runnable → s.launchOf x.org.bind = none →
      let refused := fun (u : State) (n : Nat) => u.hub.launches = s.hub.launches ∧ ∃ t' r, u.thr x.org.core x.org.slot = some t' ∧
        t'.parkAt = t.parkAt ++ [r] ∧ t'.g = t.g ∧ t'.pc = t.pc ∧ r.code = 0x15 ∧ r.addr = ptr ∧ r.aux0 = BitVec.ofNat 64 n
      let home := s.localOf x.org.core ten ptr 192
      (∀ f, home = none → s.hubRead ten ptr 192 = .error (some f) → ∃ u, exec (.launchSubmission m) s = .next u ∧ refused u 9 ∧
        (∀ q, s.hubPa ten (ptrAddr (ptr + 88)) .write = .error (some q) → u.mem = s.mem) ∧
        (∀ pa, s.hubPa ten (ptrAddr (ptr + 88)) .write = .ok pa → SameMemBut (s.hubUsed ten (ptr + 88) 8 .write) u pa 8 ∧
          u.mem64 pa = BitVec.ofNat 64 (2 + 9 * 256))) ∧
      (∀ bs sv hd pa,
        let l : Launch := { num := 0, words := wordsOf bs 24, ptr := ptr, home := home }
        let s1 := if home.isSome then s else s.hubUsed ten ptr 192 .read
        let s2 := s1.hubUsed l.ten (l.w 12) 8192 .read
        let head := BitVec.ofNat 64 (ptrAddr (s2.entryCode l.ten (l.w 0) l.hk) - 64)
        let s3 := s2.hubUsed l.ten head 64 .read
        let s4 := if home.isSome then s3 else s3.hubUsed l.ten (ptr + 88) 8 .write
        let status := fun (u : State) (n : Nat) => SameMemBut s4 u pa 8 ∧ u.mem64 pa = BitVec.ofNat 64 n
        (home = none → ptrAddr ptr < 2 ^ 56 ∧ s.hubRead ten ptr 192 = .ok bs) →
        (∀ q, home = some q → bs = Mem.readRuns s.mem (s.locRuns q.1 q.2 192)) → l.w 4 = 0 → l.w 12 ≠ 0 → s1.hubRead l.ten (l.w 12) 8192 = .ok sv →
        s2.hubRead l.ten head 64 = .ok hd →
        (home = none → s3.hubPa l.ten (ptrAddr (ptr + 88)) .write = .ok pa) → (∀ q, home = some q → pa = s.locAddr q.1 (q.2 + 88)) →
        (s3.reasonFor l ten cls false [] hd = 0 → ∃ u, exec (.launchSubmission m) s = .next u ∧ status u 1 ∧ u.threads = s.threads ∧
          u.hub.launches = s.hub.launches ++ [{ l with num := s.fresh }]) ∧
        (∀ n, s3.reasonFor l ten cls false [] hd = n → n ≠ 0 → ∃ u, exec (.launchSubmission m) s = .next u ∧ status u (2 + n * 256) ∧ refused u n))) ∧
    (∀ (s : State) (t : Nat) (w : List Word),
      let h := (w.getD 0 0).toNat
      let wellFormed := w.length = 8 ∧ h < 2 ^ 22 ∧ w.getD 5 0 = 0 ∧ w.getD 6 0 = 0 ∧ w.getD 7 0 = 0 ∧ s.isOffice (h % 2 ^ 14) = true ∧
        t ∈ s.hub.funcs
      (wellFormed → s.undelivered t < 64 → ∃ u, exec (.submissionWrite t w) s = .next u ∧ Quiet s u ∧ Sends s u (h % 2 ^ 14)
        (.chan (h / 2 ^ 14 % 32) { a0 := w.getD 1 0, a1 := w.getD 2 0, a2 := w.getD 3 0, a3 := w.getD 4 0 } (h / 2 ^ 19) (w.getD 0 0) true)) ∧
      (¬ wellFormed → exec (.submissionWrite t w) s = .next s)) ∧
    (∀ (s : State) (m n ch p : Nat) (t : Task) (w : Word) (x : Msg), s.msg m = some x → x.stage = .wait n → x.body = .chan ch t p w true →
      (n ≤ s.cycle → ∃ u y, exec (.submissionResend m) s = .next u ∧ Quiet s u ∧ y ∈ u.net ∧ y.id = m ∧ y.body = x.body ∧
        y.dst = x.dst ∧ y.stage = if s.direct x then .arrived else .flits) ∧
      (s.cycle < n → exec (.submissionResend m) s = .next s)) ∧
    (∀ (s : State) (n j : Nat) (l : Launch) (bs : List Byte), s.launch n = some l → j < 4 →
      let a := BitVec.ofNat 64 ((l.w (14 + 2 * j)).toNat % 2 ^ 57)
      let dval := (l.w (15 + 2 * j)).toNat
      let first := dval / 8
      (l.depKind j = 0 → exec (.dependencePoll n j) s = .next s) ∧
      (l.depKind j = 1 → s.hubRead l.ten a 8 = .ok bs → j ∉ l.met →
        (dval ≤ natOfBytes bs → ∃ u y, exec (.dependencePoll n j) s = .next u ∧ Quiet (s.hubUsed l.ten a 8 .read) u ∧ u.launch n = some y ∧ j ∈ y.met ∧ { y with met := l.met } = l) ∧
        (natOfBytes bs < dval → exec (.dependencePoll n j) s = .next (s.hubUsed l.ten a 8 .read))) ∧
      (l.depKind j = 2 → ∃ u y, exec (.dependencePoll n j) s = .next u ∧
        Quiet (s.hubUsed l.ten (a + BitVec.ofNat 64 first) ((l.roots + dval + 7) / 8 - first) .read) u ∧ u.launch n = some y ∧
        { y with metRoots := l.metRoots } = l ∧ ∀ k r, (k, r) ∈ y.metRoots ↔ (k, r) ∈ l.metRoots ∨ k = j ∧ r < l.roots ∧
          ∃ bs, s.hubRead l.ten (a + BitVec.ofNat 64 ((r + dval) / 8)) 1 = .ok bs ∧ (bs.getD 0 0).getLsbD ((r + dval) % 8) = true))) ∧
  (
    (∀ (s : State) (n c : Nat) (l : Launch) (left : List Nat), s.launch n = some l → l.num = n → l.st = .stopping left →
      (c ∉ left → exec (.preemptionStop n c) s = .next s ∧ exec (.preemptionSave n c) s = .next s) ∧
      (c ∈ left → s.dies = [] → ∃ u, exec (.preemptionStop n c) s = .next u ∧ u.mem = s.mem ∧
        ∀ k < 16, ∀ t, s.thr c k = some t →
          (s.stopped l c t = true → t.st = .runnable → u.thr c k = some { t with stopAt := true }) ∧
          (s.stopped l c t = false ∨ t.st = .parked ∨ t.st = .halted → u.thr c k = some t)) ∧
      (c ∈ left →
        let own := s.grantIs c n
        let mark := (Tab.find l.marks c).getD s.fresh
        let halted := ∀ k < 16, ∀ t, s.thr c k = some t → s.stopped l c t = true → t.st = .parked ∨ t.st = .halted
        let ready := (own = true → (s.core c).atCursors = true) ∧ s.drained c mark = true
        (¬ halted → exec (.preemptionSave n c) s = .next s) ∧
        (halted → ¬ ready → ∃ u, exec (.preemptionSave n c) s = .next u ∧ Quiet s u ∧ u.net = s.net ∧
          u.launch n = some { l with marks := Tab.put l.marks c mark }) ∧
        (halted → ready → ∃ u y v, exec (.preemptionSave n c) s = .next u ∧ u.launch n = some y ∧ y.saved = l.saved ++ [v] ∧ v.core = c ∧ v.whole = own ∧
          (∀ k < 16, ∀ t, s.thr c k = some t →
            (s.stopped l c t = true → u.thr c k = none ∧ (k, t) ∈ v.threads) ∧ (s.stopped l c t = false → u.thr c k = some t)) ∧
          (∀ d r, left.filter (fun e => e != c) = d :: r → y.st = .stopping (d :: r)) ∧
          (own = false → s.saveFrame l (clusterOf c) = none → u.mem = s.mem) ∧
          (∀ r, own = false → s.saveFrame l (clusterOf c) = some r → ∀ a, (∀ b < 524288, a ≠ saveAddr c r b) →
            Mem.read u.mem a = Mem.read s.mem a) ∧
          (own = true → (u.core c).grant = none ∧ (u.core c).cmds = [] ∧ ∀ off, off < 2 ^ 18 → Mem.read u.mem (localPa c off) = 0 ∧
            (off < l.lmem → off < fld (l.w 6) 0 19 ∨ fld (l.w 6) 0 19 + fld (l.w 6) 19 19 ≤ off →
              Mem.read v.cells (localPa c off) = Mem.read s.mem (localPa c off)))))) ∧
    (∀ (s : State) (n : Nat) (l : Launch) (v : SavedCore) (k : Nat) (t : Thread), s.launch n = some l → s.nextResume = some l → l.num = n →
      l.saved = [v] → v.threads = [(k, t)] → v.whole = false → v.img.parks = [] →
      ∃ u y t', exec (.launchResume n) s = .next u ∧ u.mem = s.mem ∧ u.launch n = some y ∧ y.st = .active ∧ y.saved = [] ∧
        u.thr v.core k = some t' ∧ t'.stopAt = false ∧ t'.stopBar = none ∧
        { t' with st := t.st, stopAt := t.stopAt, stopBar := t.stopBar, key := t.key, w0 := t.w0, since := t.since } = t ∧
        (¬ (t.stopAt = true ∧ t.st = .halted) → t'.st = t.st) ∧
        (t.stopAt = true → t.st = .halted →
          (∀ b q, t.stopBar = some (b, q) → t'.st = .waiting (.bar b q) false) ∧
          (t.stopBar = none → t'.st = if t.ready ≤ s.cycle then .runnable else .waiting .resume true)) ∧
        ∀ key, key ≠ slotKey v.core k → Tab.find u.threads key = Tab.find s.threads key) ∧
    (∀ (s : State) (n : Nat), (∀ l, s.nextResume = some l → l.num ≠ n) → exec (.launchResume n) s = .next s))

/-- R407 to R414: a cycle of a ring stop. A flit that has come to its exit leaves into the reassembly of its core; one that its port
refuses is deflected, and counted; any other goes on in its direction, one hop older; with both inputs empty a waiting flit that costs
no coin is injected by the shorter way, once its message has one of its source's 256 numbers. A stop takes one turn in a cycle. An
inject port that has waited 128 cycles raises STARVE on the ring of its flit, not earlier. A window of 1,024 cycles ends with METER at
the deflections counted and throttling where they exceed THR. R424 to R426: at a multiple of 1,024 cycles the purse of every tenant at
a port holds its base, max(1, floor(1024 SHARE / sum of all)), or 0 at SHARE 0, and, where it waited for a coin, its part of the coins
that the others left, by SHARE; ACT is 0. A purse that was as the refill before left it holds the base of the SHAREs read then. At
other cycles no purse changes. A flit for its own stop, and the tie of two ways: assumption log 47; the last keys of the age order:
log 11; what costs a coin: log 25; purses as data: log 49. -/
def Obligations.Fabric : Prop :=
  (
    let next := fun (p : Nat) (ccw : Bool) => p / 32 * 32 + (if ccw then p + 31 else p + 1) % 32
    let comes := fun (s u : State) (p : Nat) (ccw : Bool) (f : Flit) =>
      let q := next p ccw
      let g := { f with ccw := ccw, age := min (f.age + 1) 1023, at_ := s.cycle + 1 }
      if ccw then (u.stop q).ccw = (s.stop q).ccw ++ [g] else (u.stop q).cw = (s.stop q).cw ++ [g]
    (∀ (s : State) (p : Nat) (f : Flit), (s.stop p).inject = [] → (s.stop p).tapIn = [] → f.at_ ≤ s.cycle → (s.stop p).turned ≠ some s.cycle →
      (∀ ccw, f.ccw = ccw → (s.stop p).cw = (if ccw then [] else [f]) → (s.stop p).ccw = (if ccw then [f] else []) →
        let empty := fun (u : State) => (u.stop p).cw = [] ∧ (u.stop p).ccw = []
        ∃ u, exec (.ringStopCycle p) s = .next u ∧ u.threads = s.threads ∧ u.mem = s.mem ∧ u.net = s.net ∧ empty u ∧
          (f.exit ≠ p → u.cores = s.cores ∧ comes s u p ccw f ∧ (u.stop p).defl = (s.stop p).defl) ∧
          (f.exit = p → f.tap = false → (s.msg f.msg).isSome = true →
            (s.tabled f = false ∨ (s.core f.dst).rtable.length < 32 → (u.core f.dst).landed = (s.core f.dst).landed ++ [f.msg] ∧
              (s.tabled f = true → f.msg ∈ (u.core f.dst).rtable) ∧ (s.tabled f = false → (u.core f.dst).rtable = (s.core f.dst).rtable) ∧
              u.stop (next p ccw) = s.stop (next p ccw)) ∧
            (s.tabled f = true → 32 ≤ (s.core f.dst).rtable.length → f.msg ∉ (s.core f.dst).rtable → u.cores = s.cores ∧ comes s u p ccw f ∧
              (u.stop p).defl = min 2047 ((s.stop p).defl + 1))))) ∧
    (∀ (s : State) (p : Nat) (f : Flit), (s.stop p).inject = [f] → (s.stop p).cw = [] → (s.stop p).ccw = [] → (s.stop p).tapIn = [] →
      (s.stop p).turned ≠ some s.cycle → (∀ m, s.msg f.msg = some m → m.body.costs = false) →
      let e := exitOf s.modid p f.dmod f.dst
      let d := (e.1 + 32 - p) % 32
      let g := { f with exit := e.1, tap := e.2 }
      (s.msgid f = none → ∃ u, exec (.ringStopCycle p) s = .next u ∧ u.threads = s.threads ∧ u.mem = s.mem ∧
        u.stop p = { s.stop p with turned := some s.cycle }) ∧
      (s.msgid f ≠ none → (s.stop p).throt = false → e.1 / 32 = p / 32 → ∀ ccw, d ≠ 0 → d ≠ 16 → ccw = decide (16 < d) → s.heldBack p ccw = false →
        ∃ u, exec (.ringStopCycle p) s = .next u ∧ u.threads = s.threads ∧ u.mem = s.mem ∧ (u.stop p).inject = [] ∧ comes s u p ccw g) ∧
      ((s.stop p).waited < 128 → exec (.starveRaise p false) s = .next s) ∧
      (128 ≤ (s.stop p).waited → s.msgid f ≠ none → d ≠ 0 → d ≠ 16 → ∃ u, exec (.starveRaise p false) s = .next u ∧ Quiet s u ∧
        u.stop p = { s.stop p with starve := some (decide (16 < d)) })) ∧
    (∀ (s : State) (p : Nat), (s.stop p).turned = some s.cycle → exec (.ringStopCycle p) s = .next s) ∧
    (∀ (s : State) (p : Nat),
      (s.cycle % 1024 = 0 → (s.stop p).windowAt ≠ some s.cycle → ∃ u, exec (.meterWindowEnd p) s = .next u ∧ Quiet s u ∧ u.stop p = { s.stop p with
        meter := (s.stop p).defl, defl := 0, throt := decide ((s.stop p).thr < (s.stop p).defl), windowAt := some s.cycle }) ∧
      (s.cycle % 1024 ≠ 0 ∨ (s.stop p).windowAt = some s.cycle → exec (.meterWindowEnd p) s = .next s))) ∧
  (
    ∀ (s : State) (c : Nat),
      (s.cycle % 1024 ≠ 0 ∨ (s.core c).refillAt = some s.cycle → exec (.purseRefill c) s = .next s) ∧
      (s.cycle % 1024 = 0 → (s.core c).refillAt ≠ some s.cycle → ∃ u, exec (.purseRefill c) s = .next u ∧ QuietBut s u c ∧
        let total := fun (p : Nat → Bool) (x : Nat → Nat) => (((List.range 64).filter p).map x).foldl (· + ·) 0
        let before := if s.hub.sharesAt = some s.cycle then s.hub.sharesPrev else s.hub.shares
        let held := fun (i : Nat) => Tab.findD (s.core c).purses i (purseBase (fun j => Tab.findD before j 16) i, false)
        let act := fun (i : Nat) => (held i).2
        let left := total (fun i => !act i) fun i => (held i).1
        let active := total act s.share
        ∀ t < 64, u.purse c t =
          ((if s.share t = 0 then 0 else max 1 (1024 * s.share t / total (fun _ => true) s.share)) +
            (if act t then left * s.share t / active else 0), false)))

/-- R414, R416, R418, R431, R432: the last flit of a message hands it on whole and frees its entry, a poisoned message is refused to its
sender with 0x12, but a poisoned bulk write is delivered; an access without an answer for 2^20 cycles is refused, and the thread's
wait itself; a command whose bulk request has none halts with 0x12. A credit owed returns. A flit of the hub's buffers reaches the
hub, a die port with a credit, or waits without one; after the last flit of a peer link, outside a calibration pause, its message
awaits the peer's answer; a post that a peer refuses, for a reason other than a full queue, or that no link reaches parks its sender
with 0x03. A peer link comes up with a valid module id that differs, and goes down. Assumption log 48, 50 and 63. -/
def Obligations.MessagesAndLinks : Prop :=
  let parks := fun (s u : State) (o : Origin) (t : Thread) (code : Nat) => ∃ t' r, u.thr o.core o.slot = some t' ∧
    t'.parkAt = t.parkAt ++ [r] ∧ t'.g = t.g ∧ t'.pc = t.pc ∧ r.code = code ∧ u.mem = s.mem
  let gone := fun (u : State) (m : Nat) => ∀ y ∈ u.net, y.id ≠ m
  (∀ (s : State) (c m : Nat) (l : List Nat) (x : Msg), (s.core c).landed = m :: l → s.msg m = some x →
    let frees := fun (u : State) => (u.core c).landed = l ∧ m ∉ (u.core c).rtable
    (1 < x.left → ∃ u y, exec (.flitReassembly c) s = .next u ∧ QuietBut s u c ∧ (u.core c).landed = l ∧ u.msg m = some y ∧ y = { x with left := x.left - 1 }) ∧
    (x.left ≤ 1 → x.poisoned = false → ∃ u y, exec (.flitReassembly c) s = .next u ∧ QuietBut s u c ∧ frees u ∧
      u.arrived m = some y ∧ y = { x with left := 0, stage := .arrived }) ∧
    (∀ pa n hint v, x.left ≤ 1 → x.poisoned = true → x.body = .access pa n hint (.store v) → ∃ u y, exec (.flitReassembly c) s = .next u ∧
      QuietBut s u c ∧ frees u ∧ u.arrived m = some y ∧ y = { x with left := 0, stage := .arrived }) ∧
    (∀ pa n hint op t a, x.left ≤ 1 → x.poisoned = true → x.body = .access pa n hint op → (∀ v, op ≠ .store v) → s.bound x.org = some t → t.acc = some a → a.id = m →
      a.ans = .none → ∃ u t', exec (.flitReassembly c) s = .next u ∧ u.mem = s.mem ∧ gone u m ∧ u.thr x.org.core x.org.slot = some t' ∧
        t'.acc = some { a with ans := .fault { code := 0x12 } } ∧ t'.g = t.g ∧ t'.pc = t.pc)) ∧
  (∀ (s : State) (c : Nat), (s.core c).landed = [] → exec (.flitReassembly c) s = .next s) ∧
  (∀ (s : State) (m i opc : Nat) (v w : Word) (x : Msg) (t : Thread), s.msg m = some x → x.stage = .flits → x.body = .post i v opc w →
    (s.cycle < x.born + 2 ^ 20 → exec (.messageAnswerTimeout m) s = .next s) ∧
    (x.born + 2 ^ 20 ≤ s.cycle → s.bound x.org = some t → t.st = .runnable → s.launchOf x.org.bind = none →
      s.recordsFull x.org.core = false → ∃ u, exec (.messageAnswerTimeout m) s = .next u ∧ gone u m ∧ parks s u x.org t 0x12)) ∧
  (∀ (s : State) (c k : Nat) (t : Thread) (a : Outst), s.thr c k = some t → t.st = .waiting .reply false → t.acc = some a →
    (s.cycle < t.since + 2 ^ 20 → exec (.memoryReplyTimeout c k) s = .next s) ∧
    (t.since + 2 ^ 20 ≤ s.cycle → ∃ u, exec (.memoryReplyTimeout c k) s = .next u ∧ SlotOnly s u c k ∧
      u.thr c k = some { t with st := .waiting .reply true, acc := some { a with ans := .fault { code := 0x12 } } })) ∧
  (∀ (s : State) (m c : Nat) (x : Cmd) (f : VF), s.cmdAnywhere m = some (c, x) → x.instr = .mma f → x.started = true → x.done = false →
    x.halted = none → x.begun = true → x.lanes = [] → x.back = none → s.coreFrozen c = false → x.from_ = none → s.recordsFull x.org.core = false →
    (s.bulkLate m = false → exec (.bulkRequestTimeout m) s = .next s) ∧
    (s.bulkLate m = true → s.cmd c x.id = some x → ∃ u y e, exec (.bulkRequestTimeout m) s = .next u ∧ u.mem = s.mem ∧
      y ∈ (u.core c).cmds ∧ y.id = x.id ∧ y.halted = some e ∧ e.code = 0x12)) ∧
  (∀ (s : State) (q : Nat),
    (0 < (s.buf_ q).owed → ∃ u, exec (.creditReturn q) s = .next u ∧ Quiet s u ∧
      u.buf_ q = { s.buf_ q with owed := (s.buf_ q).owed - 1, credits := (s.buf_ q).credits + 1 }) ∧
    ((s.buf_ q).owed = 0 → exec (.creditReturn q) s = .next s) ∧
    ((s.buf_ q).q = [] → exec (.hubCrossing q) s = .next s) ∧
    (∀ f r x, (s.buf_ q).q = f :: r → s.msg f.msg = some x →
      let popped := fun (u : State) => (u.buf_ q).q = r ∧ (u.buf_ q).owed = (s.buf_ q).owed + 1
      (q < 32 ∨ 48 ≤ q →
        (f.dmod = s.modid → 16384 ≤ f.dst → x.left ≤ 1 → x.poisoned = false → ∃ u y, exec (.hubCrossing q) s = .next u ∧ Quiet s u ∧ popped u ∧
          u.arrived f.msg = some y ∧ y.body = x.body ∧ y.dst = x.dst) ∧
        (f.dmod = s.modid → f.dst < 16384 →
          let p := f.dst / 512 * 32 + 24
          let d := s.buf_ (16 + p / 64)
          (0 < d.credits → d.last ≠ some s.cycle → ∃ u, exec (.hubCrossing q) s = .next u ∧ Quiet s u ∧ popped u ∧ u.net = s.net ∧
            (u.stop p).tapIn = (s.stop p).tapIn ++ [f] ∧ (u.buf_ (16 + p / 64)).credits = d.credits - 1) ∧
          (d.credits = 0 → exec (.hubCrossing q) s = .next s)) ∧
        (∀ i v opc w t, f.dmod ≠ s.modid → s.linksTo f.dmod = [] → x.body = .post i v opc w → s.bound x.org = some t → t.st = .runnable →
          s.launchOf x.org.bind = none → s.recordsFull x.org.core = false →
          ∃ u, exec (.hubCrossing q) s = .next u ∧ popped u ∧ gone u x.id ∧ parks s u x.org t 0x03)) ∧
      (32 ≤ q → q < 48 →
        (s.cycle < (s.buf_ q).pause → exec (.hubCrossing q) s = .next s) ∧
        ((s.buf_ q).pause ≤ s.cycle → x.left ≤ 1 → x.org.away = none → ∃ u y, exec (.hubCrossing q) s = .next u ∧ Quiet s u ∧ popped u ∧
          u.msg f.msg = some y ∧ y = { x with left := 0, stage := .away })))) ∧
  (∀ (s : State) (m i opc why : Nat) (r : List Turn) (v w : Word) (x : Msg) (t : Thread), s.agenda = .peerRefuses m why :: r → why ≠ 1 →
    s.offered m = some x → x.body = .post i v opc w → s.bound x.org = some t → t.st = .runnable →
    s.launchOf x.org.bind = none → s.recordsFull x.org.core = false →
    ∃ u, step s = .next u ∧ gone u m ∧ parks s u x.org t 0x03) ∧
  (∀ (s : State) (l far : Nat), l < 16 →
    let link := fun (u : State) => Tab.findD u.hub.links l 0
    (far < 64 → s.hub.modid.getLsbD 6 = true → far ≠ s.modid → ∃ u, exec (.peerLinkUp l far) s = .next u ∧ Quiet s u ∧
      link u = BitVec.ofNat 64 (64 + far)) ∧
    (s.hub.modid.getLsbD 6 = false ∨ far = s.modid → exec (.peerLinkUp l far) s = .next s) ∧
    (∃ u, exec (.peerLinkDown l) s = .next u ∧ Quiet s u ∧ (link u).getLsbD 6 = false ∧ ∀ i, i ≠ 6 → (link u).getLsbD i = (link s).getLsbD i))

/-- R108, R428, R429, R447, R448: the host. A write to the device window changes its bytes where the frame is MAPPED and nothing
elsewhere; a read returns the bytes, the boot status, a staged mask word or a stream's status, and otherwise Unsupported Request. A
write with its stream's next number is performed and the number rises; one up to 255 ahead is held, any other is discarded, and every
one of a BROKEN stream. A stream that holds writes for 2^20 cycles is BROKEN and holds none; a reset of its status word, or of its
function, begins it anew. Reads of other sizes and the writes held: assumption log 79. -/
def Obligations.HostAccesses : Prop :=
  (∀ (s : State) (off n v : Nat), n ≤ 64 → off < 2 ^ 48 →
    let bytes := fun (u : State) => u.threads = s.threads ∧ SameMemBut s u off n ∧
      ∀ i < n, Mem.read u.mem (off + i) = BitVec.ofNat 8 (v / 2 ^ (8 * i))
    (s.windowMapped off n = true → ∃ u, exec (.hostWindowWrite off n v) s = .next u ∧ bytes u) ∧
    (s.windowMapped off n = false → exec (.hostWindowWrite off n v) s = .next s) ∧
    (∀ t st, t ≤ 64 → st < 16 → (s.stream t st).broken = false → ∀ sq < 2 ^ 16,
      let x := s.stream t st
      let d := (sq + 2 ^ 16 - x.e) % 2 ^ 16
      (d = 0 → x.held = [] → s.windowMapped off n = true → ∃ u, exec (.hostStreamWrite t st sq off n v) s = .next u ∧ bytes u ∧
        (u.stream t st).e = (x.e + 1) % 2 ^ 16) ∧
      (d ≠ 0 → d ≤ 255 → s.heldWrites < 1024 → ∃ u, exec (.hostStreamWrite t st sq off n v) s = .next u ∧ Quiet s u ∧
        (u.stream t st).e = x.e ∧ (u.stream t st).held = x.held ++ [(sq, off, bytesOfNat n v)]) ∧
      (255 < d → exec (.hostStreamWrite t st sq off n v) s = .next s)) ∧
    (∀ t st sq, (s.stream t st).broken = true → exec (.hostStreamWrite t st sq off n v) s = .next s)) ∧
  (∀ s : State,
    let reads := fun (off n : Nat) (w : Option Nat) => ∃ u, exec (.hostWindowRead off n) s = .next u ∧ Quiet s u ∧ u.hub.hostRead = w
    let h := s.hub
    (∀ off n, off < 2 ^ 48 → s.windowMapped off n = true → s.poisoned off n = false → reads off n (some (s.memNat off n))) ∧
    (∀ off n, off < 2 ^ 48 → s.windowMapped off n = false → reads off n none) ∧
    reads (2 ^ 48 + 0x3000) 8 (some (BitVec.ofNat 64 (h.lc * 2 ^ 14 + (if h.min then 2 ^ 13 else 0) + h.stage * 2 ^ 10 + h.fails * 2 ^ 8 + h.reason)).toNat) ∧
    (∀ j < 256, reads (2 ^ 48 + 0x3800 + 8 * j) 8 (some (Tab.findD h.staged j (0 : Word)).toNat)) ∧
    (∀ t < 64, ∀ st < 16, reads (2 ^ 48 + 0x4000 + 128 * t + 8 * st) 8 (some (s.stream t st).status.toNat) ∧
      reads (2 ^ 49 + 2 ^ 16 * t + 0x2000 + 8 * st) 8 (some (s.stream t st).status.toNat) ∧ reads (2 ^ 49 + 2 ^ 16 * t + 0x1000) 4 (some 0)) ∧
    (∀ n, n ≠ 8 → reads (2 ^ 48 + 0x3000) n none)) ∧
  (∀ (s : State) (t st : Nat),
    let x := s.stream t st
    (x.held ≠ [] → x.since + 2 ^ 20 ≤ s.cycle → ∃ u, exec (.streamBrokenTimeout t st) s = .next u ∧ Quiet s u ∧
      u.stream t st = { x with broken := true, held := [] }) ∧
    (x.held = [] ∨ s.cycle < x.since + 2 ^ 20 → exec (.streamBrokenTimeout t st) s = .next s) ∧
    (t < 64 → st < 16 → ∃ u, exec (.streamStatusReset t st) s = .next u ∧ Quiet s u ∧ u.stream t st = { x with e := 0, broken := false }) ∧
    (∃ u, exec (.functionLevelReset t) s = .next u ∧ Quiet s u ∧ (st < 16 → u.stream t st = {}) ∧
      ∀ r q, q < 16 → r ≠ t → u.stream r q = s.stream r q)) ∧
  (∀ (s : State) (j n : Nat) (v : Word),
    (n = 8 → j < 256 → ∃ u, exec (.officeMaskStagingWrite j n v) s = .next u ∧ Quiet s u ∧ u.hub.mask = s.hub.mask ∧
      ((s.hub.staged.map (·.1)).Nodup → ∀ i, Tab.findD u.hub.staged i 0 = if i = j then v else Tab.findD s.hub.staged i 0)) ∧
    (n ≠ 8 → exec (.officeMaskStagingWrite j n v) s = .next s))

/-- R443 to R449: resets and the start. A reset of any kind leaves nothing bound and no byte of the module's memories, keeps the fuses,
the staged mask and the persistent images, and what is not the module's; the clearing one sets FAILS and REASON to 0. Stage 0 goes on
to 1 with a verified image, or fails with reason 1 or 2; stage 1 wipes, applies a forward transition, takes the live mask, and goes on
to 2, or fails with reason 4 to 7, or 0x0A in RETIRED; stage 2 releases the cores, from which the cycles count, and with the services
ready goes on to 3; stage 3 enables the tenants' functions in FIELD and ends the start with FAILS 0. A failure raises FAILS up to 3.
FAILS in RETIRED: assumption log 52. -/
def Obligations.BootEvents : Prop :=
  ∀ s : State,
    let cold := fun (u : State) => u.threads = [] ∧ u.cores = [] ∧ u.clusters = [] ∧ u.dies = [] ∧ u.net = [] ∧ u.gangs = [] ∧ u.full = [] ∧
      u.lean = [] ∧ u.cycle = 0 ∧ (∀ a, Mem.read u.mem a = if a < Config.hostBase then 0 else Mem.read s.mem a) ∧
      u.hub.lc = s.hub.lc ∧ u.hub.staged = s.hub.staged ∧ u.hub.mask = [] ∧ u.hub.tenants = [] ∧ u.hub.launches = [] ∧ u.hub.released = false ∧
      u.hub.images = s.hub.images.filter fun i => i.persistent
    let fails := fun (i : Instr) (r : Nat) => ∃ u, exec i s = .next u ∧ u.threads = [] ∧ u.cores = [] ∧ u.hub.failed = true ∧
      u.hub.stage = s.hub.stage ∧ u.hub.fails = min 3 (s.hub.fails + 1) ∧ u.hub.reason = r
    let goes := fun (i : Instr) (n : Nat) (p : State → Prop) => ∃ u, exec i s = .next u ∧ u.hub.stage = n ∧ u.hub.stageSince = u.cycle ∧ p u
    let at_ := fun (n : Nat) => s.hub.stage = n ∧ s.hub.failed = false
    let kept := fun (u : State) => u.hub.fails = s.hub.fails ∧ u.hub.reason = s.hub.reason ∧ u.hub.stage = 0
    (∃ u, exec .powerOnReset s = .next u ∧ cold u ∧ kept u) ∧ (∃ u, exec .moduleReset s = .next u ∧ cold u ∧ kept u) ∧
    (∃ u, exec .clearFailsReset s = .next u ∧ cold u ∧ u.hub.fails = 0 ∧ u.hub.reason = 0 ∧ u.hub.min = false) ∧
    (at_ 0 → goes (.bootStage0 0) 1 (fun u => u.mem = s.mem) ∧ fails (.bootStage0 1) 1 ∧ fails (.bootStage0 2) 2) ∧
    (s.hub.failed = true → goes (.bootStage0 0) 1 fun u => u.threads = [] ∧ u.hub.fails = s.hub.fails ∧ u.hub.min = (s.hub.fails == 3)) ∧
    (at_ 1 → ∀ lc,
      let next := if s.hub.lc < lc ∧ lc ≤ 3 then lc else s.hub.lc
      (next ≠ 3 → goes (.bootStage1 0 lc) 2 (fun u => u.hub.lc = next ∧ (∀ a, a < Config.hostBase → Mem.read u.mem a = 0) ∧ u.full = [] ∧ u.lean = [] ∧
        u.hub.mask = s.liveMask ∧ (s.hub.lc < lc → lc ≤ 3 → u.hub.images = [])) ∧ ∀ r ∈ [4, 5, 6, 7], fails (.bootStage1 r lc) r) ∧
      (next = 3 → ∀ r, fails (.bootStage1 r lc) 0x0A)) ∧
    (at_ 2 → (s.hub.released = false → goes (.bootStage2 0) 2 fun u => u.cycle = 0 ∧ u.hub.released = true) ∧
      (s.hub.released = true → goes (.bootStage2 1) 3 (fun u => u.cycle = s.cycle) ∧
        (s.hub.stageSince + 2 ^ 34 ≤ s.cycle → fails .officeReadyTimeout 8)) ∧
      (s.cycle < s.hub.stageSince + 2 ^ 34 → exec .officeReadyTimeout s = .next s)) ∧
    (at_ 3 → goes (.bootStage3 0) 4 (fun u => u.mem = s.mem ∧
        (s.hub.min = false → u.hub.fails = 0 ∧ u.hub.reason = 0 ∧ u.hub.funcs = if s.hub.lc = 2 then List.range 64 else []) ∧
        (s.hub.min = true → u.hub.fails = s.hub.fails ∧ u.hub.funcs = [])) ∧
      (s.hub.min = false → s.hub.stageSince + 2 ^ 24 ≤ s.cycle → fails .tenantFunctionTimeout 0x0B) ∧
      (s.hub.min = true ∨ s.cycle < s.hub.stageSince + 2 ^ 24 → exec .tenantFunctionTimeout s = .next s)) ∧
    (s.hub.stage < 4 → s.hub.failed = false → fails .coolantTemperatureFault 9) ∧
    (4 ≤ s.hub.stage → exec .coolantTemperatureFault s = .next s) ∧
    (s.hub.stage ≠ 0 → s.hub.failed = false → exec (.bootStage0 0) s = .next s)

/-- R137, R403, R418, R441, R450 to R452: the background. Refresh and wear levelling change nothing; a die takes its temperature band; a
link pauses for a calibration of at most 2 microseconds, here 2,600 cycles; scrubs find correctable upsets, count them and correct
them, and go on; a write-back leaves what is stored; a soft error waits as an upset, or poisons its sector and is counted, or lets a
thread fault with 0x12 at its next issue, or loses a flit or poisons its message, and a corrected one of a register or a flit is
counted at once; after a loss of power a durable store that is kept is present, whatever lies before it, and none without; a cluster
without work may lose its translations and lines. The pause of 2,600 cycles and the counts: assumption log 51 and 53. -/
def Obligations.BackgroundEvents : Prop :=
  ∀ s : State,
    (∀ d, exec (.dramRefresh d) s = .next s) ∧ exec .depotWearLevelling s = .next s ∧
    (∀ d < 4, ∀ b < 4, ∃ u, exec (.dramTemperatureChange d b) s = .next u ∧ Quiet s u ∧ u.die d = { s.die d with band := b }) ∧
    (∀ l < 16, ∀ n ≤ 2600, ∃ u, exec (.linkCalibration l n) s = .next u ∧ Quiet s u ∧
      u.buf_ (32 + l) = { s.buf_ (32 + l) with pause := s.cycle + n }) ∧
    (∀ v, v < 1024 → s.saving v = true ∨ (s.cluster v).scrubbed = some (s.cycle / 1024) → exec (.dramPatrolScrub v) s = .next s) ∧
    (∀ v, v < 1024 → s.saving v = false → (s.cluster v).scrubbed ≠ some (s.cycle / 1024) →
      let i := (s.cluster v).scrubAt
      ∃ u, exec (.dramPatrolScrub v) s = .next u ∧ u.mem = s.mem ∧ u.threads = s.threads ∧ (u.cluster v).scrubAt = (i + 16) % (384 * 32768) ∧
        (∀ x, s.upsets = [x] → (∃ j < 16, x = vaultLine v (i + j) / 32 ∨ x = vaultLine v (i + j) / 32 + 1) → u.upsets = [] ∧
          (u.core (16 * v)).soft.2.2.1 = min ((s.core (16 * v)).soft.2.2.1 + 1) (2 ^ 32 - 1) ∧
          ∃ d, Sends s u d (.scrub (32 * x) (Mem.readN s.mem (32 * x) 32)))) ∧
    (∀ m x pa old, s.arrived m = some x → x.body = .scrub pa old → ∃ u, exec (.scrubWriteBack m) s = .next u ∧ SameMem s u ∧
      u.threads = s.threads ∧ u.cores = s.cores ∧ NetTakes s u m) ∧
    (∀ c, c < 16384 → (s.core c).scrubbed = some (s.cycle / 1024) → exec (.sramPatrolScrub c) s = .next s) ∧
    (∀ c, c < 16384 → (s.core c).scrubbed ≠ some (s.cycle / 1024) →
      let i := (s.core c).scrubAt
      let a := (if i % 6144 < 4096 then localPa c (64 * (i % 6144)) else accAddr c (64 * (i % 6144 - 4096))) / 32
      ∃ u, exec (.sramPatrolScrub c) s = .next u ∧ QuietBut s u c ∧ (u.core c).scrubAt = (i + 1) % 6144 ∧
        (∀ x, x ∈ u.upsets ↔ x ∈ s.upsets ∧ x ≠ a ∧ x ≠ a + 1) ∧
        (a ∈ s.upsets → a + 1 ∉ s.upsets → (u.core c).soft.1 = min ((s.core c).soft.1 + 1) (2 ^ 32 - 1))) ∧
    (∀ c, c < 16384 → ∀ off, off < 2 ^ 18 →
      let pa := localPa c off
      (∃ u, exec (.softError pa true) s = .next u ∧ QuietBut s u c ∧ pa / 32 ∈ u.poison ∧
        (u.core c).soft.2.1 = min ((s.core c).soft.2.1 + 1) (2 ^ 32 - 1)) ∧
      (∃ u, exec (.softError pa false) s = .next u ∧ Quiet s u ∧ pa / 32 ∈ u.upsets ∧ u.poison = s.poison)) ∧
    (∀ c k t, c < 16384 → k < 16 → s.thr c k = some t →
      (∃ u, exec (.softError (2 ^ 70 + 16 * c + k) true) s = .next u ∧ SlotOnly { s with cores := u.cores } u c k ∧
        u.thr c k = some { t with startFault := some ({ code := 0x12 }, false) } ∧ (∀ d, d ≠ c → u.core d = s.core d) ∧
        (u.core c).soft.2.1 = min ((s.core c).soft.2.1 + 1) (2 ^ 32 - 1)) ∧
      (∃ u, exec (.softError (2 ^ 70 + 16 * c + k) false) s = .next u ∧ QuietBut s u c ∧
        (u.core c).soft.1 = min ((s.core c).soft.1 + 1) (2 ^ 32 - 1))) ∧
    (∀ m i x, i < 4 → s.msg m = some x →
      (s.onFabric m i = true →
        (∃ u y, exec (.softError (2 ^ 71 + 8 * m + 2 * i + 1) true) s = .next u ∧ Quiet s u ∧ u.hub = s.hub ∧ u.msg m = some y ∧
          y = { x with poisoned := true }) ∧
        (∃ u, exec (.softError (2 ^ 71 + 8 * m + 2 * i) true) s = .next u ∧ Quiet s u ∧ u.net = s.net ∧ u.onFabric m i = false ∧
          u.hub = { s.hub with headerErrors := s.hub.headerErrors + 1 }) ∧
        ∀ b < 2, ∃ u, exec (.softError (2 ^ 71 + 8 * m + 2 * i + b) false) s = .next u ∧ Quiet s u ∧ u.net = s.net ∧
          u.hub = { s.hub with corrected := s.hub.corrected + 1 }) ∧
      (s.onFabric m i = false → ∀ b < 2, ∀ bad, exec (.softError (2 ^ 71 + 8 * m + 2 * i + b) bad) s = .next s)) ∧
    (∀ kept, (∃ u, exec (.powerLoss kept) s = .next u ∧ u.threads = [] ∧ u.cores = [] ∧ ∀ a, a < Config.hostBase → Mem.read u.mem a = 0) ∧
      (kept = [] → ∃ u, exec (.powerLoss kept) s = .next u ∧ ∀ a, Config.hostBase ≤ a → Mem.read u.mem a = Mem.read s.mem a) ∧
      (∀ m x pa bs n, s.msg m = some x → x.body = .durable pa bs n → Config.hostBase ≤ pa → kept = [m] → ∃ u, exec (.powerLoss kept) s = .next u ∧
        (∀ i < bs.length, Mem.read u.mem (pa + i) = bs.getD i 0) ∧
        ∀ a, Config.hostBase ≤ a → a < pa ∨ pa + bs.length ≤ a → Mem.read u.mem a = Mem.read s.mem a)) ∧
    (∀ cl, ((∀ i < 16, s.coreEmpty (16 * cl + i) = true ∧ (s.core (16 * cl + i)).cmds = []) → ∃ u, exec (.powerGating cl) s = .next u ∧
        u.threads = s.threads ∧ u.mem = s.mem ∧ ∀ i < 16, u.core (16 * cl + i) = { s.core (16 * cl + i) with tlb := [], l2 := [] }) ∧
      ((∃ i < 16, s.coreEmpty (16 * cl + i) = false) → exec (.powerGating cl) s = .next s))

end
end

