-- ==== Sys2Proof/Laws/Tab.lean ====
section
/-! SUPPORT. The finite tables and rising lists of the state: what is found after a change. -/

namespace Sys2Proof

@[simp] theorem Tab.find_nil {α : Type} (k : Nat) : Tab.find ([] : Tab α) k = none := rfl

/-- A key put is found, and every other key is found as before. -/
theorem Tab.find_put {α : Type} (t : Tab α) (k j : Nat) (v : α) :
    Tab.find (Tab.put t k v) j = if j = k then some v else Tab.find t j := by
  induction t with
  | nil => simp [Tab.put, Tab.find, eq_comm]
  | cons a r ih =>
    obtain ⟨i, w⟩ := a
    simp only [Tab.put]
    split
    · simp only [Tab.find]; grind
    · split
      · simp only [Tab.find]; grind
      · simp only [Tab.find, ih]; grind

/-- A key deleted is not found, and every other key is found as before. -/
theorem Tab.find_del {α : Type} (t : Tab α) (k j : Nat) :
    Tab.find (Tab.del t k) j = if j = k then none else Tab.find t j := by
  induction t with
  | nil => simp [Tab.del, Tab.find]
  | cons a r ih =>
    obtain ⟨i, w⟩ := a
    simp only [Tab.del]
    split
    · simp only [Tab.find, ih]; grind
    · simp only [Tab.find, ih]; grind

/-- The value at a key after a put. -/
theorem Tab.findD_put {α : Type} (t : Tab α) (k j : Nat) (v d : α) :
    Tab.findD (Tab.put t k v) j d = if j = k then v else Tab.findD t j d := by
  simp only [Tab.findD, Tab.find_put]; split <;> rfl

@[simp] theorem Tab.findD_put_self {α : Type} (t : Tab α) (k : Nat) (v d : α) : Tab.findD (Tab.put t k v) k d = v := by
  simp [Tab.findD_put]

/-- Membership after an insertion into a rising list. -/
theorem mem_insertNat (l : List Nat) (x y : Nat) : y ∈ insertNat l x ↔ y = x ∨ y ∈ l := by
  induction l with
  | nil => simp [insertNat]
  | cons a r ih => grind [insertNat]

/-- Membership after a removal. -/
theorem mem_removeNat (l : List Nat) (x y : Nat) : y ∈ removeNat l x ↔ y ∈ l ∧ y ≠ x := by
  simp [removeNat]

end Sys2Proof
end

