-- ==== Sys2Proof/Laws/State.lean ====
section
/-! SUPPORT. What each update of the state leaves as it was, one lemma per field, and what the accessors read after it. -/

namespace Sys2Proof.Machine

/-! ### setCore -/

@[simp] theorem State.setCore_cycle (s : State) (c : Nat) (k : Core) : (s.setCore c k).cycle = s.cycle := rfl
@[simp] theorem State.setCore_ctx (s : State) (c : Nat) (k : Core) : (s.setCore c k).ctx = s.ctx := rfl
@[simp] theorem State.setCore_agenda (s : State) (c : Nat) (k : Core) : (s.setCore c k).agenda = s.agenda := rfl
@[simp] theorem State.setCore_issued (s : State) (c : Nat) (k : Core) : (s.setCore c k).issued = s.issued := rfl
@[simp] theorem State.setCore_fresh (s : State) (c : Nat) (k : Core) : (s.setCore c k).fresh = s.fresh := rfl
@[simp] theorem State.setCore_mem (s : State) (c : Nat) (k : Core) : (s.setCore c k).mem = s.mem := rfl
@[simp] theorem State.setCore_full (s : State) (c : Nat) (k : Core) : (s.setCore c k).full = s.full := rfl
@[simp] theorem State.setCore_lean (s : State) (c : Nat) (k : Core) : (s.setCore c k).lean = s.lean := rfl
@[simp] theorem State.setCore_poison (s : State) (c : Nat) (k : Core) : (s.setCore c k).poison = s.poison := rfl
@[simp] theorem State.setCore_upsets (s : State) (c : Nat) (k : Core) : (s.setCore c k).upsets = s.upsets := rfl
@[simp] theorem State.setCore_codeLog (s : State) (c : Nat) (k : Core) : (s.setCore c k).codeLog = s.codeLog := rfl
@[simp] theorem State.setCore_threads (s : State) (c : Nat) (k : Core) : (s.setCore c k).threads = s.threads := rfl
@[simp] theorem State.setCore_gangs (s : State) (c : Nat) (k : Core) : (s.setCore c k).gangs = s.gangs := rfl
@[simp] theorem State.setCore_gangsNext (s : State) (c : Nat) (k : Core) : (s.setCore c k).gangsNext = s.gangsNext := rfl
@[simp] theorem State.setCore_gangV (s : State) (c : Nat) (k : Core) : (s.setCore c k).gangV = s.gangV := rfl
@[simp] theorem State.setCore_clusters (s : State) (c : Nat) (k : Core) : (s.setCore c k).clusters = s.clusters := rfl
@[simp] theorem State.setCore_dies (s : State) (c : Nat) (k : Core) : (s.setCore c k).dies = s.dies := rfl
@[simp] theorem State.setCore_stops (s : State) (c : Nat) (k : Core) : (s.setCore c k).stops = s.stops := rfl
@[simp] theorem State.setCore_bufs (s : State) (c : Nat) (k : Core) : (s.setCore c k).bufs = s.bufs := rfl
@[simp] theorem State.setCore_net (s : State) (c : Nat) (k : Core) : (s.setCore c k).net = s.net := rfl
@[simp] theorem State.setCore_arbs (s : State) (c : Nat) (k : Core) : (s.setCore c k).arbs = s.arbs := rfl
@[simp] theorem State.setCore_unacked (s : State) (c : Nat) (k : Core) : (s.setCore c k).unacked = s.unacked := rfl
@[simp] theorem State.setCore_fetched (s : State) (c : Nat) (k : Core) : (s.setCore c k).fetched = s.fetched := rfl
@[simp] theorem State.setCore_porters (s : State) (c : Nat) (k : Core) : (s.setCore c k).porters = s.porters := rfl
@[simp] theorem State.setCore_hub (s : State) (c : Nat) (k : Core) : (s.setCore c k).hub = s.hub := rfl

/-! ### modCore -/

@[simp] theorem State.modCore_cycle (s : State) (c : Nat) (f : Core → Core) : (s.modCore c f).cycle = s.cycle := rfl
@[simp] theorem State.modCore_ctx (s : State) (c : Nat) (f : Core → Core) : (s.modCore c f).ctx = s.ctx := rfl
@[simp] theorem State.modCore_agenda (s : State) (c : Nat) (f : Core → Core) : (s.modCore c f).agenda = s.agenda := rfl
@[simp] theorem State.modCore_issued (s : State) (c : Nat) (f : Core → Core) : (s.modCore c f).issued = s.issued := rfl
@[simp] theorem State.modCore_fresh (s : State) (c : Nat) (f : Core → Core) : (s.modCore c f).fresh = s.fresh := rfl
@[simp] theorem State.modCore_mem (s : State) (c : Nat) (f : Core → Core) : (s.modCore c f).mem = s.mem := rfl
@[simp] theorem State.modCore_full (s : State) (c : Nat) (f : Core → Core) : (s.modCore c f).full = s.full := rfl
@[simp] theorem State.modCore_lean (s : State) (c : Nat) (f : Core → Core) : (s.modCore c f).lean = s.lean := rfl
@[simp] theorem State.modCore_poison (s : State) (c : Nat) (f : Core → Core) : (s.modCore c f).poison = s.poison := rfl
@[simp] theorem State.modCore_upsets (s : State) (c : Nat) (f : Core → Core) : (s.modCore c f).upsets = s.upsets := rfl
@[simp] theorem State.modCore_codeLog (s : State) (c : Nat) (f : Core → Core) : (s.modCore c f).codeLog = s.codeLog := rfl
@[simp] theorem State.modCore_threads (s : State) (c : Nat) (f : Core → Core) : (s.modCore c f).threads = s.threads := rfl
@[simp] theorem State.modCore_gangs (s : State) (c : Nat) (f : Core → Core) : (s.modCore c f).gangs = s.gangs := rfl
@[simp] theorem State.modCore_gangsNext (s : State) (c : Nat) (f : Core → Core) : (s.modCore c f).gangsNext = s.gangsNext := rfl
@[simp] theorem State.modCore_gangV (s : State) (c : Nat) (f : Core → Core) : (s.modCore c f).gangV = s.gangV := rfl
@[simp] theorem State.modCore_clusters (s : State) (c : Nat) (f : Core → Core) : (s.modCore c f).clusters = s.clusters := rfl
@[simp] theorem State.modCore_dies (s : State) (c : Nat) (f : Core → Core) : (s.modCore c f).dies = s.dies := rfl
@[simp] theorem State.modCore_stops (s : State) (c : Nat) (f : Core → Core) : (s.modCore c f).stops = s.stops := rfl
@[simp] theorem State.modCore_bufs (s : State) (c : Nat) (f : Core → Core) : (s.modCore c f).bufs = s.bufs := rfl
@[simp] theorem State.modCore_net (s : State) (c : Nat) (f : Core → Core) : (s.modCore c f).net = s.net := rfl
@[simp] theorem State.modCore_arbs (s : State) (c : Nat) (f : Core → Core) : (s.modCore c f).arbs = s.arbs := rfl
@[simp] theorem State.modCore_unacked (s : State) (c : Nat) (f : Core → Core) : (s.modCore c f).unacked = s.unacked := rfl
@[simp] theorem State.modCore_fetched (s : State) (c : Nat) (f : Core → Core) : (s.modCore c f).fetched = s.fetched := rfl
@[simp] theorem State.modCore_porters (s : State) (c : Nat) (f : Core → Core) : (s.modCore c f).porters = s.porters := rfl
@[simp] theorem State.modCore_hub (s : State) (c : Nat) (f : Core → Core) : (s.modCore c f).hub = s.hub := rfl

/-! ### setThr -/

@[simp] theorem State.setThr_cycle (s : State) (c k : Nat) (t : Thread) : (s.setThr c k t).cycle = s.cycle := rfl
@[simp] theorem State.setThr_ctx (s : State) (c k : Nat) (t : Thread) : (s.setThr c k t).ctx = s.ctx := rfl
@[simp] theorem State.setThr_agenda (s : State) (c k : Nat) (t : Thread) : (s.setThr c k t).agenda = s.agenda := rfl
@[simp] theorem State.setThr_issued (s : State) (c k : Nat) (t : Thread) : (s.setThr c k t).issued = s.issued := rfl
@[simp] theorem State.setThr_fresh (s : State) (c k : Nat) (t : Thread) : (s.setThr c k t).fresh = s.fresh := rfl
@[simp] theorem State.setThr_mem (s : State) (c k : Nat) (t : Thread) : (s.setThr c k t).mem = s.mem := rfl
@[simp] theorem State.setThr_full (s : State) (c k : Nat) (t : Thread) : (s.setThr c k t).full = s.full := rfl
@[simp] theorem State.setThr_lean (s : State) (c k : Nat) (t : Thread) : (s.setThr c k t).lean = s.lean := rfl
@[simp] theorem State.setThr_poison (s : State) (c k : Nat) (t : Thread) : (s.setThr c k t).poison = s.poison := rfl
@[simp] theorem State.setThr_upsets (s : State) (c k : Nat) (t : Thread) : (s.setThr c k t).upsets = s.upsets := rfl
@[simp] theorem State.setThr_codeLog (s : State) (c k : Nat) (t : Thread) : (s.setThr c k t).codeLog = s.codeLog := rfl
@[simp] theorem State.setThr_cores (s : State) (c k : Nat) (t : Thread) : (s.setThr c k t).cores = s.cores := rfl
@[simp] theorem State.setThr_gangs (s : State) (c k : Nat) (t : Thread) : (s.setThr c k t).gangs = s.gangs := rfl
@[simp] theorem State.setThr_gangsNext (s : State) (c k : Nat) (t : Thread) : (s.setThr c k t).gangsNext = s.gangsNext := rfl
@[simp] theorem State.setThr_gangV (s : State) (c k : Nat) (t : Thread) : (s.setThr c k t).gangV = s.gangV := rfl
@[simp] theorem State.setThr_clusters (s : State) (c k : Nat) (t : Thread) : (s.setThr c k t).clusters = s.clusters := rfl
@[simp] theorem State.setThr_dies (s : State) (c k : Nat) (t : Thread) : (s.setThr c k t).dies = s.dies := rfl
@[simp] theorem State.setThr_stops (s : State) (c k : Nat) (t : Thread) : (s.setThr c k t).stops = s.stops := rfl
@[simp] theorem State.setThr_bufs (s : State) (c k : Nat) (t : Thread) : (s.setThr c k t).bufs = s.bufs := rfl
@[simp] theorem State.setThr_net (s : State) (c k : Nat) (t : Thread) : (s.setThr c k t).net = s.net := rfl
@[simp] theorem State.setThr_arbs (s : State) (c k : Nat) (t : Thread) : (s.setThr c k t).arbs = s.arbs := rfl
@[simp] theorem State.setThr_unacked (s : State) (c k : Nat) (t : Thread) : (s.setThr c k t).unacked = s.unacked := rfl
@[simp] theorem State.setThr_fetched (s : State) (c k : Nat) (t : Thread) : (s.setThr c k t).fetched = s.fetched := rfl
@[simp] theorem State.setThr_porters (s : State) (c k : Nat) (t : Thread) : (s.setThr c k t).porters = s.porters := rfl
@[simp] theorem State.setThr_hub (s : State) (c k : Nat) (t : Thread) : (s.setThr c k t).hub = s.hub := rfl

/-! ### delThr -/

@[simp] theorem State.delThr_cycle (s : State) (c k : Nat) : (s.delThr c k).cycle = s.cycle := rfl
@[simp] theorem State.delThr_ctx (s : State) (c k : Nat) : (s.delThr c k).ctx = s.ctx := rfl
@[simp] theorem State.delThr_agenda (s : State) (c k : Nat) : (s.delThr c k).agenda = s.agenda := rfl
@[simp] theorem State.delThr_issued (s : State) (c k : Nat) : (s.delThr c k).issued = s.issued := rfl
@[simp] theorem State.delThr_fresh (s : State) (c k : Nat) : (s.delThr c k).fresh = s.fresh := rfl
@[simp] theorem State.delThr_mem (s : State) (c k : Nat) : (s.delThr c k).mem = s.mem := rfl
@[simp] theorem State.delThr_full (s : State) (c k : Nat) : (s.delThr c k).full = s.full := rfl
@[simp] theorem State.delThr_lean (s : State) (c k : Nat) : (s.delThr c k).lean = s.lean := rfl
@[simp] theorem State.delThr_poison (s : State) (c k : Nat) : (s.delThr c k).poison = s.poison := rfl
@[simp] theorem State.delThr_upsets (s : State) (c k : Nat) : (s.delThr c k).upsets = s.upsets := rfl
@[simp] theorem State.delThr_codeLog (s : State) (c k : Nat) : (s.delThr c k).codeLog = s.codeLog := rfl
@[simp] theorem State.delThr_cores (s : State) (c k : Nat) : (s.delThr c k).cores = s.cores := rfl
@[simp] theorem State.delThr_gangs (s : State) (c k : Nat) : (s.delThr c k).gangs = s.gangs := rfl
@[simp] theorem State.delThr_gangsNext (s : State) (c k : Nat) : (s.delThr c k).gangsNext = s.gangsNext := rfl
@[simp] theorem State.delThr_gangV (s : State) (c k : Nat) : (s.delThr c k).gangV = s.gangV := rfl
@[simp] theorem State.delThr_clusters (s : State) (c k : Nat) : (s.delThr c k).clusters = s.clusters := rfl
@[simp] theorem State.delThr_dies (s : State) (c k : Nat) : (s.delThr c k).dies = s.dies := rfl
@[simp] theorem State.delThr_stops (s : State) (c k : Nat) : (s.delThr c k).stops = s.stops := rfl
@[simp] theorem State.delThr_bufs (s : State) (c k : Nat) : (s.delThr c k).bufs = s.bufs := rfl
@[simp] theorem State.delThr_net (s : State) (c k : Nat) : (s.delThr c k).net = s.net := rfl
@[simp] theorem State.delThr_arbs (s : State) (c k : Nat) : (s.delThr c k).arbs = s.arbs := rfl
@[simp] theorem State.delThr_unacked (s : State) (c k : Nat) : (s.delThr c k).unacked = s.unacked := rfl
@[simp] theorem State.delThr_fetched (s : State) (c k : Nat) : (s.delThr c k).fetched = s.fetched := rfl
@[simp] theorem State.delThr_porters (s : State) (c k : Nat) : (s.delThr c k).porters = s.porters := rfl
@[simp] theorem State.delThr_hub (s : State) (c k : Nat) : (s.delThr c k).hub = s.hub := rfl

/-! ### modOwn -/

@[simp] theorem State.modOwn_cycle (s : State) (f : Core → Core) : (s.modOwn f).cycle = s.cycle := rfl
@[simp] theorem State.modOwn_ctx (s : State) (f : Core → Core) : (s.modOwn f).ctx = s.ctx := rfl
@[simp] theorem State.modOwn_agenda (s : State) (f : Core → Core) : (s.modOwn f).agenda = s.agenda := rfl
@[simp] theorem State.modOwn_issued (s : State) (f : Core → Core) : (s.modOwn f).issued = s.issued := rfl
@[simp] theorem State.modOwn_fresh (s : State) (f : Core → Core) : (s.modOwn f).fresh = s.fresh := rfl
@[simp] theorem State.modOwn_mem (s : State) (f : Core → Core) : (s.modOwn f).mem = s.mem := rfl
@[simp] theorem State.modOwn_full (s : State) (f : Core → Core) : (s.modOwn f).full = s.full := rfl
@[simp] theorem State.modOwn_lean (s : State) (f : Core → Core) : (s.modOwn f).lean = s.lean := rfl
@[simp] theorem State.modOwn_poison (s : State) (f : Core → Core) : (s.modOwn f).poison = s.poison := rfl
@[simp] theorem State.modOwn_upsets (s : State) (f : Core → Core) : (s.modOwn f).upsets = s.upsets := rfl
@[simp] theorem State.modOwn_codeLog (s : State) (f : Core → Core) : (s.modOwn f).codeLog = s.codeLog := rfl
@[simp] theorem State.modOwn_threads (s : State) (f : Core → Core) : (s.modOwn f).threads = s.threads := rfl
@[simp] theorem State.modOwn_gangs (s : State) (f : Core → Core) : (s.modOwn f).gangs = s.gangs := rfl
@[simp] theorem State.modOwn_gangsNext (s : State) (f : Core → Core) : (s.modOwn f).gangsNext = s.gangsNext := rfl
@[simp] theorem State.modOwn_gangV (s : State) (f : Core → Core) : (s.modOwn f).gangV = s.gangV := rfl
@[simp] theorem State.modOwn_clusters (s : State) (f : Core → Core) : (s.modOwn f).clusters = s.clusters := rfl
@[simp] theorem State.modOwn_dies (s : State) (f : Core → Core) : (s.modOwn f).dies = s.dies := rfl
@[simp] theorem State.modOwn_stops (s : State) (f : Core → Core) : (s.modOwn f).stops = s.stops := rfl
@[simp] theorem State.modOwn_bufs (s : State) (f : Core → Core) : (s.modOwn f).bufs = s.bufs := rfl
@[simp] theorem State.modOwn_net (s : State) (f : Core → Core) : (s.modOwn f).net = s.net := rfl
@[simp] theorem State.modOwn_arbs (s : State) (f : Core → Core) : (s.modOwn f).arbs = s.arbs := rfl
@[simp] theorem State.modOwn_unacked (s : State) (f : Core → Core) : (s.modOwn f).unacked = s.unacked := rfl
@[simp] theorem State.modOwn_fetched (s : State) (f : Core → Core) : (s.modOwn f).fetched = s.fetched := rfl
@[simp] theorem State.modOwn_porters (s : State) (f : Core → Core) : (s.modOwn f).porters = s.porters := rfl
@[simp] theorem State.modOwn_hub (s : State) (f : Core → Core) : (s.modOwn f).hub = s.hub := rfl

/-! ### modCluster -/

@[simp] theorem State.modCluster_cycle (s : State) (c : Nat) (f : Cluster → Cluster) : (s.modCluster c f).cycle = s.cycle := rfl
@[simp] theorem State.modCluster_ctx (s : State) (c : Nat) (f : Cluster → Cluster) : (s.modCluster c f).ctx = s.ctx := rfl
@[simp] theorem State.modCluster_agenda (s : State) (c : Nat) (f : Cluster → Cluster) : (s.modCluster c f).agenda = s.agenda := rfl
@[simp] theorem State.modCluster_issued (s : State) (c : Nat) (f : Cluster → Cluster) : (s.modCluster c f).issued = s.issued := rfl
@[simp] theorem State.modCluster_fresh (s : State) (c : Nat) (f : Cluster → Cluster) : (s.modCluster c f).fresh = s.fresh := rfl
@[simp] theorem State.modCluster_mem (s : State) (c : Nat) (f : Cluster → Cluster) : (s.modCluster c f).mem = s.mem := rfl
@[simp] theorem State.modCluster_full (s : State) (c : Nat) (f : Cluster → Cluster) : (s.modCluster c f).full = s.full := rfl
@[simp] theorem State.modCluster_lean (s : State) (c : Nat) (f : Cluster → Cluster) : (s.modCluster c f).lean = s.lean := rfl
@[simp] theorem State.modCluster_poison (s : State) (c : Nat) (f : Cluster → Cluster) : (s.modCluster c f).poison = s.poison := rfl
@[simp] theorem State.modCluster_upsets (s : State) (c : Nat) (f : Cluster → Cluster) : (s.modCluster c f).upsets = s.upsets := rfl
@[simp] theorem State.modCluster_codeLog (s : State) (c : Nat) (f : Cluster → Cluster) : (s.modCluster c f).codeLog = s.codeLog := rfl
@[simp] theorem State.modCluster_threads (s : State) (c : Nat) (f : Cluster → Cluster) : (s.modCluster c f).threads = s.threads := rfl
@[simp] theorem State.modCluster_cores (s : State) (c : Nat) (f : Cluster → Cluster) : (s.modCluster c f).cores = s.cores := rfl
@[simp] theorem State.modCluster_gangs (s : State) (c : Nat) (f : Cluster → Cluster) : (s.modCluster c f).gangs = s.gangs := rfl
@[simp] theorem State.modCluster_gangsNext (s : State) (c : Nat) (f : Cluster → Cluster) : (s.modCluster c f).gangsNext = s.gangsNext := rfl
@[simp] theorem State.modCluster_gangV (s : State) (c : Nat) (f : Cluster → Cluster) : (s.modCluster c f).gangV = s.gangV := rfl
@[simp] theorem State.modCluster_dies (s : State) (c : Nat) (f : Cluster → Cluster) : (s.modCluster c f).dies = s.dies := rfl
@[simp] theorem State.modCluster_stops (s : State) (c : Nat) (f : Cluster → Cluster) : (s.modCluster c f).stops = s.stops := rfl
@[simp] theorem State.modCluster_bufs (s : State) (c : Nat) (f : Cluster → Cluster) : (s.modCluster c f).bufs = s.bufs := rfl
@[simp] theorem State.modCluster_net (s : State) (c : Nat) (f : Cluster → Cluster) : (s.modCluster c f).net = s.net := rfl
@[simp] theorem State.modCluster_arbs (s : State) (c : Nat) (f : Cluster → Cluster) : (s.modCluster c f).arbs = s.arbs := rfl
@[simp] theorem State.modCluster_unacked (s : State) (c : Nat) (f : Cluster → Cluster) : (s.modCluster c f).unacked = s.unacked := rfl
@[simp] theorem State.modCluster_fetched (s : State) (c : Nat) (f : Cluster → Cluster) : (s.modCluster c f).fetched = s.fetched := rfl
@[simp] theorem State.modCluster_porters (s : State) (c : Nat) (f : Cluster → Cluster) : (s.modCluster c f).porters = s.porters := rfl
@[simp] theorem State.modCluster_hub (s : State) (c : Nat) (f : Cluster → Cluster) : (s.modCluster c f).hub = s.hub := rfl

/-! ### modDie -/

@[simp] theorem State.modDie_cycle (s : State) (d : Nat) (f : Die → Die) : (s.modDie d f).cycle = s.cycle := rfl
@[simp] theorem State.modDie_ctx (s : State) (d : Nat) (f : Die → Die) : (s.modDie d f).ctx = s.ctx := rfl
@[simp] theorem State.modDie_agenda (s : State) (d : Nat) (f : Die → Die) : (s.modDie d f).agenda = s.agenda := rfl
@[simp] theorem State.modDie_issued (s : State) (d : Nat) (f : Die → Die) : (s.modDie d f).issued = s.issued := rfl
@[simp] theorem State.modDie_fresh (s : State) (d : Nat) (f : Die → Die) : (s.modDie d f).fresh = s.fresh := rfl
@[simp] theorem State.modDie_mem (s : State) (d : Nat) (f : Die → Die) : (s.modDie d f).mem = s.mem := rfl
@[simp] theorem State.modDie_full (s : State) (d : Nat) (f : Die → Die) : (s.modDie d f).full = s.full := rfl
@[simp] theorem State.modDie_lean (s : State) (d : Nat) (f : Die → Die) : (s.modDie d f).lean = s.lean := rfl
@[simp] theorem State.modDie_poison (s : State) (d : Nat) (f : Die → Die) : (s.modDie d f).poison = s.poison := rfl
@[simp] theorem State.modDie_upsets (s : State) (d : Nat) (f : Die → Die) : (s.modDie d f).upsets = s.upsets := rfl
@[simp] theorem State.modDie_codeLog (s : State) (d : Nat) (f : Die → Die) : (s.modDie d f).codeLog = s.codeLog := rfl
@[simp] theorem State.modDie_threads (s : State) (d : Nat) (f : Die → Die) : (s.modDie d f).threads = s.threads := rfl
@[simp] theorem State.modDie_cores (s : State) (d : Nat) (f : Die → Die) : (s.modDie d f).cores = s.cores := rfl
@[simp] theorem State.modDie_gangs (s : State) (d : Nat) (f : Die → Die) : (s.modDie d f).gangs = s.gangs := rfl
@[simp] theorem State.modDie_gangsNext (s : State) (d : Nat) (f : Die → Die) : (s.modDie d f).gangsNext = s.gangsNext := rfl
@[simp] theorem State.modDie_gangV (s : State) (d : Nat) (f : Die → Die) : (s.modDie d f).gangV = s.gangV := rfl
@[simp] theorem State.modDie_clusters (s : State) (d : Nat) (f : Die → Die) : (s.modDie d f).clusters = s.clusters := rfl
@[simp] theorem State.modDie_stops (s : State) (d : Nat) (f : Die → Die) : (s.modDie d f).stops = s.stops := rfl
@[simp] theorem State.modDie_bufs (s : State) (d : Nat) (f : Die → Die) : (s.modDie d f).bufs = s.bufs := rfl
@[simp] theorem State.modDie_net (s : State) (d : Nat) (f : Die → Die) : (s.modDie d f).net = s.net := rfl
@[simp] theorem State.modDie_arbs (s : State) (d : Nat) (f : Die → Die) : (s.modDie d f).arbs = s.arbs := rfl
@[simp] theorem State.modDie_unacked (s : State) (d : Nat) (f : Die → Die) : (s.modDie d f).unacked = s.unacked := rfl
@[simp] theorem State.modDie_fetched (s : State) (d : Nat) (f : Die → Die) : (s.modDie d f).fetched = s.fetched := rfl
@[simp] theorem State.modDie_porters (s : State) (d : Nat) (f : Die → Die) : (s.modDie d f).porters = s.porters := rfl
@[simp] theorem State.modDie_hub (s : State) (d : Nat) (f : Die → Die) : (s.modDie d f).hub = s.hub := rfl

/-! ### modStop -/

@[simp] theorem State.modStop_cycle (s : State) (p : Nat) (f : Stop → Stop) : (s.modStop p f).cycle = s.cycle := rfl
@[simp] theorem State.modStop_ctx (s : State) (p : Nat) (f : Stop → Stop) : (s.modStop p f).ctx = s.ctx := rfl
@[simp] theorem State.modStop_agenda (s : State) (p : Nat) (f : Stop → Stop) : (s.modStop p f).agenda = s.agenda := rfl
@[simp] theorem State.modStop_issued (s : State) (p : Nat) (f : Stop → Stop) : (s.modStop p f).issued = s.issued := rfl
@[simp] theorem State.modStop_fresh (s : State) (p : Nat) (f : Stop → Stop) : (s.modStop p f).fresh = s.fresh := rfl
@[simp] theorem State.modStop_mem (s : State) (p : Nat) (f : Stop → Stop) : (s.modStop p f).mem = s.mem := rfl
@[simp] theorem State.modStop_full (s : State) (p : Nat) (f : Stop → Stop) : (s.modStop p f).full = s.full := rfl
@[simp] theorem State.modStop_lean (s : State) (p : Nat) (f : Stop → Stop) : (s.modStop p f).lean = s.lean := rfl
@[simp] theorem State.modStop_poison (s : State) (p : Nat) (f : Stop → Stop) : (s.modStop p f).poison = s.poison := rfl
@[simp] theorem State.modStop_upsets (s : State) (p : Nat) (f : Stop → Stop) : (s.modStop p f).upsets = s.upsets := rfl
@[simp] theorem State.modStop_codeLog (s : State) (p : Nat) (f : Stop → Stop) : (s.modStop p f).codeLog = s.codeLog := rfl
@[simp] theorem State.modStop_threads (s : State) (p : Nat) (f : Stop → Stop) : (s.modStop p f).threads = s.threads := rfl
@[simp] theorem State.modStop_cores (s : State) (p : Nat) (f : Stop → Stop) : (s.modStop p f).cores = s.cores := rfl
@[simp] theorem State.modStop_gangs (s : State) (p : Nat) (f : Stop → Stop) : (s.modStop p f).gangs = s.gangs := rfl
@[simp] theorem State.modStop_gangsNext (s : State) (p : Nat) (f : Stop → Stop) : (s.modStop p f).gangsNext = s.gangsNext := rfl
@[simp] theorem State.modStop_gangV (s : State) (p : Nat) (f : Stop → Stop) : (s.modStop p f).gangV = s.gangV := rfl
@[simp] theorem State.modStop_clusters (s : State) (p : Nat) (f : Stop → Stop) : (s.modStop p f).clusters = s.clusters := rfl
@[simp] theorem State.modStop_dies (s : State) (p : Nat) (f : Stop → Stop) : (s.modStop p f).dies = s.dies := rfl
@[simp] theorem State.modStop_bufs (s : State) (p : Nat) (f : Stop → Stop) : (s.modStop p f).bufs = s.bufs := rfl
@[simp] theorem State.modStop_net (s : State) (p : Nat) (f : Stop → Stop) : (s.modStop p f).net = s.net := rfl
@[simp] theorem State.modStop_arbs (s : State) (p : Nat) (f : Stop → Stop) : (s.modStop p f).arbs = s.arbs := rfl
@[simp] theorem State.modStop_unacked (s : State) (p : Nat) (f : Stop → Stop) : (s.modStop p f).unacked = s.unacked := rfl
@[simp] theorem State.modStop_fetched (s : State) (p : Nat) (f : Stop → Stop) : (s.modStop p f).fetched = s.fetched := rfl
@[simp] theorem State.modStop_porters (s : State) (p : Nat) (f : Stop → Stop) : (s.modStop p f).porters = s.porters := rfl
@[simp] theorem State.modStop_hub (s : State) (p : Nat) (f : Stop → Stop) : (s.modStop p f).hub = s.hub := rfl

/-! ### modHub -/

@[simp] theorem State.modHub_cycle (s : State) (f : Hub → Hub) : (s.modHub f).cycle = s.cycle := rfl
@[simp] theorem State.modHub_ctx (s : State) (f : Hub → Hub) : (s.modHub f).ctx = s.ctx := rfl
@[simp] theorem State.modHub_agenda (s : State) (f : Hub → Hub) : (s.modHub f).agenda = s.agenda := rfl
@[simp] theorem State.modHub_issued (s : State) (f : Hub → Hub) : (s.modHub f).issued = s.issued := rfl
@[simp] theorem State.modHub_fresh (s : State) (f : Hub → Hub) : (s.modHub f).fresh = s.fresh := rfl
@[simp] theorem State.modHub_mem (s : State) (f : Hub → Hub) : (s.modHub f).mem = s.mem := rfl
@[simp] theorem State.modHub_full (s : State) (f : Hub → Hub) : (s.modHub f).full = s.full := rfl
@[simp] theorem State.modHub_lean (s : State) (f : Hub → Hub) : (s.modHub f).lean = s.lean := rfl
@[simp] theorem State.modHub_poison (s : State) (f : Hub → Hub) : (s.modHub f).poison = s.poison := rfl
@[simp] theorem State.modHub_upsets (s : State) (f : Hub → Hub) : (s.modHub f).upsets = s.upsets := rfl
@[simp] theorem State.modHub_codeLog (s : State) (f : Hub → Hub) : (s.modHub f).codeLog = s.codeLog := rfl
@[simp] theorem State.modHub_threads (s : State) (f : Hub → Hub) : (s.modHub f).threads = s.threads := rfl
@[simp] theorem State.modHub_cores (s : State) (f : Hub → Hub) : (s.modHub f).cores = s.cores := rfl
@[simp] theorem State.modHub_gangs (s : State) (f : Hub → Hub) : (s.modHub f).gangs = s.gangs := rfl
@[simp] theorem State.modHub_gangsNext (s : State) (f : Hub → Hub) : (s.modHub f).gangsNext = s.gangsNext := rfl
@[simp] theorem State.modHub_gangV (s : State) (f : Hub → Hub) : (s.modHub f).gangV = s.gangV := rfl
@[simp] theorem State.modHub_clusters (s : State) (f : Hub → Hub) : (s.modHub f).clusters = s.clusters := rfl
@[simp] theorem State.modHub_dies (s : State) (f : Hub → Hub) : (s.modHub f).dies = s.dies := rfl
@[simp] theorem State.modHub_stops (s : State) (f : Hub → Hub) : (s.modHub f).stops = s.stops := rfl
@[simp] theorem State.modHub_bufs (s : State) (f : Hub → Hub) : (s.modHub f).bufs = s.bufs := rfl
@[simp] theorem State.modHub_net (s : State) (f : Hub → Hub) : (s.modHub f).net = s.net := rfl
@[simp] theorem State.modHub_arbs (s : State) (f : Hub → Hub) : (s.modHub f).arbs = s.arbs := rfl
@[simp] theorem State.modHub_unacked (s : State) (f : Hub → Hub) : (s.modHub f).unacked = s.unacked := rfl
@[simp] theorem State.modHub_fetched (s : State) (f : Hub → Hub) : (s.modHub f).fetched = s.fetched := rfl
@[simp] theorem State.modHub_porters (s : State) (f : Hub → Hub) : (s.modHub f).porters = s.porters := rfl

/-! ### withRes -/

@[simp] theorem State.withRes_cycle (s : State) (r : Res) : (s.withRes r).cycle = s.cycle := rfl
@[simp] theorem State.withRes_agenda (s : State) (r : Res) : (s.withRes r).agenda = s.agenda := rfl
@[simp] theorem State.withRes_issued (s : State) (r : Res) : (s.withRes r).issued = s.issued := rfl
@[simp] theorem State.withRes_fresh (s : State) (r : Res) : (s.withRes r).fresh = s.fresh := rfl
@[simp] theorem State.withRes_mem (s : State) (r : Res) : (s.withRes r).mem = s.mem := rfl
@[simp] theorem State.withRes_full (s : State) (r : Res) : (s.withRes r).full = s.full := rfl
@[simp] theorem State.withRes_lean (s : State) (r : Res) : (s.withRes r).lean = s.lean := rfl
@[simp] theorem State.withRes_poison (s : State) (r : Res) : (s.withRes r).poison = s.poison := rfl
@[simp] theorem State.withRes_upsets (s : State) (r : Res) : (s.withRes r).upsets = s.upsets := rfl
@[simp] theorem State.withRes_codeLog (s : State) (r : Res) : (s.withRes r).codeLog = s.codeLog := rfl
@[simp] theorem State.withRes_threads (s : State) (r : Res) : (s.withRes r).threads = s.threads := rfl
@[simp] theorem State.withRes_cores (s : State) (r : Res) : (s.withRes r).cores = s.cores := rfl
@[simp] theorem State.withRes_gangs (s : State) (r : Res) : (s.withRes r).gangs = s.gangs := rfl
@[simp] theorem State.withRes_gangsNext (s : State) (r : Res) : (s.withRes r).gangsNext = s.gangsNext := rfl
@[simp] theorem State.withRes_gangV (s : State) (r : Res) : (s.withRes r).gangV = s.gangV := rfl
@[simp] theorem State.withRes_clusters (s : State) (r : Res) : (s.withRes r).clusters = s.clusters := rfl
@[simp] theorem State.withRes_dies (s : State) (r : Res) : (s.withRes r).dies = s.dies := rfl
@[simp] theorem State.withRes_stops (s : State) (r : Res) : (s.withRes r).stops = s.stops := rfl
@[simp] theorem State.withRes_bufs (s : State) (r : Res) : (s.withRes r).bufs = s.bufs := rfl
@[simp] theorem State.withRes_net (s : State) (r : Res) : (s.withRes r).net = s.net := rfl
@[simp] theorem State.withRes_arbs (s : State) (r : Res) : (s.withRes r).arbs = s.arbs := rfl
@[simp] theorem State.withRes_unacked (s : State) (r : Res) : (s.withRes r).unacked = s.unacked := rfl
@[simp] theorem State.withRes_fetched (s : State) (r : Res) : (s.withRes r).fetched = s.fetched := rfl
@[simp] theorem State.withRes_porters (s : State) (r : Res) : (s.withRes r).porters = s.porters := rfl
@[simp] theorem State.withRes_hub (s : State) (r : Res) : (s.withRes r).hub = s.hub := rfl

/-! ### bump -/

@[simp] theorem State.bump_cycle (s : State)  : (s.bump).cycle = s.cycle := rfl
@[simp] theorem State.bump_ctx (s : State)  : (s.bump).ctx = s.ctx := rfl
@[simp] theorem State.bump_agenda (s : State)  : (s.bump).agenda = s.agenda := rfl
@[simp] theorem State.bump_issued (s : State)  : (s.bump).issued = s.issued := rfl
@[simp] theorem State.bump_mem (s : State)  : (s.bump).mem = s.mem := rfl
@[simp] theorem State.bump_full (s : State)  : (s.bump).full = s.full := rfl
@[simp] theorem State.bump_lean (s : State)  : (s.bump).lean = s.lean := rfl
@[simp] theorem State.bump_poison (s : State)  : (s.bump).poison = s.poison := rfl
@[simp] theorem State.bump_upsets (s : State)  : (s.bump).upsets = s.upsets := rfl
@[simp] theorem State.bump_codeLog (s : State)  : (s.bump).codeLog = s.codeLog := rfl
@[simp] theorem State.bump_threads (s : State)  : (s.bump).threads = s.threads := rfl
@[simp] theorem State.bump_cores (s : State)  : (s.bump).cores = s.cores := rfl
@[simp] theorem State.bump_gangs (s : State)  : (s.bump).gangs = s.gangs := rfl
@[simp] theorem State.bump_gangsNext (s : State)  : (s.bump).gangsNext = s.gangsNext := rfl
@[simp] theorem State.bump_gangV (s : State)  : (s.bump).gangV = s.gangV := rfl
@[simp] theorem State.bump_clusters (s : State)  : (s.bump).clusters = s.clusters := rfl
@[simp] theorem State.bump_dies (s : State)  : (s.bump).dies = s.dies := rfl
@[simp] theorem State.bump_stops (s : State)  : (s.bump).stops = s.stops := rfl
@[simp] theorem State.bump_bufs (s : State)  : (s.bump).bufs = s.bufs := rfl
@[simp] theorem State.bump_net (s : State)  : (s.bump).net = s.net := rfl
@[simp] theorem State.bump_arbs (s : State)  : (s.bump).arbs = s.arbs := rfl
@[simp] theorem State.bump_unacked (s : State)  : (s.bump).unacked = s.unacked := rfl
@[simp] theorem State.bump_fetched (s : State)  : (s.bump).fetched = s.fetched := rfl
@[simp] theorem State.bump_porters (s : State)  : (s.bump).porters = s.porters := rfl
@[simp] theorem State.bump_hub (s : State)  : (s.bump).hub = s.hub := rfl

/-! ### goto -/

@[simp] theorem State.goto_cycle (s : State) (t : Word) : (s.goto t).cycle = s.cycle := rfl
@[simp] theorem State.goto_agenda (s : State) (t : Word) : (s.goto t).agenda = s.agenda := rfl
@[simp] theorem State.goto_issued (s : State) (t : Word) : (s.goto t).issued = s.issued := rfl
@[simp] theorem State.goto_fresh (s : State) (t : Word) : (s.goto t).fresh = s.fresh := rfl
@[simp] theorem State.goto_mem (s : State) (t : Word) : (s.goto t).mem = s.mem := rfl
@[simp] theorem State.goto_full (s : State) (t : Word) : (s.goto t).full = s.full := rfl
@[simp] theorem State.goto_lean (s : State) (t : Word) : (s.goto t).lean = s.lean := rfl
@[simp] theorem State.goto_poison (s : State) (t : Word) : (s.goto t).poison = s.poison := rfl
@[simp] theorem State.goto_upsets (s : State) (t : Word) : (s.goto t).upsets = s.upsets := rfl
@[simp] theorem State.goto_codeLog (s : State) (t : Word) : (s.goto t).codeLog = s.codeLog := rfl
@[simp] theorem State.goto_threads (s : State) (t : Word) : (s.goto t).threads = s.threads := rfl
@[simp] theorem State.goto_cores (s : State) (t : Word) : (s.goto t).cores = s.cores := rfl
@[simp] theorem State.goto_gangs (s : State) (t : Word) : (s.goto t).gangs = s.gangs := rfl
@[simp] theorem State.goto_gangsNext (s : State) (t : Word) : (s.goto t).gangsNext = s.gangsNext := rfl
@[simp] theorem State.goto_gangV (s : State) (t : Word) : (s.goto t).gangV = s.gangV := rfl
@[simp] theorem State.goto_clusters (s : State) (t : Word) : (s.goto t).clusters = s.clusters := rfl
@[simp] theorem State.goto_dies (s : State) (t : Word) : (s.goto t).dies = s.dies := rfl
@[simp] theorem State.goto_stops (s : State) (t : Word) : (s.goto t).stops = s.stops := rfl
@[simp] theorem State.goto_bufs (s : State) (t : Word) : (s.goto t).bufs = s.bufs := rfl
@[simp] theorem State.goto_net (s : State) (t : Word) : (s.goto t).net = s.net := rfl
@[simp] theorem State.goto_arbs (s : State) (t : Word) : (s.goto t).arbs = s.arbs := rfl
@[simp] theorem State.goto_unacked (s : State) (t : Word) : (s.goto t).unacked = s.unacked := rfl
@[simp] theorem State.goto_fetched (s : State) (t : Word) : (s.goto t).fetched = s.fetched := rfl
@[simp] theorem State.goto_porters (s : State) (t : Word) : (s.goto t).porters = s.porters := rfl
@[simp] theorem State.goto_hub (s : State) (t : Word) : (s.goto t).hub = s.hub := rfl

/-! ### drop -/

@[simp] theorem State.drop_cycle (s : State) (i : Nat) : (s.drop i).cycle = s.cycle := rfl
@[simp] theorem State.drop_ctx (s : State) (i : Nat) : (s.drop i).ctx = s.ctx := rfl
@[simp] theorem State.drop_agenda (s : State) (i : Nat) : (s.drop i).agenda = s.agenda := rfl
@[simp] theorem State.drop_issued (s : State) (i : Nat) : (s.drop i).issued = s.issued := rfl
@[simp] theorem State.drop_fresh (s : State) (i : Nat) : (s.drop i).fresh = s.fresh := rfl
@[simp] theorem State.drop_mem (s : State) (i : Nat) : (s.drop i).mem = s.mem := rfl
@[simp] theorem State.drop_full (s : State) (i : Nat) : (s.drop i).full = s.full := rfl
@[simp] theorem State.drop_lean (s : State) (i : Nat) : (s.drop i).lean = s.lean := rfl
@[simp] theorem State.drop_poison (s : State) (i : Nat) : (s.drop i).poison = s.poison := rfl
@[simp] theorem State.drop_upsets (s : State) (i : Nat) : (s.drop i).upsets = s.upsets := rfl
@[simp] theorem State.drop_codeLog (s : State) (i : Nat) : (s.drop i).codeLog = s.codeLog := rfl
@[simp] theorem State.drop_threads (s : State) (i : Nat) : (s.drop i).threads = s.threads := rfl
@[simp] theorem State.drop_cores (s : State) (i : Nat) : (s.drop i).cores = s.cores := rfl
@[simp] theorem State.drop_gangs (s : State) (i : Nat) : (s.drop i).gangs = s.gangs := rfl
@[simp] theorem State.drop_gangsNext (s : State) (i : Nat) : (s.drop i).gangsNext = s.gangsNext := rfl
@[simp] theorem State.drop_gangV (s : State) (i : Nat) : (s.drop i).gangV = s.gangV := rfl
@[simp] theorem State.drop_clusters (s : State) (i : Nat) : (s.drop i).clusters = s.clusters := rfl
@[simp] theorem State.drop_dies (s : State) (i : Nat) : (s.drop i).dies = s.dies := rfl
@[simp] theorem State.drop_stops (s : State) (i : Nat) : (s.drop i).stops = s.stops := rfl
@[simp] theorem State.drop_bufs (s : State) (i : Nat) : (s.drop i).bufs = s.bufs := rfl
@[simp] theorem State.drop_arbs (s : State) (i : Nat) : (s.drop i).arbs = s.arbs := rfl
@[simp] theorem State.drop_unacked (s : State) (i : Nat) : (s.drop i).unacked = s.unacked := rfl
@[simp] theorem State.drop_fetched (s : State) (i : Nat) : (s.drop i).fetched = s.fetched := rfl
@[simp] theorem State.drop_porters (s : State) (i : Nat) : (s.drop i).porters = s.porters := rfl
@[simp] theorem State.drop_hub (s : State) (i : Nat) : (s.drop i).hub = s.hub := rfl

/-! ### modMsg -/

@[simp] theorem State.modMsg_cycle (s : State) (i : Nat) (f : Msg → Msg) : (s.modMsg i f).cycle = s.cycle := rfl
@[simp] theorem State.modMsg_ctx (s : State) (i : Nat) (f : Msg → Msg) : (s.modMsg i f).ctx = s.ctx := rfl
@[simp] theorem State.modMsg_agenda (s : State) (i : Nat) (f : Msg → Msg) : (s.modMsg i f).agenda = s.agenda := rfl
@[simp] theorem State.modMsg_issued (s : State) (i : Nat) (f : Msg → Msg) : (s.modMsg i f).issued = s.issued := rfl
@[simp] theorem State.modMsg_fresh (s : State) (i : Nat) (f : Msg → Msg) : (s.modMsg i f).fresh = s.fresh := rfl
@[simp] theorem State.modMsg_mem (s : State) (i : Nat) (f : Msg → Msg) : (s.modMsg i f).mem = s.mem := rfl
@[simp] theorem State.modMsg_full (s : State) (i : Nat) (f : Msg → Msg) : (s.modMsg i f).full = s.full := rfl
@[simp] theorem State.modMsg_lean (s : State) (i : Nat) (f : Msg → Msg) : (s.modMsg i f).lean = s.lean := rfl
@[simp] theorem State.modMsg_poison (s : State) (i : Nat) (f : Msg → Msg) : (s.modMsg i f).poison = s.poison := rfl
@[simp] theorem State.modMsg_upsets (s : State) (i : Nat) (f : Msg → Msg) : (s.modMsg i f).upsets = s.upsets := rfl
@[simp] theorem State.modMsg_codeLog (s : State) (i : Nat) (f : Msg → Msg) : (s.modMsg i f).codeLog = s.codeLog := rfl
@[simp] theorem State.modMsg_threads (s : State) (i : Nat) (f : Msg → Msg) : (s.modMsg i f).threads = s.threads := rfl
@[simp] theorem State.modMsg_cores (s : State) (i : Nat) (f : Msg → Msg) : (s.modMsg i f).cores = s.cores := rfl
@[simp] theorem State.modMsg_gangs (s : State) (i : Nat) (f : Msg → Msg) : (s.modMsg i f).gangs = s.gangs := rfl
@[simp] theorem State.modMsg_gangsNext (s : State) (i : Nat) (f : Msg → Msg) : (s.modMsg i f).gangsNext = s.gangsNext := rfl
@[simp] theorem State.modMsg_gangV (s : State) (i : Nat) (f : Msg → Msg) : (s.modMsg i f).gangV = s.gangV := rfl
@[simp] theorem State.modMsg_clusters (s : State) (i : Nat) (f : Msg → Msg) : (s.modMsg i f).clusters = s.clusters := rfl
@[simp] theorem State.modMsg_dies (s : State) (i : Nat) (f : Msg → Msg) : (s.modMsg i f).dies = s.dies := rfl
@[simp] theorem State.modMsg_stops (s : State) (i : Nat) (f : Msg → Msg) : (s.modMsg i f).stops = s.stops := rfl
@[simp] theorem State.modMsg_bufs (s : State) (i : Nat) (f : Msg → Msg) : (s.modMsg i f).bufs = s.bufs := rfl
@[simp] theorem State.modMsg_arbs (s : State) (i : Nat) (f : Msg → Msg) : (s.modMsg i f).arbs = s.arbs := rfl
@[simp] theorem State.modMsg_unacked (s : State) (i : Nat) (f : Msg → Msg) : (s.modMsg i f).unacked = s.unacked := rfl
@[simp] theorem State.modMsg_fetched (s : State) (i : Nat) (f : Msg → Msg) : (s.modMsg i f).fetched = s.fetched := rfl
@[simp] theorem State.modMsg_porters (s : State) (i : Nat) (f : Msg → Msg) : (s.modMsg i f).porters = s.porters := rfl
@[simp] theorem State.modMsg_hub (s : State) (i : Nat) (f : Msg → Msg) : (s.modMsg i f).hub = s.hub := rfl

/-! ### again -/

@[simp] theorem State.again_cycle (s : State) (i : Nat) : (s.again i).cycle = s.cycle := rfl
@[simp] theorem State.again_ctx (s : State) (i : Nat) : (s.again i).ctx = s.ctx := rfl
@[simp] theorem State.again_agenda (s : State) (i : Nat) : (s.again i).agenda = s.agenda := rfl
@[simp] theorem State.again_issued (s : State) (i : Nat) : (s.again i).issued = s.issued := rfl
@[simp] theorem State.again_fresh (s : State) (i : Nat) : (s.again i).fresh = s.fresh := rfl
@[simp] theorem State.again_mem (s : State) (i : Nat) : (s.again i).mem = s.mem := rfl
@[simp] theorem State.again_full (s : State) (i : Nat) : (s.again i).full = s.full := rfl
@[simp] theorem State.again_lean (s : State) (i : Nat) : (s.again i).lean = s.lean := rfl
@[simp] theorem State.again_poison (s : State) (i : Nat) : (s.again i).poison = s.poison := rfl
@[simp] theorem State.again_upsets (s : State) (i : Nat) : (s.again i).upsets = s.upsets := rfl
@[simp] theorem State.again_codeLog (s : State) (i : Nat) : (s.again i).codeLog = s.codeLog := rfl
@[simp] theorem State.again_threads (s : State) (i : Nat) : (s.again i).threads = s.threads := rfl
@[simp] theorem State.again_cores (s : State) (i : Nat) : (s.again i).cores = s.cores := rfl
@[simp] theorem State.again_gangs (s : State) (i : Nat) : (s.again i).gangs = s.gangs := rfl
@[simp] theorem State.again_gangsNext (s : State) (i : Nat) : (s.again i).gangsNext = s.gangsNext := rfl
@[simp] theorem State.again_gangV (s : State) (i : Nat) : (s.again i).gangV = s.gangV := rfl
@[simp] theorem State.again_clusters (s : State) (i : Nat) : (s.again i).clusters = s.clusters := rfl
@[simp] theorem State.again_dies (s : State) (i : Nat) : (s.again i).dies = s.dies := rfl
@[simp] theorem State.again_stops (s : State) (i : Nat) : (s.again i).stops = s.stops := rfl
@[simp] theorem State.again_bufs (s : State) (i : Nat) : (s.again i).bufs = s.bufs := rfl
@[simp] theorem State.again_arbs (s : State) (i : Nat) : (s.again i).arbs = s.arbs := rfl
@[simp] theorem State.again_unacked (s : State) (i : Nat) : (s.again i).unacked = s.unacked := rfl
@[simp] theorem State.again_fetched (s : State) (i : Nat) : (s.again i).fetched = s.fetched := rfl
@[simp] theorem State.again_porters (s : State) (i : Nat) : (s.again i).porters = s.porters := rfl
@[simp] theorem State.again_hub (s : State) (i : Nat) : (s.again i).hub = s.hub := rfl

/-! ### raiseRecord -/

@[simp] theorem State.raiseRecord_cycle (s : State) (c : Nat) (r : Record) : (s.raiseRecord c r).cycle = s.cycle := rfl
@[simp] theorem State.raiseRecord_ctx (s : State) (c : Nat) (r : Record) : (s.raiseRecord c r).ctx = s.ctx := rfl
@[simp] theorem State.raiseRecord_agenda (s : State) (c : Nat) (r : Record) : (s.raiseRecord c r).agenda = s.agenda := rfl
@[simp] theorem State.raiseRecord_issued (s : State) (c : Nat) (r : Record) : (s.raiseRecord c r).issued = s.issued := rfl
@[simp] theorem State.raiseRecord_fresh (s : State) (c : Nat) (r : Record) : (s.raiseRecord c r).fresh = s.fresh := rfl
@[simp] theorem State.raiseRecord_mem (s : State) (c : Nat) (r : Record) : (s.raiseRecord c r).mem = s.mem := rfl
@[simp] theorem State.raiseRecord_full (s : State) (c : Nat) (r : Record) : (s.raiseRecord c r).full = s.full := rfl
@[simp] theorem State.raiseRecord_lean (s : State) (c : Nat) (r : Record) : (s.raiseRecord c r).lean = s.lean := rfl
@[simp] theorem State.raiseRecord_poison (s : State) (c : Nat) (r : Record) : (s.raiseRecord c r).poison = s.poison := rfl
@[simp] theorem State.raiseRecord_upsets (s : State) (c : Nat) (r : Record) : (s.raiseRecord c r).upsets = s.upsets := rfl
@[simp] theorem State.raiseRecord_codeLog (s : State) (c : Nat) (r : Record) : (s.raiseRecord c r).codeLog = s.codeLog := rfl
@[simp] theorem State.raiseRecord_threads (s : State) (c : Nat) (r : Record) : (s.raiseRecord c r).threads = s.threads := rfl
@[simp] theorem State.raiseRecord_gangs (s : State) (c : Nat) (r : Record) : (s.raiseRecord c r).gangs = s.gangs := rfl
@[simp] theorem State.raiseRecord_gangsNext (s : State) (c : Nat) (r : Record) : (s.raiseRecord c r).gangsNext = s.gangsNext := rfl
@[simp] theorem State.raiseRecord_gangV (s : State) (c : Nat) (r : Record) : (s.raiseRecord c r).gangV = s.gangV := rfl
@[simp] theorem State.raiseRecord_clusters (s : State) (c : Nat) (r : Record) : (s.raiseRecord c r).clusters = s.clusters := rfl
@[simp] theorem State.raiseRecord_dies (s : State) (c : Nat) (r : Record) : (s.raiseRecord c r).dies = s.dies := rfl
@[simp] theorem State.raiseRecord_stops (s : State) (c : Nat) (r : Record) : (s.raiseRecord c r).stops = s.stops := rfl
@[simp] theorem State.raiseRecord_bufs (s : State) (c : Nat) (r : Record) : (s.raiseRecord c r).bufs = s.bufs := rfl
@[simp] theorem State.raiseRecord_net (s : State) (c : Nat) (r : Record) : (s.raiseRecord c r).net = s.net := rfl
@[simp] theorem State.raiseRecord_arbs (s : State) (c : Nat) (r : Record) : (s.raiseRecord c r).arbs = s.arbs := rfl
@[simp] theorem State.raiseRecord_unacked (s : State) (c : Nat) (r : Record) : (s.raiseRecord c r).unacked = s.unacked := rfl
@[simp] theorem State.raiseRecord_fetched (s : State) (c : Nat) (r : Record) : (s.raiseRecord c r).fetched = s.fetched := rfl
@[simp] theorem State.raiseRecord_porters (s : State) (c : Nat) (r : Record) : (s.raiseRecord c r).porters = s.porters := rfl
@[simp] theorem State.raiseRecord_hub (s : State) (c : Nat) (r : Record) : (s.raiseRecord c r).hub = s.hub := rfl

/-! ### modBuf -/

@[simp] theorem State.modBuf_cycle (s : State) (q : Nat) (f : Buf → Buf) : (s.modBuf q f).cycle = s.cycle := rfl
@[simp] theorem State.modBuf_ctx (s : State) (q : Nat) (f : Buf → Buf) : (s.modBuf q f).ctx = s.ctx := rfl
@[simp] theorem State.modBuf_agenda (s : State) (q : Nat) (f : Buf → Buf) : (s.modBuf q f).agenda = s.agenda := rfl
@[simp] theorem State.modBuf_issued (s : State) (q : Nat) (f : Buf → Buf) : (s.modBuf q f).issued = s.issued := rfl
@[simp] theorem State.modBuf_fresh (s : State) (q : Nat) (f : Buf → Buf) : (s.modBuf q f).fresh = s.fresh := rfl
@[simp] theorem State.modBuf_mem (s : State) (q : Nat) (f : Buf → Buf) : (s.modBuf q f).mem = s.mem := rfl
@[simp] theorem State.modBuf_full (s : State) (q : Nat) (f : Buf → Buf) : (s.modBuf q f).full = s.full := rfl
@[simp] theorem State.modBuf_lean (s : State) (q : Nat) (f : Buf → Buf) : (s.modBuf q f).lean = s.lean := rfl
@[simp] theorem State.modBuf_poison (s : State) (q : Nat) (f : Buf → Buf) : (s.modBuf q f).poison = s.poison := rfl
@[simp] theorem State.modBuf_upsets (s : State) (q : Nat) (f : Buf → Buf) : (s.modBuf q f).upsets = s.upsets := rfl
@[simp] theorem State.modBuf_codeLog (s : State) (q : Nat) (f : Buf → Buf) : (s.modBuf q f).codeLog = s.codeLog := rfl
@[simp] theorem State.modBuf_threads (s : State) (q : Nat) (f : Buf → Buf) : (s.modBuf q f).threads = s.threads := rfl
@[simp] theorem State.modBuf_cores (s : State) (q : Nat) (f : Buf → Buf) : (s.modBuf q f).cores = s.cores := rfl
@[simp] theorem State.modBuf_gangs (s : State) (q : Nat) (f : Buf → Buf) : (s.modBuf q f).gangs = s.gangs := rfl
@[simp] theorem State.modBuf_gangsNext (s : State) (q : Nat) (f : Buf → Buf) : (s.modBuf q f).gangsNext = s.gangsNext := rfl
@[simp] theorem State.modBuf_gangV (s : State) (q : Nat) (f : Buf → Buf) : (s.modBuf q f).gangV = s.gangV := rfl
@[simp] theorem State.modBuf_clusters (s : State) (q : Nat) (f : Buf → Buf) : (s.modBuf q f).clusters = s.clusters := rfl
@[simp] theorem State.modBuf_dies (s : State) (q : Nat) (f : Buf → Buf) : (s.modBuf q f).dies = s.dies := rfl
@[simp] theorem State.modBuf_stops (s : State) (q : Nat) (f : Buf → Buf) : (s.modBuf q f).stops = s.stops := rfl
@[simp] theorem State.modBuf_net (s : State) (q : Nat) (f : Buf → Buf) : (s.modBuf q f).net = s.net := rfl
@[simp] theorem State.modBuf_arbs (s : State) (q : Nat) (f : Buf → Buf) : (s.modBuf q f).arbs = s.arbs := rfl
@[simp] theorem State.modBuf_unacked (s : State) (q : Nat) (f : Buf → Buf) : (s.modBuf q f).unacked = s.unacked := rfl
@[simp] theorem State.modBuf_fetched (s : State) (q : Nat) (f : Buf → Buf) : (s.modBuf q f).fetched = s.fetched := rfl
@[simp] theorem State.modBuf_porters (s : State) (q : Nat) (f : Buf → Buf) : (s.modBuf q f).porters = s.porters := rfl
@[simp] theorem State.modBuf_hub (s : State) (q : Nat) (f : Buf → Buf) : (s.modBuf q f).hub = s.hub := rfl

/-! ### modThr and what is built on it -/

@[simp] theorem State.modThr_cycle (s : State) (c k : Nat) (f : Thread → Thread) : (s.modThr c k f).cycle = s.cycle := by
  unfold State.modThr; split <;> rfl
@[simp] theorem State.modThr_ctx (s : State) (c k : Nat) (f : Thread → Thread) : (s.modThr c k f).ctx = s.ctx := by
  unfold State.modThr; split <;> rfl
@[simp] theorem State.modThr_agenda (s : State) (c k : Nat) (f : Thread → Thread) : (s.modThr c k f).agenda = s.agenda := by
  unfold State.modThr; split <;> rfl
@[simp] theorem State.modThr_issued (s : State) (c k : Nat) (f : Thread → Thread) : (s.modThr c k f).issued = s.issued := by
  unfold State.modThr; split <;> rfl
@[simp] theorem State.modThr_fresh (s : State) (c k : Nat) (f : Thread → Thread) : (s.modThr c k f).fresh = s.fresh := by
  unfold State.modThr; split <;> rfl
@[simp] theorem State.modThr_mem (s : State) (c k : Nat) (f : Thread → Thread) : (s.modThr c k f).mem = s.mem := by
  unfold State.modThr; split <;> rfl
@[simp] theorem State.modThr_full (s : State) (c k : Nat) (f : Thread → Thread) : (s.modThr c k f).full = s.full := by
  unfold State.modThr; split <;> rfl
@[simp] theorem State.modThr_lean (s : State) (c k : Nat) (f : Thread → Thread) : (s.modThr c k f).lean = s.lean := by
  unfold State.modThr; split <;> rfl
@[simp] theorem State.modThr_poison (s : State) (c k : Nat) (f : Thread → Thread) : (s.modThr c k f).poison = s.poison := by
  unfold State.modThr; split <;> rfl
@[simp] theorem State.modThr_upsets (s : State) (c k : Nat) (f : Thread → Thread) : (s.modThr c k f).upsets = s.upsets := by
  unfold State.modThr; split <;> rfl
@[simp] theorem State.modThr_codeLog (s : State) (c k : Nat) (f : Thread → Thread) : (s.modThr c k f).codeLog = s.codeLog := by
  unfold State.modThr; split <;> rfl
@[simp] theorem State.modThr_cores (s : State) (c k : Nat) (f : Thread → Thread) : (s.modThr c k f).cores = s.cores := by
  unfold State.modThr; split <;> rfl
@[simp] theorem State.modThr_gangs (s : State) (c k : Nat) (f : Thread → Thread) : (s.modThr c k f).gangs = s.gangs := by
  unfold State.modThr; split <;> rfl
@[simp] theorem State.modThr_gangsNext (s : State) (c k : Nat) (f : Thread → Thread) : (s.modThr c k f).gangsNext = s.gangsNext := by
  unfold State.modThr; split <;> rfl
@[simp] theorem State.modThr_gangV (s : State) (c k : Nat) (f : Thread → Thread) : (s.modThr c k f).gangV = s.gangV := by
  unfold State.modThr; split <;> rfl
@[simp] theorem State.modThr_clusters (s : State) (c k : Nat) (f : Thread → Thread) : (s.modThr c k f).clusters = s.clusters := by
  unfold State.modThr; split <;> rfl
@[simp] theorem State.modThr_dies (s : State) (c k : Nat) (f : Thread → Thread) : (s.modThr c k f).dies = s.dies := by
  unfold State.modThr; split <;> rfl
@[simp] theorem State.modThr_stops (s : State) (c k : Nat) (f : Thread → Thread) : (s.modThr c k f).stops = s.stops := by
  unfold State.modThr; split <;> rfl
@[simp] theorem State.modThr_bufs (s : State) (c k : Nat) (f : Thread → Thread) : (s.modThr c k f).bufs = s.bufs := by
  unfold State.modThr; split <;> rfl
@[simp] theorem State.modThr_net (s : State) (c k : Nat) (f : Thread → Thread) : (s.modThr c k f).net = s.net := by
  unfold State.modThr; split <;> rfl
@[simp] theorem State.modThr_arbs (s : State) (c k : Nat) (f : Thread → Thread) : (s.modThr c k f).arbs = s.arbs := by
  unfold State.modThr; split <;> rfl
@[simp] theorem State.modThr_unacked (s : State) (c k : Nat) (f : Thread → Thread) : (s.modThr c k f).unacked = s.unacked := by
  unfold State.modThr; split <;> rfl
@[simp] theorem State.modThr_fetched (s : State) (c k : Nat) (f : Thread → Thread) : (s.modThr c k f).fetched = s.fetched := by
  unfold State.modThr; split <;> rfl
@[simp] theorem State.modThr_porters (s : State) (c k : Nat) (f : Thread → Thread) : (s.modThr c k f).porters = s.porters := by
  unfold State.modThr; split <;> rfl
@[simp] theorem State.modThr_hub (s : State) (c k : Nat) (f : Thread → Thread) : (s.modThr c k f).hub = s.hub := by
  unfold State.modThr; split <;> rfl

/-! ### modCur -/

@[simp] theorem State.modCur_cycle (s : State) (f : Thread → Thread) : (s.modCur f).cycle = s.cycle := by simp [State.modCur]
@[simp] theorem State.modCur_ctx (s : State) (f : Thread → Thread) : (s.modCur f).ctx = s.ctx := by simp [State.modCur]
@[simp] theorem State.modCur_agenda (s : State) (f : Thread → Thread) : (s.modCur f).agenda = s.agenda := by simp [State.modCur]
@[simp] theorem State.modCur_issued (s : State) (f : Thread → Thread) : (s.modCur f).issued = s.issued := by simp [State.modCur]
@[simp] theorem State.modCur_fresh (s : State) (f : Thread → Thread) : (s.modCur f).fresh = s.fresh := by simp [State.modCur]
@[simp] theorem State.modCur_mem (s : State) (f : Thread → Thread) : (s.modCur f).mem = s.mem := by simp [State.modCur]
@[simp] theorem State.modCur_full (s : State) (f : Thread → Thread) : (s.modCur f).full = s.full := by simp [State.modCur]
@[simp] theorem State.modCur_lean (s : State) (f : Thread → Thread) : (s.modCur f).lean = s.lean := by simp [State.modCur]
@[simp] theorem State.modCur_poison (s : State) (f : Thread → Thread) : (s.modCur f).poison = s.poison := by simp [State.modCur]
@[simp] theorem State.modCur_upsets (s : State) (f : Thread → Thread) : (s.modCur f).upsets = s.upsets := by simp [State.modCur]
@[simp] theorem State.modCur_codeLog (s : State) (f : Thread → Thread) : (s.modCur f).codeLog = s.codeLog := by simp [State.modCur]
@[simp] theorem State.modCur_cores (s : State) (f : Thread → Thread) : (s.modCur f).cores = s.cores := by simp [State.modCur]
@[simp] theorem State.modCur_gangs (s : State) (f : Thread → Thread) : (s.modCur f).gangs = s.gangs := by simp [State.modCur]
@[simp] theorem State.modCur_gangsNext (s : State) (f : Thread → Thread) : (s.modCur f).gangsNext = s.gangsNext := by simp [State.modCur]
@[simp] theorem State.modCur_gangV (s : State) (f : Thread → Thread) : (s.modCur f).gangV = s.gangV := by simp [State.modCur]
@[simp] theorem State.modCur_clusters (s : State) (f : Thread → Thread) : (s.modCur f).clusters = s.clusters := by simp [State.modCur]
@[simp] theorem State.modCur_dies (s : State) (f : Thread → Thread) : (s.modCur f).dies = s.dies := by simp [State.modCur]
@[simp] theorem State.modCur_stops (s : State) (f : Thread → Thread) : (s.modCur f).stops = s.stops := by simp [State.modCur]
@[simp] theorem State.modCur_bufs (s : State) (f : Thread → Thread) : (s.modCur f).bufs = s.bufs := by simp [State.modCur]
@[simp] theorem State.modCur_net (s : State) (f : Thread → Thread) : (s.modCur f).net = s.net := by simp [State.modCur]
@[simp] theorem State.modCur_arbs (s : State) (f : Thread → Thread) : (s.modCur f).arbs = s.arbs := by simp [State.modCur]
@[simp] theorem State.modCur_unacked (s : State) (f : Thread → Thread) : (s.modCur f).unacked = s.unacked := by simp [State.modCur]
@[simp] theorem State.modCur_fetched (s : State) (f : Thread → Thread) : (s.modCur f).fetched = s.fetched := by simp [State.modCur]
@[simp] theorem State.modCur_porters (s : State) (f : Thread → Thread) : (s.modCur f).porters = s.porters := by simp [State.modCur]
@[simp] theorem State.modCur_hub (s : State) (f : Thread → Thread) : (s.modCur f).hub = s.hub := by simp [State.modCur]

/-! ### wv -/

@[simp] theorem State.wv_cycle (s : State) (r : Nat) (x : VReg) : (s.wv r x).cycle = s.cycle := by simp [State.wv, State.modCur]
@[simp] theorem State.wv_ctx (s : State) (r : Nat) (x : VReg) : (s.wv r x).ctx = s.ctx := by simp [State.wv, State.modCur]
@[simp] theorem State.wv_agenda (s : State) (r : Nat) (x : VReg) : (s.wv r x).agenda = s.agenda := by simp [State.wv, State.modCur]
@[simp] theorem State.wv_issued (s : State) (r : Nat) (x : VReg) : (s.wv r x).issued = s.issued := by simp [State.wv, State.modCur]
@[simp] theorem State.wv_fresh (s : State) (r : Nat) (x : VReg) : (s.wv r x).fresh = s.fresh := by simp [State.wv, State.modCur]
@[simp] theorem State.wv_mem (s : State) (r : Nat) (x : VReg) : (s.wv r x).mem = s.mem := by simp [State.wv, State.modCur]
@[simp] theorem State.wv_full (s : State) (r : Nat) (x : VReg) : (s.wv r x).full = s.full := by simp [State.wv, State.modCur]
@[simp] theorem State.wv_lean (s : State) (r : Nat) (x : VReg) : (s.wv r x).lean = s.lean := by simp [State.wv, State.modCur]
@[simp] theorem State.wv_poison (s : State) (r : Nat) (x : VReg) : (s.wv r x).poison = s.poison := by simp [State.wv, State.modCur]
@[simp] theorem State.wv_upsets (s : State) (r : Nat) (x : VReg) : (s.wv r x).upsets = s.upsets := by simp [State.wv, State.modCur]
@[simp] theorem State.wv_codeLog (s : State) (r : Nat) (x : VReg) : (s.wv r x).codeLog = s.codeLog := by simp [State.wv, State.modCur]
@[simp] theorem State.wv_cores (s : State) (r : Nat) (x : VReg) : (s.wv r x).cores = s.cores := by simp [State.wv, State.modCur]
@[simp] theorem State.wv_gangs (s : State) (r : Nat) (x : VReg) : (s.wv r x).gangs = s.gangs := by simp [State.wv, State.modCur]
@[simp] theorem State.wv_gangsNext (s : State) (r : Nat) (x : VReg) : (s.wv r x).gangsNext = s.gangsNext := by simp [State.wv, State.modCur]
@[simp] theorem State.wv_gangV (s : State) (r : Nat) (x : VReg) : (s.wv r x).gangV = s.gangV := by simp [State.wv, State.modCur]
@[simp] theorem State.wv_clusters (s : State) (r : Nat) (x : VReg) : (s.wv r x).clusters = s.clusters := by simp [State.wv, State.modCur]
@[simp] theorem State.wv_dies (s : State) (r : Nat) (x : VReg) : (s.wv r x).dies = s.dies := by simp [State.wv, State.modCur]
@[simp] theorem State.wv_stops (s : State) (r : Nat) (x : VReg) : (s.wv r x).stops = s.stops := by simp [State.wv, State.modCur]
@[simp] theorem State.wv_bufs (s : State) (r : Nat) (x : VReg) : (s.wv r x).bufs = s.bufs := by simp [State.wv, State.modCur]
@[simp] theorem State.wv_net (s : State) (r : Nat) (x : VReg) : (s.wv r x).net = s.net := by simp [State.wv, State.modCur]
@[simp] theorem State.wv_arbs (s : State) (r : Nat) (x : VReg) : (s.wv r x).arbs = s.arbs := by simp [State.wv, State.modCur]
@[simp] theorem State.wv_unacked (s : State) (r : Nat) (x : VReg) : (s.wv r x).unacked = s.unacked := by simp [State.wv, State.modCur]
@[simp] theorem State.wv_fetched (s : State) (r : Nat) (x : VReg) : (s.wv r x).fetched = s.fetched := by simp [State.wv, State.modCur]
@[simp] theorem State.wv_porters (s : State) (r : Nat) (x : VReg) : (s.wv r x).porters = s.porters := by simp [State.wv, State.modCur]
@[simp] theorem State.wv_hub (s : State) (r : Nat) (x : VReg) : (s.wv r x).hub = s.hub := by simp [State.wv, State.modCur]

/-! ### wh -/

@[simp] theorem State.wh_cycle (s : State) (r : Nat) (x : Shape) : (s.wh r x).cycle = s.cycle := by simp [State.wh, State.modCur]
@[simp] theorem State.wh_ctx (s : State) (r : Nat) (x : Shape) : (s.wh r x).ctx = s.ctx := by simp [State.wh, State.modCur]
@[simp] theorem State.wh_agenda (s : State) (r : Nat) (x : Shape) : (s.wh r x).agenda = s.agenda := by simp [State.wh, State.modCur]
@[simp] theorem State.wh_issued (s : State) (r : Nat) (x : Shape) : (s.wh r x).issued = s.issued := by simp [State.wh, State.modCur]
@[simp] theorem State.wh_fresh (s : State) (r : Nat) (x : Shape) : (s.wh r x).fresh = s.fresh := by simp [State.wh, State.modCur]
@[simp] theorem State.wh_mem (s : State) (r : Nat) (x : Shape) : (s.wh r x).mem = s.mem := by simp [State.wh, State.modCur]
@[simp] theorem State.wh_full (s : State) (r : Nat) (x : Shape) : (s.wh r x).full = s.full := by simp [State.wh, State.modCur]
@[simp] theorem State.wh_lean (s : State) (r : Nat) (x : Shape) : (s.wh r x).lean = s.lean := by simp [State.wh, State.modCur]
@[simp] theorem State.wh_poison (s : State) (r : Nat) (x : Shape) : (s.wh r x).poison = s.poison := by simp [State.wh, State.modCur]
@[simp] theorem State.wh_upsets (s : State) (r : Nat) (x : Shape) : (s.wh r x).upsets = s.upsets := by simp [State.wh, State.modCur]
@[simp] theorem State.wh_codeLog (s : State) (r : Nat) (x : Shape) : (s.wh r x).codeLog = s.codeLog := by simp [State.wh, State.modCur]
@[simp] theorem State.wh_cores (s : State) (r : Nat) (x : Shape) : (s.wh r x).cores = s.cores := by simp [State.wh, State.modCur]
@[simp] theorem State.wh_gangs (s : State) (r : Nat) (x : Shape) : (s.wh r x).gangs = s.gangs := by simp [State.wh, State.modCur]
@[simp] theorem State.wh_gangsNext (s : State) (r : Nat) (x : Shape) : (s.wh r x).gangsNext = s.gangsNext := by simp [State.wh, State.modCur]
@[simp] theorem State.wh_gangV (s : State) (r : Nat) (x : Shape) : (s.wh r x).gangV = s.gangV := by simp [State.wh, State.modCur]
@[simp] theorem State.wh_clusters (s : State) (r : Nat) (x : Shape) : (s.wh r x).clusters = s.clusters := by simp [State.wh, State.modCur]
@[simp] theorem State.wh_dies (s : State) (r : Nat) (x : Shape) : (s.wh r x).dies = s.dies := by simp [State.wh, State.modCur]
@[simp] theorem State.wh_stops (s : State) (r : Nat) (x : Shape) : (s.wh r x).stops = s.stops := by simp [State.wh, State.modCur]
@[simp] theorem State.wh_bufs (s : State) (r : Nat) (x : Shape) : (s.wh r x).bufs = s.bufs := by simp [State.wh, State.modCur]
@[simp] theorem State.wh_net (s : State) (r : Nat) (x : Shape) : (s.wh r x).net = s.net := by simp [State.wh, State.modCur]
@[simp] theorem State.wh_arbs (s : State) (r : Nat) (x : Shape) : (s.wh r x).arbs = s.arbs := by simp [State.wh, State.modCur]
@[simp] theorem State.wh_unacked (s : State) (r : Nat) (x : Shape) : (s.wh r x).unacked = s.unacked := by simp [State.wh, State.modCur]
@[simp] theorem State.wh_fetched (s : State) (r : Nat) (x : Shape) : (s.wh r x).fetched = s.fetched := by simp [State.wh, State.modCur]
@[simp] theorem State.wh_porters (s : State) (r : Nat) (x : Shape) : (s.wh r x).porters = s.porters := by simp [State.wh, State.modCur]
@[simp] theorem State.wh_hub (s : State) (r : Nat) (x : Shape) : (s.wh r x).hub = s.hub := by simp [State.wh, State.modCur]

/-! ### orFlags -/

@[simp] theorem State.orFlags_cycle (s : State) (fl : Nat) : (s.orFlags fl).cycle = s.cycle := by simp [State.orFlags, State.modCur]
@[simp] theorem State.orFlags_ctx (s : State) (fl : Nat) : (s.orFlags fl).ctx = s.ctx := by simp [State.orFlags, State.modCur]
@[simp] theorem State.orFlags_agenda (s : State) (fl : Nat) : (s.orFlags fl).agenda = s.agenda := by simp [State.orFlags, State.modCur]
@[simp] theorem State.orFlags_issued (s : State) (fl : Nat) : (s.orFlags fl).issued = s.issued := by simp [State.orFlags, State.modCur]
@[simp] theorem State.orFlags_fresh (s : State) (fl : Nat) : (s.orFlags fl).fresh = s.fresh := by simp [State.orFlags, State.modCur]
@[simp] theorem State.orFlags_mem (s : State) (fl : Nat) : (s.orFlags fl).mem = s.mem := by simp [State.orFlags, State.modCur]
@[simp] theorem State.orFlags_full (s : State) (fl : Nat) : (s.orFlags fl).full = s.full := by simp [State.orFlags, State.modCur]
@[simp] theorem State.orFlags_lean (s : State) (fl : Nat) : (s.orFlags fl).lean = s.lean := by simp [State.orFlags, State.modCur]
@[simp] theorem State.orFlags_poison (s : State) (fl : Nat) : (s.orFlags fl).poison = s.poison := by simp [State.orFlags, State.modCur]
@[simp] theorem State.orFlags_upsets (s : State) (fl : Nat) : (s.orFlags fl).upsets = s.upsets := by simp [State.orFlags, State.modCur]
@[simp] theorem State.orFlags_codeLog (s : State) (fl : Nat) : (s.orFlags fl).codeLog = s.codeLog := by simp [State.orFlags, State.modCur]
@[simp] theorem State.orFlags_cores (s : State) (fl : Nat) : (s.orFlags fl).cores = s.cores := by simp [State.orFlags, State.modCur]
@[simp] theorem State.orFlags_gangs (s : State) (fl : Nat) : (s.orFlags fl).gangs = s.gangs := by simp [State.orFlags, State.modCur]
@[simp] theorem State.orFlags_gangsNext (s : State) (fl : Nat) : (s.orFlags fl).gangsNext = s.gangsNext := by simp [State.orFlags, State.modCur]
@[simp] theorem State.orFlags_gangV (s : State) (fl : Nat) : (s.orFlags fl).gangV = s.gangV := by simp [State.orFlags, State.modCur]
@[simp] theorem State.orFlags_clusters (s : State) (fl : Nat) : (s.orFlags fl).clusters = s.clusters := by simp [State.orFlags, State.modCur]
@[simp] theorem State.orFlags_dies (s : State) (fl : Nat) : (s.orFlags fl).dies = s.dies := by simp [State.orFlags, State.modCur]
@[simp] theorem State.orFlags_stops (s : State) (fl : Nat) : (s.orFlags fl).stops = s.stops := by simp [State.orFlags, State.modCur]
@[simp] theorem State.orFlags_bufs (s : State) (fl : Nat) : (s.orFlags fl).bufs = s.bufs := by simp [State.orFlags, State.modCur]
@[simp] theorem State.orFlags_net (s : State) (fl : Nat) : (s.orFlags fl).net = s.net := by simp [State.orFlags, State.modCur]
@[simp] theorem State.orFlags_arbs (s : State) (fl : Nat) : (s.orFlags fl).arbs = s.arbs := by simp [State.orFlags, State.modCur]
@[simp] theorem State.orFlags_unacked (s : State) (fl : Nat) : (s.orFlags fl).unacked = s.unacked := by simp [State.orFlags, State.modCur]
@[simp] theorem State.orFlags_fetched (s : State) (fl : Nat) : (s.orFlags fl).fetched = s.fetched := by simp [State.orFlags, State.modCur]
@[simp] theorem State.orFlags_porters (s : State) (fl : Nat) : (s.orFlags fl).porters = s.porters := by simp [State.orFlags, State.modCur]
@[simp] theorem State.orFlags_hub (s : State) (fl : Nat) : (s.orFlags fl).hub = s.hub := by simp [State.orFlags, State.modCur]

/-! ### sleep -/

@[simp] theorem State.sleep_cycle (s : State) (c k : Nat) (w : Wait) (o : Word) : (s.sleep c k w o).cycle = s.cycle := by simp [State.sleep]
@[simp] theorem State.sleep_ctx (s : State) (c k : Nat) (w : Wait) (o : Word) : (s.sleep c k w o).ctx = s.ctx := by simp [State.sleep]
@[simp] theorem State.sleep_agenda (s : State) (c k : Nat) (w : Wait) (o : Word) : (s.sleep c k w o).agenda = s.agenda := by simp [State.sleep]
@[simp] theorem State.sleep_issued (s : State) (c k : Nat) (w : Wait) (o : Word) : (s.sleep c k w o).issued = s.issued := by simp [State.sleep]
@[simp] theorem State.sleep_fresh (s : State) (c k : Nat) (w : Wait) (o : Word) : (s.sleep c k w o).fresh = s.fresh := by simp [State.sleep]
@[simp] theorem State.sleep_mem (s : State) (c k : Nat) (w : Wait) (o : Word) : (s.sleep c k w o).mem = s.mem := by simp [State.sleep]
@[simp] theorem State.sleep_full (s : State) (c k : Nat) (w : Wait) (o : Word) : (s.sleep c k w o).full = s.full := by simp [State.sleep]
@[simp] theorem State.sleep_lean (s : State) (c k : Nat) (w : Wait) (o : Word) : (s.sleep c k w o).lean = s.lean := by simp [State.sleep]
@[simp] theorem State.sleep_poison (s : State) (c k : Nat) (w : Wait) (o : Word) : (s.sleep c k w o).poison = s.poison := by simp [State.sleep]
@[simp] theorem State.sleep_upsets (s : State) (c k : Nat) (w : Wait) (o : Word) : (s.sleep c k w o).upsets = s.upsets := by simp [State.sleep]
@[simp] theorem State.sleep_codeLog (s : State) (c k : Nat) (w : Wait) (o : Word) : (s.sleep c k w o).codeLog = s.codeLog := by simp [State.sleep]
@[simp] theorem State.sleep_cores (s : State) (c k : Nat) (w : Wait) (o : Word) : (s.sleep c k w o).cores = s.cores := by simp [State.sleep]
@[simp] theorem State.sleep_gangs (s : State) (c k : Nat) (w : Wait) (o : Word) : (s.sleep c k w o).gangs = s.gangs := by simp [State.sleep]
@[simp] theorem State.sleep_gangsNext (s : State) (c k : Nat) (w : Wait) (o : Word) : (s.sleep c k w o).gangsNext = s.gangsNext := by simp [State.sleep]
@[simp] theorem State.sleep_gangV (s : State) (c k : Nat) (w : Wait) (o : Word) : (s.sleep c k w o).gangV = s.gangV := by simp [State.sleep]
@[simp] theorem State.sleep_clusters (s : State) (c k : Nat) (w : Wait) (o : Word) : (s.sleep c k w o).clusters = s.clusters := by simp [State.sleep]
@[simp] theorem State.sleep_dies (s : State) (c k : Nat) (w : Wait) (o : Word) : (s.sleep c k w o).dies = s.dies := by simp [State.sleep]
@[simp] theorem State.sleep_stops (s : State) (c k : Nat) (w : Wait) (o : Word) : (s.sleep c k w o).stops = s.stops := by simp [State.sleep]
@[simp] theorem State.sleep_bufs (s : State) (c k : Nat) (w : Wait) (o : Word) : (s.sleep c k w o).bufs = s.bufs := by simp [State.sleep]
@[simp] theorem State.sleep_net (s : State) (c k : Nat) (w : Wait) (o : Word) : (s.sleep c k w o).net = s.net := by simp [State.sleep]
@[simp] theorem State.sleep_arbs (s : State) (c k : Nat) (w : Wait) (o : Word) : (s.sleep c k w o).arbs = s.arbs := by simp [State.sleep]
@[simp] theorem State.sleep_unacked (s : State) (c k : Nat) (w : Wait) (o : Word) : (s.sleep c k w o).unacked = s.unacked := by simp [State.sleep]
@[simp] theorem State.sleep_fetched (s : State) (c k : Nat) (w : Wait) (o : Word) : (s.sleep c k w o).fetched = s.fetched := by simp [State.sleep]
@[simp] theorem State.sleep_porters (s : State) (c k : Nat) (w : Wait) (o : Word) : (s.sleep c k w o).porters = s.porters := by simp [State.sleep]
@[simp] theorem State.sleep_hub (s : State) (c k : Nat) (w : Wait) (o : Word) : (s.sleep c k w o).hub = s.hub := by simp [State.sleep]

/-! ### wake -/

@[simp] theorem State.wake_cycle (s : State) (c k : Nat) : (s.wake c k).cycle = s.cycle := by simp [State.wake]
@[simp] theorem State.wake_ctx (s : State) (c k : Nat) : (s.wake c k).ctx = s.ctx := by simp [State.wake]
@[simp] theorem State.wake_agenda (s : State) (c k : Nat) : (s.wake c k).agenda = s.agenda := by simp [State.wake]
@[simp] theorem State.wake_issued (s : State) (c k : Nat) : (s.wake c k).issued = s.issued := by simp [State.wake]
@[simp] theorem State.wake_fresh (s : State) (c k : Nat) : (s.wake c k).fresh = s.fresh := by simp [State.wake]
@[simp] theorem State.wake_mem (s : State) (c k : Nat) : (s.wake c k).mem = s.mem := by simp [State.wake]
@[simp] theorem State.wake_full (s : State) (c k : Nat) : (s.wake c k).full = s.full := by simp [State.wake]
@[simp] theorem State.wake_lean (s : State) (c k : Nat) : (s.wake c k).lean = s.lean := by simp [State.wake]
@[simp] theorem State.wake_poison (s : State) (c k : Nat) : (s.wake c k).poison = s.poison := by simp [State.wake]
@[simp] theorem State.wake_upsets (s : State) (c k : Nat) : (s.wake c k).upsets = s.upsets := by simp [State.wake]
@[simp] theorem State.wake_codeLog (s : State) (c k : Nat) : (s.wake c k).codeLog = s.codeLog := by simp [State.wake]
@[simp] theorem State.wake_cores (s : State) (c k : Nat) : (s.wake c k).cores = s.cores := by simp [State.wake]
@[simp] theorem State.wake_gangs (s : State) (c k : Nat) : (s.wake c k).gangs = s.gangs := by simp [State.wake]
@[simp] theorem State.wake_gangsNext (s : State) (c k : Nat) : (s.wake c k).gangsNext = s.gangsNext := by simp [State.wake]
@[simp] theorem State.wake_gangV (s : State) (c k : Nat) : (s.wake c k).gangV = s.gangV := by simp [State.wake]
@[simp] theorem State.wake_clusters (s : State) (c k : Nat) : (s.wake c k).clusters = s.clusters := by simp [State.wake]
@[simp] theorem State.wake_dies (s : State) (c k : Nat) : (s.wake c k).dies = s.dies := by simp [State.wake]
@[simp] theorem State.wake_stops (s : State) (c k : Nat) : (s.wake c k).stops = s.stops := by simp [State.wake]
@[simp] theorem State.wake_bufs (s : State) (c k : Nat) : (s.wake c k).bufs = s.bufs := by simp [State.wake]
@[simp] theorem State.wake_net (s : State) (c k : Nat) : (s.wake c k).net = s.net := by simp [State.wake]
@[simp] theorem State.wake_arbs (s : State) (c k : Nat) : (s.wake c k).arbs = s.arbs := by simp [State.wake]
@[simp] theorem State.wake_unacked (s : State) (c k : Nat) : (s.wake c k).unacked = s.unacked := by simp [State.wake]
@[simp] theorem State.wake_fetched (s : State) (c k : Nat) : (s.wake c k).fetched = s.fetched := by simp [State.wake]
@[simp] theorem State.wake_porters (s : State) (c k : Nat) : (s.wake c k).porters = s.porters := by simp [State.wake]
@[simp] theorem State.wake_hub (s : State) (c k : Nat) : (s.wake c k).hub = s.hub := by simp [State.wake]

/-! ### wg -/

@[simp] theorem State.wg_cycle (s : State) (r : BitVec 4) (x : Word) : (s.wg r x).cycle = s.cycle := by
  unfold State.wg; split <;> simp
@[simp] theorem State.wg_ctx (s : State) (r : BitVec 4) (x : Word) : (s.wg r x).ctx = s.ctx := by
  unfold State.wg; split <;> simp
@[simp] theorem State.wg_agenda (s : State) (r : BitVec 4) (x : Word) : (s.wg r x).agenda = s.agenda := by
  unfold State.wg; split <;> simp
@[simp] theorem State.wg_issued (s : State) (r : BitVec 4) (x : Word) : (s.wg r x).issued = s.issued := by
  unfold State.wg; split <;> simp
@[simp] theorem State.wg_fresh (s : State) (r : BitVec 4) (x : Word) : (s.wg r x).fresh = s.fresh := by
  unfold State.wg; split <;> simp
@[simp] theorem State.wg_mem (s : State) (r : BitVec 4) (x : Word) : (s.wg r x).mem = s.mem := by
  unfold State.wg; split <;> simp
@[simp] theorem State.wg_full (s : State) (r : BitVec 4) (x : Word) : (s.wg r x).full = s.full := by
  unfold State.wg; split <;> simp
@[simp] theorem State.wg_lean (s : State) (r : BitVec 4) (x : Word) : (s.wg r x).lean = s.lean := by
  unfold State.wg; split <;> simp
@[simp] theorem State.wg_poison (s : State) (r : BitVec 4) (x : Word) : (s.wg r x).poison = s.poison := by
  unfold State.wg; split <;> simp
@[simp] theorem State.wg_upsets (s : State) (r : BitVec 4) (x : Word) : (s.wg r x).upsets = s.upsets := by
  unfold State.wg; split <;> simp
@[simp] theorem State.wg_codeLog (s : State) (r : BitVec 4) (x : Word) : (s.wg r x).codeLog = s.codeLog := by
  unfold State.wg; split <;> simp
@[simp] theorem State.wg_cores (s : State) (r : BitVec 4) (x : Word) : (s.wg r x).cores = s.cores := by
  unfold State.wg; split <;> simp
@[simp] theorem State.wg_gangs (s : State) (r : BitVec 4) (x : Word) : (s.wg r x).gangs = s.gangs := by
  unfold State.wg; split <;> simp
@[simp] theorem State.wg_gangsNext (s : State) (r : BitVec 4) (x : Word) : (s.wg r x).gangsNext = s.gangsNext := by
  unfold State.wg; split <;> simp
@[simp] theorem State.wg_gangV (s : State) (r : BitVec 4) (x : Word) : (s.wg r x).gangV = s.gangV := by
  unfold State.wg; split <;> simp
@[simp] theorem State.wg_clusters (s : State) (r : BitVec 4) (x : Word) : (s.wg r x).clusters = s.clusters := by
  unfold State.wg; split <;> simp
@[simp] theorem State.wg_dies (s : State) (r : BitVec 4) (x : Word) : (s.wg r x).dies = s.dies := by
  unfold State.wg; split <;> simp
@[simp] theorem State.wg_stops (s : State) (r : BitVec 4) (x : Word) : (s.wg r x).stops = s.stops := by
  unfold State.wg; split <;> simp
@[simp] theorem State.wg_bufs (s : State) (r : BitVec 4) (x : Word) : (s.wg r x).bufs = s.bufs := by
  unfold State.wg; split <;> simp
@[simp] theorem State.wg_net (s : State) (r : BitVec 4) (x : Word) : (s.wg r x).net = s.net := by
  unfold State.wg; split <;> simp
@[simp] theorem State.wg_arbs (s : State) (r : BitVec 4) (x : Word) : (s.wg r x).arbs = s.arbs := by
  unfold State.wg; split <;> simp
@[simp] theorem State.wg_unacked (s : State) (r : BitVec 4) (x : Word) : (s.wg r x).unacked = s.unacked := by
  unfold State.wg; split <;> simp
@[simp] theorem State.wg_fetched (s : State) (r : BitVec 4) (x : Word) : (s.wg r x).fetched = s.fetched := by
  unfold State.wg; split <;> simp
@[simp] theorem State.wg_porters (s : State) (r : BitVec 4) (x : Word) : (s.wg r x).porters = s.porters := by
  unfold State.wg; split <;> simp
@[simp] theorem State.wg_hub (s : State) (r : BitVec 4) (x : Word) : (s.wg r x).hub = s.hub := by
  unfold State.wg; split <;> simp

/-! ### wp -/

@[simp] theorem State.wp_cycle (s : State) (n : Nat) (b : Bool) : (s.wp n b).cycle = s.cycle := by
  unfold State.wp; split <;> simp
@[simp] theorem State.wp_ctx (s : State) (n : Nat) (b : Bool) : (s.wp n b).ctx = s.ctx := by
  unfold State.wp; split <;> simp
@[simp] theorem State.wp_agenda (s : State) (n : Nat) (b : Bool) : (s.wp n b).agenda = s.agenda := by
  unfold State.wp; split <;> simp
@[simp] theorem State.wp_issued (s : State) (n : Nat) (b : Bool) : (s.wp n b).issued = s.issued := by
  unfold State.wp; split <;> simp
@[simp] theorem State.wp_fresh (s : State) (n : Nat) (b : Bool) : (s.wp n b).fresh = s.fresh := by
  unfold State.wp; split <;> simp
@[simp] theorem State.wp_mem (s : State) (n : Nat) (b : Bool) : (s.wp n b).mem = s.mem := by
  unfold State.wp; split <;> simp
@[simp] theorem State.wp_full (s : State) (n : Nat) (b : Bool) : (s.wp n b).full = s.full := by
  unfold State.wp; split <;> simp
@[simp] theorem State.wp_lean (s : State) (n : Nat) (b : Bool) : (s.wp n b).lean = s.lean := by
  unfold State.wp; split <;> simp
@[simp] theorem State.wp_poison (s : State) (n : Nat) (b : Bool) : (s.wp n b).poison = s.poison := by
  unfold State.wp; split <;> simp
@[simp] theorem State.wp_upsets (s : State) (n : Nat) (b : Bool) : (s.wp n b).upsets = s.upsets := by
  unfold State.wp; split <;> simp
@[simp] theorem State.wp_codeLog (s : State) (n : Nat) (b : Bool) : (s.wp n b).codeLog = s.codeLog := by
  unfold State.wp; split <;> simp
@[simp] theorem State.wp_cores (s : State) (n : Nat) (b : Bool) : (s.wp n b).cores = s.cores := by
  unfold State.wp; split <;> simp
@[simp] theorem State.wp_gangs (s : State) (n : Nat) (b : Bool) : (s.wp n b).gangs = s.gangs := by
  unfold State.wp; split <;> simp
@[simp] theorem State.wp_gangsNext (s : State) (n : Nat) (b : Bool) : (s.wp n b).gangsNext = s.gangsNext := by
  unfold State.wp; split <;> simp
@[simp] theorem State.wp_gangV (s : State) (n : Nat) (b : Bool) : (s.wp n b).gangV = s.gangV := by
  unfold State.wp; split <;> simp
@[simp] theorem State.wp_clusters (s : State) (n : Nat) (b : Bool) : (s.wp n b).clusters = s.clusters := by
  unfold State.wp; split <;> simp
@[simp] theorem State.wp_dies (s : State) (n : Nat) (b : Bool) : (s.wp n b).dies = s.dies := by
  unfold State.wp; split <;> simp
@[simp] theorem State.wp_stops (s : State) (n : Nat) (b : Bool) : (s.wp n b).stops = s.stops := by
  unfold State.wp; split <;> simp
@[simp] theorem State.wp_bufs (s : State) (n : Nat) (b : Bool) : (s.wp n b).bufs = s.bufs := by
  unfold State.wp; split <;> simp
@[simp] theorem State.wp_net (s : State) (n : Nat) (b : Bool) : (s.wp n b).net = s.net := by
  unfold State.wp; split <;> simp
@[simp] theorem State.wp_arbs (s : State) (n : Nat) (b : Bool) : (s.wp n b).arbs = s.arbs := by
  unfold State.wp; split <;> simp
@[simp] theorem State.wp_unacked (s : State) (n : Nat) (b : Bool) : (s.wp n b).unacked = s.unacked := by
  unfold State.wp; split <;> simp
@[simp] theorem State.wp_fetched (s : State) (n : Nat) (b : Bool) : (s.wp n b).fetched = s.fetched := by
  unfold State.wp; split <;> simp
@[simp] theorem State.wp_porters (s : State) (n : Nat) (b : Bool) : (s.wp n b).porters = s.porters := by
  unfold State.wp; split <;> simp
@[simp] theorem State.wp_hub (s : State) (n : Nat) (b : Bool) : (s.wp n b).hub = s.hub := by
  unfold State.wp; split <;> simp

/-! ### retry -/

@[simp] theorem State.retry_cycle (s : State) (w : Wait) (o : Word) : (s.retry w o).cycle = s.cycle := by simp [State.retry]
@[simp] theorem State.retry_agenda (s : State) (w : Wait) (o : Word) : (s.retry w o).agenda = s.agenda := by simp [State.retry]
@[simp] theorem State.retry_issued (s : State) (w : Wait) (o : Word) : (s.retry w o).issued = s.issued := by simp [State.retry]
@[simp] theorem State.retry_fresh (s : State) (w : Wait) (o : Word) : (s.retry w o).fresh = s.fresh := by simp [State.retry]
@[simp] theorem State.retry_mem (s : State) (w : Wait) (o : Word) : (s.retry w o).mem = s.mem := by simp [State.retry]
@[simp] theorem State.retry_full (s : State) (w : Wait) (o : Word) : (s.retry w o).full = s.full := by simp [State.retry]
@[simp] theorem State.retry_lean (s : State) (w : Wait) (o : Word) : (s.retry w o).lean = s.lean := by simp [State.retry]
@[simp] theorem State.retry_poison (s : State) (w : Wait) (o : Word) : (s.retry w o).poison = s.poison := by simp [State.retry]
@[simp] theorem State.retry_upsets (s : State) (w : Wait) (o : Word) : (s.retry w o).upsets = s.upsets := by simp [State.retry]
@[simp] theorem State.retry_codeLog (s : State) (w : Wait) (o : Word) : (s.retry w o).codeLog = s.codeLog := by simp [State.retry]
@[simp] theorem State.retry_cores (s : State) (w : Wait) (o : Word) : (s.retry w o).cores = s.cores := by simp [State.retry]
@[simp] theorem State.retry_gangs (s : State) (w : Wait) (o : Word) : (s.retry w o).gangs = s.gangs := by simp [State.retry]
@[simp] theorem State.retry_gangsNext (s : State) (w : Wait) (o : Word) : (s.retry w o).gangsNext = s.gangsNext := by simp [State.retry]
@[simp] theorem State.retry_gangV (s : State) (w : Wait) (o : Word) : (s.retry w o).gangV = s.gangV := by simp [State.retry]
@[simp] theorem State.retry_clusters (s : State) (w : Wait) (o : Word) : (s.retry w o).clusters = s.clusters := by simp [State.retry]
@[simp] theorem State.retry_dies (s : State) (w : Wait) (o : Word) : (s.retry w o).dies = s.dies := by simp [State.retry]
@[simp] theorem State.retry_stops (s : State) (w : Wait) (o : Word) : (s.retry w o).stops = s.stops := by simp [State.retry]
@[simp] theorem State.retry_bufs (s : State) (w : Wait) (o : Word) : (s.retry w o).bufs = s.bufs := by simp [State.retry]
@[simp] theorem State.retry_net (s : State) (w : Wait) (o : Word) : (s.retry w o).net = s.net := by simp [State.retry]
@[simp] theorem State.retry_arbs (s : State) (w : Wait) (o : Word) : (s.retry w o).arbs = s.arbs := by simp [State.retry]
@[simp] theorem State.retry_unacked (s : State) (w : Wait) (o : Word) : (s.retry w o).unacked = s.unacked := by simp [State.retry]
@[simp] theorem State.retry_fetched (s : State) (w : Wait) (o : Word) : (s.retry w o).fetched = s.fetched := by simp [State.retry]
@[simp] theorem State.retry_porters (s : State) (w : Wait) (o : Word) : (s.retry w o).porters = s.porters := by simp [State.retry]
@[simp] theorem State.retry_hub (s : State) (w : Wait) (o : Word) : (s.retry w o).hub = s.hub := by simp [State.retry]
/-! ### send and notify -/

/-- What every step of a fold keeps, the fold keeps. -/
theorem foldl_keeps {α β γ : Type} (p : β → γ) (f : β → α → β) (h : ∀ b a, p (f b a) = p b) (l : List α) (b : β) :
    p (l.foldl f b) = p b := by
  induction l generalizing b with
  | nil => rfl
  | cons a r ih => rw [List.foldl_cons, ih, h]

@[simp] theorem State.send_cycle (s : State) (m : Msg) : (s.send m).cycle = s.cycle := by
  unfold State.send State.toFabric; dsimp only; split
  · rfl
  · split <;> rfl
@[simp] theorem State.send_ctx (s : State) (m : Msg) : (s.send m).ctx = s.ctx := by
  unfold State.send State.toFabric; dsimp only; split
  · rfl
  · split <;> rfl
@[simp] theorem State.send_agenda (s : State) (m : Msg) : (s.send m).agenda = s.agenda := by
  unfold State.send State.toFabric; dsimp only; split
  · rfl
  · split <;> rfl
@[simp] theorem State.send_issued (s : State) (m : Msg) : (s.send m).issued = s.issued := by
  unfold State.send State.toFabric; dsimp only; split
  · rfl
  · split <;> rfl
@[simp] theorem State.send_mem (s : State) (m : Msg) : (s.send m).mem = s.mem := by
  unfold State.send State.toFabric; dsimp only; split
  · rfl
  · split <;> rfl
@[simp] theorem State.send_full (s : State) (m : Msg) : (s.send m).full = s.full := by
  unfold State.send State.toFabric; dsimp only; split
  · rfl
  · split <;> rfl
@[simp] theorem State.send_lean (s : State) (m : Msg) : (s.send m).lean = s.lean := by
  unfold State.send State.toFabric; dsimp only; split
  · rfl
  · split <;> rfl
@[simp] theorem State.send_poison (s : State) (m : Msg) : (s.send m).poison = s.poison := by
  unfold State.send State.toFabric; dsimp only; split
  · rfl
  · split <;> rfl
@[simp] theorem State.send_upsets (s : State) (m : Msg) : (s.send m).upsets = s.upsets := by
  unfold State.send State.toFabric; dsimp only; split
  · rfl
  · split <;> rfl
@[simp] theorem State.send_codeLog (s : State) (m : Msg) : (s.send m).codeLog = s.codeLog := by
  unfold State.send State.toFabric; dsimp only; split
  · rfl
  · split <;> rfl
@[simp] theorem State.send_threads (s : State) (m : Msg) : (s.send m).threads = s.threads := by
  unfold State.send State.toFabric; dsimp only; split
  · rfl
  · split <;> rfl
@[simp] theorem State.send_cores (s : State) (m : Msg) : (s.send m).cores = s.cores := by
  unfold State.send State.toFabric; dsimp only; split
  · rfl
  · split <;> rfl
@[simp] theorem State.send_gangs (s : State) (m : Msg) : (s.send m).gangs = s.gangs := by
  unfold State.send State.toFabric; dsimp only; split
  · rfl
  · split <;> rfl
@[simp] theorem State.send_gangsNext (s : State) (m : Msg) : (s.send m).gangsNext = s.gangsNext := by
  unfold State.send State.toFabric; dsimp only; split
  · rfl
  · split <;> rfl
@[simp] theorem State.send_gangV (s : State) (m : Msg) : (s.send m).gangV = s.gangV := by
  unfold State.send State.toFabric; dsimp only; split
  · rfl
  · split <;> rfl
@[simp] theorem State.send_clusters (s : State) (m : Msg) : (s.send m).clusters = s.clusters := by
  unfold State.send State.toFabric; dsimp only; split
  · rfl
  · split <;> rfl
@[simp] theorem State.send_dies (s : State) (m : Msg) : (s.send m).dies = s.dies := by
  unfold State.send State.toFabric; dsimp only; split
  · rfl
  · split <;> rfl
@[simp] theorem State.send_arbs (s : State) (m : Msg) : (s.send m).arbs = s.arbs := by
  unfold State.send State.toFabric; dsimp only; split
  · rfl
  · split <;> rfl
@[simp] theorem State.send_unacked (s : State) (m : Msg) : (s.send m).unacked = s.unacked := by
  unfold State.send State.toFabric; dsimp only; split
  · rfl
  · split <;> rfl
@[simp] theorem State.send_fetched (s : State) (m : Msg) : (s.send m).fetched = s.fetched := by
  unfold State.send State.toFabric; dsimp only; split
  · rfl
  · split <;> rfl
@[simp] theorem State.send_porters (s : State) (m : Msg) : (s.send m).porters = s.porters := by
  unfold State.send State.toFabric; dsimp only; split
  · rfl
  · split <;> rfl
@[simp] theorem State.send_hub (s : State) (m : Msg) : (s.send m).hub = s.hub := by
  unfold State.send State.toFabric; dsimp only; split
  · rfl
  · split <;> rfl
@[simp] theorem State.notify_cycle (s : State) (o : Origin) (sc : Nat) (l : List Nat) : (s.notify o sc l).cycle = s.cycle := by
  unfold State.notify; split
  · rfl
  · exact foldl_keeps (fun s : State => s.cycle) _ (fun _ _ => by simp) _ _
@[simp] theorem State.notify_ctx (s : State) (o : Origin) (sc : Nat) (l : List Nat) : (s.notify o sc l).ctx = s.ctx := by
  unfold State.notify; split
  · rfl
  · exact foldl_keeps (fun s : State => s.ctx) _ (fun _ _ => by simp) _ _
@[simp] theorem State.notify_agenda (s : State) (o : Origin) (sc : Nat) (l : List Nat) : (s.notify o sc l).agenda = s.agenda := by
  unfold State.notify; split
  · rfl
  · exact foldl_keeps (fun s : State => s.agenda) _ (fun _ _ => by simp) _ _
@[simp] theorem State.notify_issued (s : State) (o : Origin) (sc : Nat) (l : List Nat) : (s.notify o sc l).issued = s.issued := by
  unfold State.notify; split
  · rfl
  · exact foldl_keeps (fun s : State => s.issued) _ (fun _ _ => by simp) _ _
@[simp] theorem State.notify_mem (s : State) (o : Origin) (sc : Nat) (l : List Nat) : (s.notify o sc l).mem = s.mem := by
  unfold State.notify; split
  · rfl
  · exact foldl_keeps (fun s : State => s.mem) _ (fun _ _ => by simp) _ _
@[simp] theorem State.notify_full (s : State) (o : Origin) (sc : Nat) (l : List Nat) : (s.notify o sc l).full = s.full := by
  unfold State.notify; split
  · rfl
  · exact foldl_keeps (fun s : State => s.full) _ (fun _ _ => by simp) _ _
@[simp] theorem State.notify_lean (s : State) (o : Origin) (sc : Nat) (l : List Nat) : (s.notify o sc l).lean = s.lean := by
  unfold State.notify; split
  · rfl
  · exact foldl_keeps (fun s : State => s.lean) _ (fun _ _ => by simp) _ _
@[simp] theorem State.notify_poison (s : State) (o : Origin) (sc : Nat) (l : List Nat) : (s.notify o sc l).poison = s.poison := by
  unfold State.notify; split
  · rfl
  · exact foldl_keeps (fun s : State => s.poison) _ (fun _ _ => by simp) _ _
@[simp] theorem State.notify_upsets (s : State) (o : Origin) (sc : Nat) (l : List Nat) : (s.notify o sc l).upsets = s.upsets := by
  unfold State.notify; split
  · rfl
  · exact foldl_keeps (fun s : State => s.upsets) _ (fun _ _ => by simp) _ _
@[simp] theorem State.notify_codeLog (s : State) (o : Origin) (sc : Nat) (l : List Nat) : (s.notify o sc l).codeLog = s.codeLog := by
  unfold State.notify; split
  · rfl
  · exact foldl_keeps (fun s : State => s.codeLog) _ (fun _ _ => by simp) _ _
@[simp] theorem State.notify_threads (s : State) (o : Origin) (sc : Nat) (l : List Nat) : (s.notify o sc l).threads = s.threads := by
  unfold State.notify; split
  · rfl
  · exact foldl_keeps (fun s : State => s.threads) _ (fun _ _ => by simp) _ _
@[simp] theorem State.notify_cores (s : State) (o : Origin) (sc : Nat) (l : List Nat) : (s.notify o sc l).cores = s.cores := by
  unfold State.notify; split
  · rfl
  · exact foldl_keeps (fun s : State => s.cores) _ (fun _ _ => by simp) _ _
@[simp] theorem State.notify_gangs (s : State) (o : Origin) (sc : Nat) (l : List Nat) : (s.notify o sc l).gangs = s.gangs := by
  unfold State.notify; split
  · rfl
  · exact foldl_keeps (fun s : State => s.gangs) _ (fun _ _ => by simp) _ _
@[simp] theorem State.notify_gangsNext (s : State) (o : Origin) (sc : Nat) (l : List Nat) : (s.notify o sc l).gangsNext = s.gangsNext := by
  unfold State.notify; split
  · rfl
  · exact foldl_keeps (fun s : State => s.gangsNext) _ (fun _ _ => by simp) _ _
@[simp] theorem State.notify_gangV (s : State) (o : Origin) (sc : Nat) (l : List Nat) : (s.notify o sc l).gangV = s.gangV := by
  unfold State.notify; split
  · rfl
  · exact foldl_keeps (fun s : State => s.gangV) _ (fun _ _ => by simp) _ _
@[simp] theorem State.notify_clusters (s : State) (o : Origin) (sc : Nat) (l : List Nat) : (s.notify o sc l).clusters = s.clusters := by
  unfold State.notify; split
  · rfl
  · exact foldl_keeps (fun s : State => s.clusters) _ (fun _ _ => by simp) _ _
@[simp] theorem State.notify_dies (s : State) (o : Origin) (sc : Nat) (l : List Nat) : (s.notify o sc l).dies = s.dies := by
  unfold State.notify; split
  · rfl
  · exact foldl_keeps (fun s : State => s.dies) _ (fun _ _ => by simp) _ _
@[simp] theorem State.notify_arbs (s : State) (o : Origin) (sc : Nat) (l : List Nat) : (s.notify o sc l).arbs = s.arbs := by
  unfold State.notify; split
  · rfl
  · exact foldl_keeps (fun s : State => s.arbs) _ (fun _ _ => by simp) _ _
@[simp] theorem State.notify_unacked (s : State) (o : Origin) (sc : Nat) (l : List Nat) : (s.notify o sc l).unacked = s.unacked := by
  unfold State.notify; split
  · rfl
  · exact foldl_keeps (fun s : State => s.unacked) _ (fun _ _ => by simp) _ _
@[simp] theorem State.notify_fetched (s : State) (o : Origin) (sc : Nat) (l : List Nat) : (s.notify o sc l).fetched = s.fetched := by
  unfold State.notify; split
  · rfl
  · exact foldl_keeps (fun s : State => s.fetched) _ (fun _ _ => by simp) _ _
@[simp] theorem State.notify_porters (s : State) (o : Origin) (sc : Nat) (l : List Nat) : (s.notify o sc l).porters = s.porters := by
  unfold State.notify; split
  · rfl
  · exact foldl_keeps (fun s : State => s.porters) _ (fun _ _ => by simp) _ _
@[simp] theorem State.notify_hub (s : State) (o : Origin) (sc : Nat) (l : List Nat) : (s.notify o sc l).hub = s.hub := by
  unfold State.notify; split
  · rfl
  · exact foldl_keeps (fun s : State => s.hub) _ (fun _ _ => by simp) _ _


/-! ### Accessors after updates -/

theorem State.core_setCore (s : State) (c d : Nat) (k : Core) : (s.setCore c k).core d = if d = c then k else s.core d := by
  simp only [State.core, State.setCore, Tab.findD, Tab.find_put]; split <;> rfl
@[simp] theorem State.core_setCore_self (s : State) (c : Nat) (k : Core) : (s.setCore c k).core c = k := by
  simp [State.core_setCore]
theorem State.core_modCore (s : State) (c d : Nat) (f : Core → Core) :
    (s.modCore c f).core d = if d = c then f (s.core c) else s.core d := State.core_setCore _ _ _ _
@[simp] theorem State.core_modCore_self (s : State) (c : Nat) (f : Core → Core) : (s.modCore c f).core c = f (s.core c) := by
  simp [State.core_modCore]
theorem State.core_of_cores {s u : State} (h : u.cores = s.cores) (c : Nat) : u.core c = s.core c := by
  simp only [State.core, h]
@[simp] theorem State.core_modThr (s : State) (c k d : Nat) (f : Thread → Thread) : (s.modThr c k f).core d = s.core d :=
  State.core_of_cores (by simp) _
@[simp] theorem State.core_modCur (s : State) (d : Nat) (f : Thread → Thread) : (s.modCur f).core d = s.core d :=
  State.core_of_cores (by simp) _
@[simp] theorem State.core_withRes (s : State) (d : Nat) (r : Res) : (s.withRes r).core d = s.core d := rfl
@[simp] theorem State.core_bump (s : State) (d : Nat) : s.bump.core d = s.core d := rfl

/-- The keys of slots are as different as the slots. -/
theorem slotKey_inj {c d j k : Nat} (hj : j < 16) (hk : k < 16) (h : slotKey c j = slotKey d k) : c = d ∧ j = k := by
  unfold slotKey at h; omega

theorem State.thr_setThr (s : State) (c k d j : Nat) (t : Thread) :
    (s.setThr c k t).thr d j = if slotKey d j = slotKey c k then some t else s.thr d j := by
  simp only [State.thr, State.setThr, Tab.find_put]
@[simp] theorem State.thr_setThr_self (s : State) (c k : Nat) (t : Thread) : (s.setThr c k t).thr c k = some t := by
  simp [State.thr_setThr]
theorem State.thr_modThr (s : State) (c k d j : Nat) (f : Thread → Thread) :
    (s.modThr c k f).thr d j = if slotKey d j = slotKey c k then (s.thr c k).map f else s.thr d j := by
  unfold State.modThr
  split
  · rename_i h; split
    · rename_i e; simp only [State.thr] at h ⊢; rw [e, h]; rfl
    · rfl
  · rename_i t h; rw [State.thr_setThr, h]; rfl
@[simp] theorem State.thr_modThr_self (s : State) (c k : Nat) (f : Thread → Thread) :
    (s.modThr c k f).thr c k = (s.thr c k).map f := by simp [State.thr_modThr]
theorem State.find_modThr {key c k : Nat} (s : State) (f : Thread → Thread) (h : key ≠ slotKey c k) :
    Tab.find (s.modThr c k f).threads key = Tab.find s.threads key := by
  unfold State.modThr; split
  · rfl
  · simp [State.setThr, Tab.find_put, h]
theorem State.thr_of_threads {s u : State} (h : u.threads = s.threads) (c k : Nat) : u.thr c k = s.thr c k := by
  simp only [State.thr, h]
@[simp] theorem State.thr_modCore (s : State) (c d k : Nat) (f : Core → Core) : (s.modCore c f).thr d k = s.thr d k := rfl
@[simp] theorem State.thr_withRes (s : State) (c k : Nat) (r : Res) : (s.withRes r).thr c k = s.thr c k := rfl
@[simp] theorem State.thr_bump (s : State) (c k : Nat) : s.bump.thr c k = s.thr c k := rfl
@[simp] theorem State.thr_delThr_self (s : State) (c k : Nat) : (s.delThr c k).thr c k = none := by
  simp [State.thr, State.delThr, Tab.find_del]

/-- The issuing thread after a change of it. -/
theorem State.cur_modCur {s : State} {t : Thread} (h : s.thr s.ctx.core s.ctx.slot = some t) (f : Thread → Thread) :
    (s.modCur f).cur = f t := by simp [State.cur, State.modCur, h]

end Sys2Proof.Machine
end

