-- ==== Sys2Proof/Laws/Issue.lean ====
section
/-! SUPPORT. What the shared operations of an issuing bundle do, once each: writing a register or a predicate, holding an effect,
taking a fault, and the guard of a half. -/

namespace Sys2Proof.Machine

/-- A half whose guard is true. -/
theorem half_true {pn : Bool} {pg : BitVec 3} {s : State} (h : s.guard pn pg = true) (body : State → State) :
    half pn pg s body = .next (body s) := by simp [half, h]

/-- A half whose guard is false. -/
theorem half_false {pn : Bool} {pg : BitVec 3} {s : State} (h : s.guard pn pg = false) (body : State → State) :
    half pn pg s body = .next s := by simp [half, h]

/-- Frames compose. -/
theorem onlyIssuer_trans {s u w : State} (h : OnlyIssuer s u) (k : OnlyIssuer u w) : OnlyIssuer s w := by
  obtain ⟨a, b, c, d⟩ := h
  obtain ⟨a', b', c', d'⟩ := k
  refine ⟨?_, b'.trans b, c'.trans c, fun key hk => (d' key (by rw [b, c]; exact hk)).trans (d key hk)⟩
  exact (congrArg (fun x : State => { x with threads := s.threads, ctx := s.ctx }) a').trans a

/-- A change of the issuing thread alone. -/
theorem onlyIssuer_modCur (s : State) (f : Thread → Thread) : OnlyIssuer s (s.modCur f) := by
  unfold State.modCur State.modThr
  split
  · exact ⟨rfl, rfl, rfl, fun _ _ => rfl⟩
  · exact ⟨rfl, rfl, rfl, fun key hk => by simp [State.setThr, Tab.find_put, hk]⟩

/-- The issuing thread after a change of it. -/
theorem issues_modCur {s : State} {t : Thread} (h : s.issues t) (f : Thread → Thread) : (s.modCur f).issues (f t) := by
  simp only [State.issues] at h
  simp [State.issues, State.modCur, h]

/-- Writing g[r]. -/
theorem writesReg_wg (s : State) (r : BitVec 4) (x : Word) : WritesReg s (s.wg r x) r x := by
  by_cases h : r = 0
  · subst h
    refine ⟨⟨rfl, rfl, rfl, fun _ _ => rfl⟩, rfl, fun t ht => ⟨t, ht, rfl, fun q => ?_⟩⟩
    split <;> simp_all
  · have e : s.wg r x = s.modCur fun t => { t with g := t.g.set r.toNat x } := by unfold State.wg; rw [if_neg h]
    rw [e]
    refine ⟨onlyIssuer_modCur _ _, by simp, fun t ht => ⟨_, issues_modCur ht _, rfl, fun q => ?_⟩⟩
    simp only [Thread.reg, Vector.getElem_set, BitVec.toNat_inj]
    grind

/-- The bit of a field of one bit. -/
theorem getLsbD_setFld_one (x : Word) (n j : Nat) (b : Bool) (hn : n < 64) :
    (setFld x n 1 (if b then 1 else 0)).getLsbD j = if j = n then b else x.getLsbD j := by
  by_cases hj : j < 64
  · by_cases e : j = n
    · subst e; cases b <;> simp [setFld, hj]
    · have : j < n ∨ j - n ≠ 0 := by omega
      cases b <;> simp [setFld, hj, e] <;> grind
  · have := x.getLsbD_of_ge j (by omega)
    rw [BitVec.getLsbD_of_ge _ _ (by omega), if_neg (by omega), this]

/-- Writing p[n]. -/
theorem writesPred_wp (s : State) (n : Nat) (b : Bool) (hn : n < 64) : WritesPred s (s.wp n b) n b := by
  by_cases h : n = 0
  · subst h
    refine ⟨⟨rfl, rfl, rfl, fun _ _ => rfl⟩, rfl, fun t ht => ⟨t, ht, rfl, fun q => ?_⟩⟩
    split <;> simp_all
  · have e : s.wp n b = s.modCur fun t => { t with tsw := setFld t.tsw n 1 (if b then 1 else 0) } := by simp [State.wp, h]
    rw [e]
    refine ⟨onlyIssuer_modCur _ _, by simp, fun t ht => ⟨_, issues_modCur ht _, rfl, fun j => ?_⟩⟩
    have := getLsbD_setFld_one t.tsw n j b hn
    simp [h, ← this]

/-- The fault of a bundle that is a step or the first of its chunk takes effect at once. -/
theorem parks_takeFault {s : State} (h : s.faultsAtOnce) (f : FaultInfo) : Parks s (s.takeFault f) f := by
  obtain ⟨h1, h2⟩ := h
  have e : s.takeFault f =
      ((s.modThr s.ctx.core s.ctx.slot fun t => { t with chunk := none }).park s.ctx.core s.ctx.slot
        (recordOf s.origin f false s.cycle)).withRes (.fault f) := by
    have h3 : ¬ s.recordsFull s.ctx.core = true := by simp [h2]
    unfold State.takeFault State.faultBy
    cases hc : s.cur.chunk with
    | none => simp [h3]
    | some ck => simp [h3, h1 ck hc]
  rw [e]
  refine ⟨rfl, ?_, ?_, ?_, ?_, fun key hk => ?_, fun t ht => ?_⟩
  · simp [State.park]
  · simp [State.park]
  · simp [State.park]
  · simp [State.park, State.raiseRecord]
  · simp only [State.withRes, State.park, State.raiseRecord_threads, State.modCore_threads]
    rw [State.find_modThr _ _ hk, State.find_modThr _ _ hk]
  · simp only [State.issues] at ht
    refine ⟨{ t with chunk := none, st := .parked, acc := none, refusals := 0, stepping := false, haltAt := false, w0 := 0, w1 := 0 }, ?_,
      rfl, rfl, rfl, rfl, rfl, rfl⟩
    have : ∀ s : State, ∀ r, (s.withRes r).issues = s.issues := fun _ _ => rfl
    rw [this]
    simp [State.issues, State.park, State.thr_of_threads (State.raiseRecord_threads _ _ _), ht]

/-- An effect of a bundle in a chunk is held there (R130). -/
theorem holds_effect (s : State) (e : Effect) (h : s.cur.chunk ≠ none) : Holds s (s.effect e) e id := by
  cases hc : s.cur.chunk with
  | none => exact absurd hc h
  | some c =>
    have he : s.effect e = s.modCur fun t =>
        { t with chunk := t.chunk.map fun c => { c with held := c.held ++ [{ org := s.origin, eff := e }] } } := by
      simp [State.effect, hc]
    rw [he]
    refine ⟨onlyIssuer_modCur _ _, by simp, fun t ck ht hck => ⟨_, issues_modCur ht _, ?_⟩⟩
    simp [hck]

/-- Writing v[r]. -/
theorem writesV_wv (s : State) {r : Nat} (hr : r < 16) (x : VReg) : WritesV s (s.wv r x) r x := by
  refine ⟨onlyIssuer_modCur _ _, by simp, fun t ht => ⟨_, issues_modCur ht _, rfl, fun i hi => ?_⟩⟩
  simp [Vector.getElem_set, Nat.mod_eq_of_lt hr]; grind

/-- Writing h[r]. -/
theorem writesH_wh (s : State) {r : Nat} (hr : r < 16) (x : Shape) : WritesH s (s.wh r x) r x := by
  refine ⟨onlyIssuer_modCur _ _, by simp, fun t ht => ⟨_, issues_modCur ht _, rfl, fun i hi => ?_⟩⟩
  simp [Vector.getElem_set, Nat.mod_eq_of_lt hr]; grind

@[simp] theorem State.withRes_ctx (s : State) (r : Res) : (s.withRes r).ctx = { s.ctx with res := r } := rfl

/-- A bundle with no open chunk is a step already (R123). -/
theorem asStep_none {s : State} (h : s.cur.chunk = none) (body : State → State) : s.asStep body = body s := by
  simp [State.asStep, h]

/-- A thread that waits on no access has no answer. -/
theorem answered_none {s : State} (h : s.cur.acc = none) (body : State → Option Nat → State) : s.answered body = body s none := by
  simp [State.answered, h]

/-- A fence that is met (R136). -/
theorem fenced_clear {s : State} {scope : Nat} (h : s.fenceClear s.ctx.core s.cur.uid scope = true)
    (body : State → State) : s.fenced scope body = body (if 7 ≤ scope then s.fenceCode else s) := by
  simp [State.fenced, h]

/-- The low bits of a number that is a multiple of 16 and a rest. -/
theorem fld_low4 (a k : Nat) (h : k < 16) : fld (BitVec.ofNat 64 (16 * a + k)) 0 4 = k := by
  have e : (16 * a + k) % 2 ^ 64 % 2 ^ 4 = k := by omega
  simp only [fld, BitVec.extractLsb'_toNat, BitVec.toNat_ofNat, Nat.shiftRight_zero]
  exact e

theorem kind_lt (w : Wait) : w.kind < 16 := by cases w <;> (simp only [Wait.kind]; decide)

/-- The wait register's KIND (R254). -/
theorem fld_word0 (w : Wait) (m c : Nat) : fld (w.word0 m c) 0 4 = w.kind := by
  obtain ⟨a, b, h⟩ : ∃ a b, w.word0 m c = BitVec.ofNat 64 (a * 2 ^ 48 + m * 2 ^ 24 + c * 2 ^ 10 + b * 16 + w.kind) := ⟨_, _, rfl⟩
  have e := fld_low4 (a * 2 ^ 44 + m * 2 ^ 20 + c * 2 ^ 6 + b) w.kind (kind_lt w)
  have e2 : ∀ k, a * 2 ^ 48 + m * 2 ^ 24 + c * 2 ^ 10 + b * 16 + k = 16 * (a * 2 ^ 44 + m * 2 ^ 20 + c * 2 ^ 6 + b) + k := by
    intro k; omega
  rw [← e2, ← h] at e
  exact e

/-- A wait changes nothing but the issuing thread's state and its wait register (R29, R254). -/
theorem onlyIssuer_retry (s : State) (w : Wait) (o : Word) (own : Nat) : OnlyIssuer s (s.retry w o own) := by
  obtain ⟨a, b, c, d⟩ := onlyIssuer_modCur s fun t =>
    { t with st := .waiting w false, w0 := w.word0 s.modid own, w1 := o, since := s.cycle }
  exact ⟨a, b, c, d⟩

theorem issuerWaits_retry (s : State) (w : Wait) (o : Word) (own : Nat) : IssuerWaits s (s.retry w o own) w := by
  refine ⟨rfl, fun t ht => ⟨
    { t with st := .waiting w false, w0 := w.word0 s.modid own, w1 := o, since := s.cycle },
    ?_, rfl, rfl, rfl, rfl, rfl, rfl, fld_word0 _ _ _⟩⟩
  simp only [State.issues] at ht
  have e : (s.sleep s.ctx.core s.ctx.slot w o own).thr s.ctx.core s.ctx.slot = some { t with
      st := .waiting w false, w0 := w.word0 s.modid own, w1 := o, since := s.cycle } := by
    simp [State.sleep, ht]
  have c : (s.retry w o own).ctx = { s.ctx with res := .retry w } := by simp [State.retry, State.sleep]
  simp only [State.issues, c]
  exact e

/-- A tag's bit cleared. -/
theorem tags_clear (x : Word) (tag n : Nat) (hn : n < 64) :
    (x &&& ~~~((1 : Word) <<< tag)).getLsbD n = if n = tag then false else x.getLsbD n := by
  by_cases h : n = tag
  · subst h; simp [hn]
  · simp [h, hn]; grind

/-- Releasing a command changes no thread, no memory and no other core; the command is no longer held. -/
theorem release_cmd (s : State) (o : Origin) (id : Nat) :
    let u := s.release { org := o, eff := .cmd id }
    u.mem = s.mem ∧ u.threads = s.threads ∧ u.ctx = s.ctx ∧
      u.cores = (s.modCore o.core fun k => { k with cmds := k.cmds.map fun c => if c.id = id then { c with held := false } else c }).cores := by
  intro u
  simp only [u, State.release]
  split
  · split <;> simp
  · simp

/-- The issuing thread is the same where threads, core and slot are. -/
theorem thr_of_threads_ctx {s u : State} (h : u.threads = s.threads) (hc : u.ctx.core = s.ctx.core) (hk : u.ctx.slot = s.ctx.slot) (t : Thread) :
    u.issues t ↔ s.issues t := by
  simp only [State.issues, hc, hk, State.thr_of_threads h]

/-- The issue of a command (R116, R130, R287). -/
theorem commands_issue {s : State} {cmd : Cmd} (hq : s.queueFree cmd.eng) (foots : List (Option Foot))
    (h1 : cmd.started = false) (h2 : cmd.done = false) :
    Commands s (s.issue cmd foots) cmd.instr cmd.eng cmd.tag foots := by
  unfold State.issue
  rw [if_neg (by simp [State.queueFree] at hq; simp [hq])]
  dsimp only
  generalize hcm : ({ cmd with id := s.fresh, org := s.origin, tsw := s.ctx.pre.tsw, foots := foots.filterMap fun x => x, held := true } : Cmd) = cm
  generalize hg : (fun k : Core => { k with tags := k.tags &&& ~~~((1 : Word) <<< cmd.tag), cmds := k.cmds ++ [cm] }) = g
  generalize hs1 : s.bump.modCore s.ctx.core g = s1
  have e_thr : s1.threads = s.threads := by subst hs1; simp
  have e_mem : s1.mem = s.mem := by subst hs1; simp
  have e_ctx : s1.ctx = s.ctx := by subst hs1; simp
  have e_core : ∀ k, s1.core k = if k = s.ctx.core then g (s.core s.ctx.core) else s.core k := by
    intro k; subst hs1; rw [State.core_modCore]; rfl
  have e_cur : s1.cur = s.cur := by
    simp only [State.cur, e_ctx, State.thr_of_threads e_thr]
  have e_org : s1.origin = s.origin := by simp only [State.origin, e_cur, e_ctx]
  have hid : cm.id = s.fresh := by subst hcm; rfl
  have hcommon : ∀ u : State, u.mem = s.mem → u.ctx = s.ctx → OthersSame s u → IssuerReg s u 0 0 →
      (∀ k, k ≠ s.ctx.core → u.core k = s.core k) → (u.core s.ctx.core).tags = (g (s.core s.ctx.core)).tags →
      (∃ l c', (u.core s.ctx.core).cmds = l ++ [c'] ∧
        (l.map fun x => { x with held := false }) = ((s.core s.ctx.core).cmds.map fun x => { x with held := false }) ∧
        { c' with held := true } = cm ∧ c'.held = s.cur.chunk.isSome) →
      (∀ t ck, s.issues t → t.chunk = some ck → ∃ t' ck', u.issues t' ∧ t'.chunk = some ck' ∧
        ck'.held = ck.held ++ [{ org := s.origin, eff := .cmd s.fresh }]) →
      Commands s { u with ctx := { u.ctx with ends := true } } cmd.instr cmd.eng cmd.tag foots := by
    intro u a1 a2 a3 a4 a5 a6 a7 a8
    refine ⟨a1, by simp [a2], ?_, a3, a5, ?_, ?_⟩
    · intro t ht; obtain ⟨t', b1, b2⟩ := a4 t ht; exact ⟨t', b1, b2⟩
    · intro n hn
      change (u.core s.ctx.core).tags.getLsbD n = _
      rw [a6, ← hg]
      exact tags_clear _ _ _ hn
    · obtain ⟨l, c', b1, b2, b3, b4⟩ := a7
      subst hcm
      have hh : ∀ x : Cmd, x = { { x with held := true } with held := x.held } := fun x => rfl
      rw [hh c', b3] at b1 b4
      refine ⟨l, _, b1, b2, rfl, rfl, rfl, rfl, rfl, ?_, h1, h2, ?_⟩
      · exact b4
      · intro t ck c1 c2; obtain ⟨t', ck', d1, d2, d3⟩ := a8 t ck c1 c2; exact ⟨t', ck', d1, d2, d3⟩
  cases hc : s.cur.chunk with
  | none =>
    have he : s1.effect (.cmd s.fresh) = s1.release { org := s.origin, eff := .cmd s.fresh } := by
      simp [State.effect, e_cur, hc, e_org]
    rw [he]
    obtain ⟨r1, r2, r3, r4⟩ := release_cmd s1 s.origin s.fresh
    have hoc : s.origin.core = s.ctx.core := rfl
    rw [hoc] at r4
    have r5 : ∀ k, (s1.release { org := s.origin, eff := .cmd s.fresh }).core k = _ := fun k => State.core_of_cores r4 k
    apply hcommon
    · rw [r1, e_mem]
    · rw [r3, e_ctx]
    · intro key hk; rw [r2, e_thr]
    · intro t ht
      refine ⟨t, (thr_of_threads_ctx (r2.trans e_thr) (by rw [r3, e_ctx]) (by rw [r3, e_ctx]) t).2 ht, rfl, rfl, rfl, rfl, fun r => ?_⟩
      split
      · simp_all
      · rfl
    · intro k hk; rw [r5, State.core_modCore, if_neg hk, e_core, if_neg hk]
    · rw [r5, State.core_modCore_self, e_core, if_pos rfl]
    · rw [r5, State.core_modCore_self, e_core, if_pos rfl, ← hg]
      simp only [List.map_append, List.map_cons, List.map_nil, hid, if_pos]
      refine ⟨_, _, rfl, ?_, ?_, ?_⟩
      · rw [List.map_map]; apply List.map_congr_left; intro x _; simp only [Function.comp]; split <;> rfl
      · subst hcm; rfl
      · rw [hc]; rfl
    · intro t ck ht hck
      have : s.cur = t := by simp only [State.issues] at ht; simp [State.cur, ht]
      rw [this, hck] at hc; cases hc
  | some ck0 =>
    have hh := holds_effect s1 (.cmd s.fresh) (by rw [e_cur, hc]; simp)
    have he : s1.effect (.cmd s.fresh) = s1.modCur fun t =>
        { t with chunk := t.chunk.map fun c => { c with held := c.held ++ [{ org := s1.origin, eff := .cmd s.fresh }] } } := by
      simp [State.effect, e_cur, hc]
    rw [he]
    have hiss : ∀ t, s.issues t → s1.issues t := fun t ht => (thr_of_threads_ctx e_thr (by rw [e_ctx]) (by rw [e_ctx]) t).2 ht
    apply hcommon
    · simp [e_mem]
    · simp [e_ctx]
    · intro key hk
      unfold State.modCur
      rw [State.find_modThr _ _ (by rw [e_ctx]; exact hk), e_thr]
    · intro t ht
      refine ⟨_, issues_modCur (hiss t ht) _, rfl, rfl, rfl, rfl, fun r => ?_⟩
      split
      · simp_all
      · rfl
    · intro k hk; rw [State.core_modCur, e_core, if_neg hk]
    · rw [State.core_modCur, e_core, if_pos rfl]
    · rw [State.core_modCur, e_core, if_pos rfl, ← hg]
      refine ⟨_, _, rfl, rfl, ?_, ?_⟩
      · subst hcm; rfl
      · subst hcm; rw [hc]; rfl
    · intro t ck ht hck
      rw [e_org]
      exact ⟨_, { ck with held := ck.held ++ [{ org := s.origin, eff := .cmd s.fresh }] }, issues_modCur (hiss t ht) _, by simp [hck], rfl⟩

end Sys2Proof.Machine
end

