-- ==== Sys2Proof/Laws/Memory.lean ====
section
/-! SUPPORT. Memory as a map of bytes: a read after a write, and the canonical form under every memory operation. -/

namespace Sys2Proof.Machine

/-- A byte outside the listed range reads as an unlisted one. -/
theorem Mem.read_below : ∀ (m : List Host.Cell) (lo a : Nat), Mem.wfFrom lo m = true → a < lo → Mem.read m a = unlisted
  | [], _, _, _, _ => rfl
  | (b, v) :: r, lo, a, h, ha => by
    simp only [Mem.wfFrom, Bool.and_eq_true, decide_eq_true_eq] at h
    rw [Mem.read, if_neg (by omega)]
    exact Mem.read_below r (b + 1) a h.2 (by omega)

/-- The canonical form above a bound holds above a lower one. -/
theorem Mem.wfFrom_mono {m : List Host.Cell} {lo lo' : Nat} (h : Mem.wfFrom lo m = true) (hl : lo' ≤ lo) : Mem.wfFrom lo' m = true := by
  cases m with
  | nil => rfl
  | cons c r =>
    obtain ⟨b, v⟩ := c
    simp only [Mem.wfFrom, Bool.and_eq_true, decide_eq_true_eq] at h ⊢
    exact ⟨⟨by omega, h.1.2⟩, h.2⟩

/-- Cells left out keep the canonical form. -/
theorem Mem.wf_filter (p : Host.Cell → Bool) : ∀ (m : List Host.Cell) (lo : Nat), Mem.wfFrom lo m = true →
    Mem.wfFrom lo (m.filter p) = true
  | [], _, _ => rfl
  | (b, v) :: r, lo, h => by
    simp only [Mem.wfFrom, Bool.and_eq_true, decide_eq_true_eq] at h
    have ih := Mem.wf_filter p r (b + 1) h.2
    simp only [List.filter_cons]
    split
    · simp only [Mem.wfFrom, Bool.and_eq_true, decide_eq_true_eq]; exact ⟨h.1, ih⟩
    · exact Mem.wfFrom_mono ih (by omega)

/-- A cell put at its place keeps the canonical form. -/
theorem Mem.wfFrom_insert (a : Nat) (x : Byte) (hx : x ≠ unlisted) : ∀ (m : List Host.Cell) (lo : Nat), Mem.wfFrom lo m = true → lo ≤ a →
    (∀ c ∈ m, c.1 ≠ a) → Mem.wfFrom lo (Mem.insert m a x) = true
  | [], lo, _, ha, _ => by simp [Mem.insert, Mem.wfFrom, ha, hx]
  | (b, v) :: r, lo, h, ha, hn => by
    have hb : b ≠ a := hn (b, v) (by simp)
    simp only [Mem.wfFrom, Bool.and_eq_true, decide_eq_true_eq] at h
    unfold Mem.insert
    split
    · simp only [Mem.wfFrom, Bool.and_eq_true, decide_eq_true_eq]
      exact ⟨⟨ha, by simpa using hx⟩, ⟨by omega, h.1.2⟩, h.2⟩
    · simp only [Mem.wfFrom, Bool.and_eq_true, decide_eq_true_eq]
      exact ⟨h.1, Mem.wfFrom_insert a x hx r (b + 1) h.2 (by omega) fun c hc => hn c (by simp [hc])⟩

/-- A write keeps the canonical form. -/
theorem Mem.wf_write {m : List Host.Cell} (h : Mem.wf m = true) (a : Nat) (x : Byte) : Mem.wf (Mem.write m a x) = true := by
  have hf := Mem.wf_filter (fun c => c.1 != a) m 0 h
  unfold Mem.write
  simp only
  split
  · exact hf
  · exact Mem.wfFrom_insert a x ‹_› _ 0 hf (by omega) (by simp)

/-- Bytes written keep the canonical form. -/
theorem Mem.wf_writeN : ∀ (l : List Byte) {m : List Host.Cell} (a : Nat), Mem.wf m = true → Mem.wf (Mem.writeN m a l) = true
  | [], _, _, h => h
  | x :: r, _, a, h => Mem.wf_writeN r (a + 1) (Mem.wf_write h a x)

/-- A read among the cells of other addresses. -/
theorem Mem.read_filter (a b : Nat) : ∀ (m : List Host.Cell),
    Mem.read (m.filter fun c => c.1 != a) b = if b = a then unlisted else Mem.read m b
  | [] => by simp [Mem.read]
  | (c, v) :: r => by
    have ih := Mem.read_filter a b r
    simp only [List.filter_cons]
    by_cases e : c = a <;> simp only [Mem.read, bne_iff_ne, ne_eq, e, not_true, not_false_eq_true, if_true, if_false, ih] <;> grind [Mem.read]

/-- A read of a cell put at its place. -/
theorem Mem.read_insert (a b : Nat) (x : Byte) : ∀ (m : List Host.Cell), (∀ c ∈ m, c.1 ≠ a) →
    Mem.read (Mem.insert m a x) b = if b = a then x else Mem.read m b
  | [], _ => by simp only [Mem.insert, Mem.read]; grind
  | (c, v) :: r, h => by
    have hc : c ≠ a := h (c, v) (by simp)
    have ih := Mem.read_insert a b x r fun d hd => h d (by simp [hd])
    unfold Mem.insert
    split <;> simp only [Mem.read, ih] <;> grind

/-- A read after a write of a byte. -/
theorem Mem.read_write (m : List Host.Cell) (a b : Nat) (x : Byte) :
    Mem.read (Mem.write m a x) b = if b = a then x else Mem.read m b := by
  unfold Mem.write
  simp only
  split
  · rw [Mem.read_filter]; simp_all
  · rw [Mem.read_insert a b x _ (by simp), Mem.read_filter]; grind

/-- A read after a write of bytes. -/
theorem Mem.read_writeN : ∀ (l : List Byte) (m : List Host.Cell) (a b : Nat),
    Mem.read (Mem.writeN m a l) b = if a ≤ b ∧ b < a + l.length then l.getD (b - a) 0 else Mem.read m b
  | [], m, a, b => by rw [if_neg (by simp)]; rfl
  | x :: r, m, a, b => by
    rw [Mem.writeN, Mem.read_writeN r _ (a + 1) b, Mem.read_write]
    by_cases e : b = a
    · subst e; rw [if_neg (by omega), if_pos rfl, if_pos (by simp)]; simp
    · by_cases e1 : a + 1 ≤ b ∧ b < a + 1 + r.length
      · rw [if_pos e1, if_pos (by simp; omega), show b - a = (b - (a + 1)) + 1 by omega]; simp
      · rw [if_neg e1, if_neg e, if_neg (by simp; omega)]

/-- The bytes of an interval, one by one. -/
theorem Mem.readN_eq (m : List Host.Cell) : ∀ (n a : Nat), Mem.readN m a n = (List.range n).map fun i => Mem.read m (a + i)
  | 0, _ => rfl
  | n + 1, a => by
    rw [Mem.readN, Mem.readN_eq m n (a + 1), List.range_succ_eq_map]
    simp [Function.comp_def, Nat.add_assoc, Nat.add_comm 1]

end Sys2Proof.Machine
end

