-- ==== Sys2Proof/Laws/Access.lean ====
section
/-! SUPPORT. What the shared operations of an access do in the own local memory: its checks, the lines of the chunk, the bytes read
and the bytes stored. -/

namespace Sys2Proof.Machine

/-- SZ below 4 is the power of two of the access size (R162). -/
theorem sizeOf_eq_pow {sz : BitVec 3} {n : Nat} (h : n = 2 ^ sz.toNat) (hn : n ≤ 8) : Machine.sizeOf sz = n := by
  have hlt := sz.isLt
  have : sz.toNat = 0 ∨ sz.toNat = 1 ∨ sz.toNat = 2 ∨ sz.toNat = 3 ∨ sz.toNat = 4 ∨ sz.toNat = 5 ∨ sz.toNat = 6 ∨ sz.toNat = 7 := by
    omega
  unfold Machine.sizeOf
  rcases this with e | e | e | e | e | e | e | e <;> rw [e] at h ⊢ <;> simp_all

/-- The own local memory through aperture 0xF0 (R97). -/
theorem space_local {s : State} {p : Word} {off : Nat} (h : ptrAddr p = 0x1F0 * 2 ^ 48 + off) (ho : off < 2 ^ 18) :
    s.space p = .ok (.loc s.ctx.core off) := by
  have e1 : ¬ ptrAddr p < 2 ^ 56 := by omega
  have e2 : ptrAddr p / 2 ^ 48 % 256 = 0xF0 := by omega
  have e3 : ptrAddr p % 2 ^ 48 = off := by omega
  simp only [State.space, State.spaceOf, e1, e2, e3, if_false]
  have e4 : ∀ b : Bool, off < if b = true then 2 ^ 19 else 2 ^ 18 := by
    intro b; cases b
    · exact ho
    · exact Nat.lt_trans ho (by decide)
  simp only [e4, if_true]

theorem objectSize_local (s : State) (off : Nat) : 2 ^ 18 ≤ s.objectSize (.loc s.ctx.core off) := by
  simp only [State.objectSize, State.objectSizeOf, Config.localBytes, if_true]
  split <;> omega

/-- The checks of R206 pass for an aligned access of the own local memory. -/
theorem resolve_local {s : State} {p : Word} {n off : Nat} {wr : Bool} {tk : Takes} (h : LocalAt s p n off wr) (ht : tk.loc = true) :
    s.resolve p n wr tk = .place (.own (localPa s.ctx.core off)) := by
  obtain ⟨h1, h2, h3, h4, h5⟩ := h
  have h6 := objectSize_local s off
  have h7 : ¬ s.objectSize (.loc s.ctx.core off) < off + n := by omega
  have h8 : off < Config.localBytes := by simp only [Config.localBytes]; omega
  have h9 : s.locAddr s.ctx.core off = localPa s.ctx.core off := by rw [State.locAddr, if_pos h8]; rfl
  unfold State.resolve
  rw [space_local h1 (by omega)]
  simp only [h4, h5, ht, Space.off, h7, h9]
  simp

/-- A misaligned access of the own local memory is the alignment fault (R98, R206). -/
theorem resolve_misaligned {s : State} {p : Word} {n off : Nat} {wr : Bool} {tk : Takes} (h : ptrAddr p = 0x1F0 * 2 ^ 48 + off)
    (ho : off < 2 ^ 18) (hn : ptrAddr p % n ≠ 0) : s.resolve p n wr tk = .fault { code := 0x02 } := by
  unfold State.resolve
  rw [space_local h ho]
  simp [hn]

theorem atPlace_local {s : State} {p : Word} {n off : Nat} {wr : Bool} {tk : Takes} {body : State → Place → State}
    (h : LocalAt s p n off wr) (ht : tk.loc = true) : s.atPlace p n wr tk body = body s (.own (localPa s.ctx.core off)) := by
  simp [State.atPlace, resolve_local h ht]

/-- A step touches no line. -/
theorem touch_step {s : State} {pa n : Nat} {rd wr : Bool} {body : State → State} (hc : s.cur.chunk = none) :
    s.touch pa n rd wr body = body s := by simp [State.touch, hc]

/-- The thread of a state with lines noted. -/
theorem issues_noting {s : State} {t : Thread} (pa n : Nat) (rd wr : Bool) (h : s.issues t) :
    (s.noting pa n rd wr).issues { t with chunk := t.chunk.map fun ck => { ck with
      reads := if rd then (linesOf pa n).foldl insertNat ck.reads else ck.reads,
      writes := if wr then (linesOf pa n).foldl insertNat ck.writes else ck.writes } } := by
  unfold State.noting
  split
  · rename_i hc
    have : t.chunk = none := by simpa [State.cur, show s.thr s.ctx.core s.ctx.slot = some t from h] using hc
    have e : { t with chunk := t.chunk.map fun ck => { ck with
      reads := if rd then (linesOf pa n).foldl insertNat ck.reads else ck.reads,
      writes := if wr then (linesOf pa n).foldl insertNat ck.writes else ck.writes } } = t := by
      rw [this]; cases t; simp_all
    rw [e]; exact h
  · exact issues_modCur h _

/-- Noting lines changes nothing but the issuing thread. -/
theorem onlyIssuer_noting (s : State) (pa n : Nat) (rd wr : Bool) : OnlyIssuer s (s.noting pa n rd wr) := by
  unfold State.noting
  split
  · exact ⟨rfl, rfl, rfl, fun _ _ => rfl⟩
  · exact onlyIssuer_modCur _ _

@[simp] theorem State.noting_mem (s : State) (pa n : Nat) (rd wr : Bool) : (s.noting pa n rd wr).mem = s.mem := by
  unfold State.noting; split <;> simp
@[simp] theorem State.noting_ctx (s : State) (pa n : Nat) (rd wr : Bool) : (s.noting pa n rd wr).ctx = s.ctx := by
  unfold State.noting; split <;> simp
@[simp] theorem State.noting_poison (s : State) (pa n : Nat) (rd wr : Bool) : (s.noting pa n rd wr).poison = s.poison := by
  unfold State.noting; split <;> simp

/-- The lines of an access enter the open chunk, which has room for them; a step touches no line. -/
theorem touch_eq {s : State} {pa n : Nat} {rd wr : Bool} {body : State → State} (h : s.roomFor pa n rd wr) :
    s.touch pa n rd wr body = body (s.noting pa n rd wr) := by
  unfold State.touch State.noting
  cases hk : s.cur.chunk with
  | none => simp
  | some ck =>
    simp only
    have := h ck hk
    rw [if_neg (by rintro ⟨a, b⟩; rcases this with this | this <;> omega)]
    unfold State.modCur State.modThr
    cases ht : s.thr s.ctx.core s.ctx.slot with
    | none => simp [State.cur, ht] at hk
    | some t =>
      simp only [State.cur, ht, Option.getD] at hk
      simp [hk]

/-- The current thread, where one issues. -/
theorem cur_of_issues {s : State} {t : Thread} (h : s.issues t) : s.cur = t := by
  simp only [State.issues] at h; simp [State.cur, h]

/-- Where no thread issues, a change of it changes nothing. -/
theorem modCur_none {s : State} (h : s.thr s.ctx.core s.ctx.slot = none) (f : Thread → Thread) : s.modCur f = s := by
  simp [State.modCur, State.modThr, h]

/-- The buffer is the same with lines noted. -/
theorem buf_noting (s : State) (pa n : Nat) (rd wr : Bool) : (s.noting pa n rd wr).buf = s.buf := by
  cases h : s.thr s.ctx.core s.ctx.slot with
  | none => simp only [State.noting, modCur_none h, ite_self]
  | some t =>
    have h2 := cur_of_issues (issues_noting pa n rd wr h)
    simp only [State.buf, h2, cur_of_issues h]
    cases t.chunk <;> rfl

/-- What the thread sees is the same with lines noted. -/
theorem seen_noting (s : State) (pa n a m : Nat) (rd wr : Bool) : (s.noting pa n rd wr).seen a m = s.seen a m := by
  simp only [State.seen, buf_noting, State.noting_mem]

/-- The chunk's bytes over the committed ones are what the thread sees (R124). -/
theorem overlay_seen (s : State) (pa n : Nat) : natOfBytes (overlay s.buf pa (Mem.readN s.mem pa n)) = s.seen pa n := by
  have hl : (Mem.readN s.mem pa n).length = n := by simp [Mem.readN_eq]
  unfold State.seen overlay
  rw [hl]
  congr 1
  apply List.map_congr_left
  intro i hi
  simp only [List.mem_range] at hi
  simp [Tab.findD, Mem.readN_eq, hi]

/-- A read at a place in the own core's memories (R124). -/
theorem readAt_own {s : State} {p : Word} {n hint pa : Nat} {k : State → Nat → State} (hp : s.poisoned pa n = false)
    (hr : s.roomFor pa n true false) : s.readAt p n hint (.own pa) k = k (s.noting pa n true false) (s.seen pa n) := by
  have e : (s.noting pa n true false).poisoned pa n = false := by
    rw [← hp]; simp only [State.poisoned, State.noting_poison]
  simp only [State.readAt, touch_eq hr, e, overlay_seen, seen_noting]
  simp

/-- A load of the own local memory (R208, R124). -/
theorem loadOp_local {s : State} {f : AM} {n off : Nat} {tk : Takes} {k : State → Nat → State}
    (h : LocalAt s (s.ea f n) n off false) (ht : tk.loc = true) (hp : s.poisoned (localPa s.ctx.core off) n = false)
    (hr : s.roomFor (localPa s.ctx.core off) n true false) (ho : f.ord = 0) :
    s.loadOp f n tk k = k (s.noting (localPa s.ctx.core off) n true false) (s.seen (localPa s.ctx.core off) n) := by
  simp only [State.loadOp, atPlace_local h ht, State.ordered, ho]
  simp only [BitVec.toNat_zero, ne_eq, not_true_eq_false, false_and, if_false, BitVec.ofNat_eq_ofNat]
  exact readAt_own hp hr

/-- The bytes of a number. -/
@[simp] theorem length_bytesOfNat (n v : Nat) : (bytesOfNat n v).length = n := by
  induction n generalizing v with
  | zero => rfl
  | succ n ih => simp [bytesOfNat, ih]

/-- Entries put one after the other from a key up. -/
theorem find_putBytes (bytes : List Byte) (pa a : Nat) : ∀ (n : Nat) (b : List Host.Cell),
    Tab.find ((List.range n).foldl (fun b i => Tab.put b (pa + i) (bytes.getD i 0)) b) a =
      if pa ≤ a ∧ a < pa + n then some (bytes.getD (a - pa) 0) else Tab.find b a
  | 0, b => by rw [if_neg (by omega)]; rfl
  | n + 1, b => by
    rw [List.range_succ, List.foldl_append, List.foldl_cons, List.foldl_nil, Tab.find_put, find_putBytes bytes pa a n b]
    by_cases e : a = pa + n
    · subst e; rw [if_pos rfl, if_pos (by omega)]; simp
    · rw [if_neg e]
      by_cases e1 : pa ≤ a ∧ a < pa + n
      · rw [if_pos e1, if_pos (by omega)]
      · rw [if_neg e1, if_neg (by omega)]

/-- A store in an open chunk (R124). -/
theorem writeAt_chunk {s : State} {p : Word} {n hint v pa : Nat} {k : State → State} (hc : s.cur.chunk ≠ none)
    (hr : s.roomFor pa n false true) :
    s.writeAt p n hint v (.own pa) k = k ((s.noting pa n false true).bufWrite pa (bytesOfNat n v)) := by
  simp only [State.writeAt, touch_eq hr]
  have : (s.noting pa n false true).cur.chunk ≠ none := by
    cases h : s.thr s.ctx.core s.ctx.slot with
    | none => simp [State.cur, h] at hc
    | some t =>
      rw [cur_of_issues (issues_noting pa n false true h)]
      rw [cur_of_issues h] at hc
      simpa using hc
  cases h : (s.noting pa n false true).cur.chunk with
  | none => exact absurd h this
  | some _ => rfl

/-- A store in an open chunk enters its buffer and no other place. -/
theorem buffersStore {s : State} (pa : Nat) (bytes : List Byte) :
    BuffersStore s ((s.noting pa bytes.length false true).bufWrite pa bytes) pa bytes := by
  refine ⟨onlyIssuer_trans (onlyIssuer_noting s pa bytes.length false true) (onlyIssuer_modCur _ _), by simp [State.bufWrite],
    fun t ck ht hk => ?_⟩
  have h1 := issues_noting pa bytes.length false true ht
  have h2 := issues_modCur h1 (fun t => { t with chunk := t.chunk.map fun c =>
    { c with
      buf := (List.range bytes.length).foldl (fun b i => Tab.put b (pa + i) (bytes.getD i 0)) c.buf,
      hints := Tab.del c.hints (pa / 64) } })
  refine ⟨_, { ck with
    writes := (linesOf pa bytes.length).foldl insertNat ck.writes,
    hints := Tab.del ck.hints (pa / 64),
    buf := (List.range bytes.length).foldl (fun b i => Tab.put b (pa + i) (bytes.getD i 0)) ck.buf }, h2, ?_, rfl, rfl, rfl,
    fun a => find_putBytes _ _ _ _ _⟩
  simp [hk]

/-- Local memory is no device memory (R362). -/
theorem isDevice_local (c off : Nat) : isDevice (localPa c off) = false := by
  have h : 4 * Config.dieBytes ≤ Config.localBase := by decide
  have h2 : Config.localBase ≤ localPa c off := Nat.le_trans (Nat.le_add_right _ _) (Nat.le_add_right _ _)
  have h3 := Nat.le_trans h h2
  simp only [isDevice, decide_eq_false_iff_not, Nat.not_lt]
  exact h3

/-- The count of a tenant's link is all that a request over it changes (R427). -/
theorem overLink_mem (s : State) (t pa : Nat) : (s.overLink t pa).mem = s.mem := by unfold State.overLink; split <;> simp
theorem overLink_poison (s : State) (t pa : Nat) : (s.overLink t pa).poison = s.poison := by unfold State.overLink; split <;> simp
theorem overLink_threads (s : State) (t pa : Nat) : (s.overLink t pa).threads = s.threads := by unfold State.overLink; split <;> simp
theorem overLink_cores (s : State) (t pa : Nat) : (s.overLink t pa).cores = s.cores := by unfold State.overLink; split <;> simp
theorem overLink_ctx (s : State) (t pa : Nat) : (s.overLink t pa).ctx = s.ctx := by unfold State.overLink; split <;> simp

/-- A write performed outside device memory: the bytes, and nothing else of memory, threads or cores. -/
theorem performLine_off (s : State) (o : Origin) (d : Option Nat) (a : Bool) (pa : Nat) (h : isDevice pa = false) (bytes : List Byte) :
    s.performLine o d a pa bytes =
      { s.overLink (bindTen o.bind) pa with
        mem := Mem.writeN s.mem pa bytes, poison := clearPoison s.poison pa bytes.length } := by
  have h2 : ∀ s e, codeStores s o e pa bytes.length = [] := by
    intro s e
    unfold codeStores; rw [h]; rw [if_neg]; rintro ⟨h, -⟩; exact Bool.noConfusion h
  simp [State.performLine, h, h2, overLink_mem, overLink_poison]

/-- A store at once: the bytes, and nothing else of memory; no thread and no core. -/
theorem storesAtOnce {s : State} (o : Origin) (d : Option Nat) (a : Bool) (c off sc : Nat) (bytes : List Byte)
    (ls : List Nat) : StoresAtOnce s ((s.performLine o d a (localPa c off) bytes).notify o sc ls) (localPa c off) bytes := by
  rw [performLine_off _ _ _ _ _ (isDevice_local c off)]
  refine ⟨by simp [overLink_threads], by simp [overLink_cores], by simp [overLink_ctx], fun x hx => ?_, fun i hi => ?_⟩
  · simp only [State.notify_mem]
    rw [Mem.read_writeN, if_neg (by omega)]
  · simp only [State.notify_mem]
    rw [Mem.read_writeN, if_pos (by omega)]
    congr 1; omega

/-- A store of a step (R124, R126, R127). -/
theorem writeAt_step {s : State} {p : Word} {n hint v pa : Nat} {k : State → State} (hc : s.cur.chunk = none)
    (hs : s.soloBlocks s.ctx.core s.cur.uid s.cur.csc (linesOf pa n) = false) :
    s.writeAt p n hint v (.own pa) k =
      k ((s.performLine s.origin (some (dieOf s.ctx.core)) false pa (bytesOfNat n v)).notify s.origin s.cur.csc (linesOf pa n)) := by
  simp only [State.writeAt, touch_step hc, hc, State.unlessSolo, hs]
  simp

/-- A store of the own local memory (R208, R124). -/
theorem storeOp_local {s : State} {f : AM} {n off v : Nat} {tk : Takes} (h : LocalAt s (s.ea f n) n off true) (ht : tk.loc = true)
    (ho : f.ord = 0) :
    s.storeOp f n tk v = s.writeAt (s.ea f n) n f.hint.toNat v (.own (localPa s.ctx.core off)) id := by
  simp only [State.storeOp, atPlace_local h ht, State.ordered, ho]
  simp

end Sys2Proof.Machine
end

