-- ==== Sys2Proof/Laws/Hart.lean ====
section
/-! SUPPORT. The small lemmas of porters and their harts. -/

namespace Sys2Proof.Machine

@[simp] theorem State.porter_modPorter (s : State) (p : Nat) (f : Porter → Porter) : (s.modPorter p f).porter p = f (s.porter p) := by
  simp [State.modPorter, State.porter]

/-- Changing a porter changes nothing but the porters. -/
theorem State.modPorter_frame (s : State) (p : Nat) (f : Porter → Porter) : { s.modPorter p f with porters := s.porters } = s := rfl

@[simp] theorem State.hart_modHart (s : State) (p : Nat) (f : Hart → Hart) : (s.modHart p f).hart p = f (s.hart p) := by
  simp [State.modHart, State.hart]

/-- Changing a hart changes nothing but the porters. -/
theorem State.modHart_frame (s : State) (p : Nat) (f : Hart → Hart) : { s.modHart p f with porters := s.porters } = s := rfl

theorem Hart.held_hold (h : Hart) (n m : Nat) (v : Word) : (h.hold n v).held m = if m = n then v else h.held m := by
  simp [Hart.hold, Hart.held, Tab.findD_put, eq_comm]

@[simp] theorem Hart.held_hold_self (h : Hart) (n : Nat) (v : Word) : (h.hold n v).held n = v := by simp [Hart.held_hold]

@[simp] theorem Hart.pc_hold (h : Hart) (n : Nat) (v : Word) : (h.hold n v).pc = h.pc := rfl

@[simp] theorem Hart.priv_hold (h : Hart) (n : Nat) (v : Word) : (h.hold n v).priv = h.priv := rfl

@[simp] theorem Hart.r_zero (h : Hart) : h.r 0 = 0 := rfl

/-- x0 is hard-wired: a write of it is discarded. -/
@[simp] theorem Hart.put_zero (h : Hart) (v : Word) : h.put 0 v = h := rfl

theorem Hart.r_put (h : Hart) (i j : Nat) (v : Word) (hi : i ≠ 0) : (h.put i v).r j = if j = i then v else h.r j := by
  by_cases h0 : j = 0
  · simp [h0, Hart.r, Ne.symm hi]
  · simp [Hart.r, Hart.put, hi, h0, Tab.findD_put, eq_comm]

/-- The local interrupt of the device is pending exactly while a record awaits the porter (R361). -/
theorem State.mip_local (s : State) (p : Nat) : (s.mip p).getLsbD 16 = s.interrupt16 p := by
  unfold State.mip
  by_cases h : s.interrupt16 p <;> simp [h]

/-- A trap of a hart changes nothing but its porter (R373). -/
theorem State.hartTrap_frame (s : State) (p cause : Nat) (intr : Bool) (v : Word) :
    { s.hartTrap p cause intr v with porters := s.porters } = s := rfl

end Sys2Proof.Machine
end

