-- ==== Sys2Proof/Laws/PerInstr.lean ====
section
/-! SUPPORT. Instruction by instruction: the encoding carries the opcode, and the row of the opcode reads the instruction back. -/

namespace Sys2Proof.Laws

/-- A field above the low part of an append. -/
theorem extract_hi {m k : Nat} (a : BitVec m) (b : BitVec k) (lo n : Nat) (h : k ≤ lo) :
    (a ++ b).extractLsb' lo n = a.extractLsb' (lo - k) n := by
  ext i hi
  simp only [BitVec.getElem_extractLsb', BitVec.getLsbD_append]
  rw [if_neg (by omega)]; congr 1; omega

/-- A field within the low part of an append. -/
theorem extract_lo {m k : Nat} (a : BitVec m) (b : BitVec k) (lo n : Nat) (h : lo + n ≤ k) :
    (a ++ b).extractLsb' lo n = b.extractLsb' lo n := by
  ext i hi
  simp only [BitVec.getElem_extractLsb', BitVec.getLsbD_append]
  rw [if_pos (by omega)]

/-- The field that is the whole. -/
theorem extract_all {k : Nat} (b : BitVec k) : b.extractLsb' 0 k = b := by
  ext i hi; simp

/-- A bit above the low part of an append. -/
theorem bit_hi {m k : Nat} (a : BitVec m) (b : BitVec k) (i : Nat) (h : k ≤ i) : (a ++ b).getLsbD i = a.getLsbD (i - k) := by
  rw [BitVec.getLsbD_append, if_neg (by omega)]

/-- A bit within the low part of an append. -/
theorem bit_lo {m k : Nat} (a : BitVec m) (b : BitVec k) (i : Nat) (h : i < k) : (a ++ b).getLsbD i = b.getLsbD i := by
  rw [BitVec.getLsbD_append, if_pos (by omega)]

/-- A flag as a field of one bit. -/
theorem bit_ofBool (b : Bool) : (BitVec.ofBool b).getLsbD 0 = b := by cases b <;> rfl


/-- Bits [63:56] of a half are its opcode. -/
theorem AR.op_bits (f : AR) (op : Nat) : (f.bits op).extractLsb' 56 8 = BitVec.ofNat 8 op := by
  unfold AR.bits
  simp (disch := decide) only [extract_hi, extract_all, Nat.reduceSub]

/-- The fields read back from a half's bits. -/
theorem AR.of_bits (f : AR) (op : Nat) : AR.of (f.bits op) = f := by
  unfold AR.of AR.bits
  simp (disch := decide) only [extract_hi, extract_lo, extract_all, bit_hi, bit_lo, bit_ofBool, Nat.reduceSub]

/-- Bits [63:56] of a half are its opcode. -/
theorem AI.op_bits (f : AI) (op : Nat) : (f.bits op).extractLsb' 56 8 = BitVec.ofNat 8 op := by
  unfold AI.bits
  simp (disch := decide) only [extract_hi, extract_all, Nat.reduceSub]

/-- The fields read back from a half's bits. -/
theorem AI.of_bits (f : AI) (op : Nat) : AI.of (f.bits op) = f := by
  unfold AI.of AI.bits
  simp (disch := decide) only [extract_hi, extract_lo, extract_all, bit_hi, bit_lo, bit_ofBool, Nat.reduceSub]

/-- Bits [63:56] of a half are its opcode. -/
theorem AM.op_bits (f : AM) (op : Nat) : (f.bits op).extractLsb' 56 8 = BitVec.ofNat 8 op := by
  unfold AM.bits
  simp (disch := decide) only [extract_hi, extract_all, Nat.reduceSub]

/-- The fields read back from a half's bits. -/
theorem AM.of_bits (f : AM) (op : Nat) : AM.of (f.bits op) = f := by
  unfold AM.of AM.bits
  simp (disch := decide) only [extract_hi, extract_lo, extract_all, bit_hi, bit_lo, bit_ofBool, Nat.reduceSub]

/-- Bits [63:56] of a half are its opcode. -/
theorem AB.op_bits (f : AB) (op : Nat) : (f.bits op).extractLsb' 56 8 = BitVec.ofNat 8 op := by
  unfold AB.bits
  simp (disch := decide) only [extract_hi, extract_all, Nat.reduceSub]

/-- The fields read back from a half's bits. -/
theorem AB.of_bits (f : AB) (op : Nat) : AB.of (f.bits op) = f := by
  unfold AB.of AB.bits
  simp (disch := decide) only [extract_hi, extract_lo, extract_all, bit_hi, bit_lo, bit_ofBool, Nat.reduceSub]

/-- Bits [63:56] of a half are its opcode. -/
theorem AX.op_bits (f : AX) (op : Nat) : (f.bits op).extractLsb' 56 8 = BitVec.ofNat 8 op := by
  unfold AX.bits
  simp (disch := decide) only [extract_hi, extract_all, Nat.reduceSub]

/-- The fields read back from a half's bits. -/
theorem AX.of_bits (f : AX) (op : Nat) : AX.of (f.bits op) = f := by
  unfold AX.of AX.bits
  simp (disch := decide) only [extract_hi, extract_lo, extract_all, bit_hi, bit_lo, bit_ofBool, Nat.reduceSub]

/-- Bits [63:56] of a half are its opcode. -/
theorem VF.op_bits (f : VF) (op : Nat) : (f.bits op).extractLsb' 56 8 = BitVec.ofNat 8 op := by
  unfold VF.bits
  simp (disch := decide) only [extract_hi, extract_all, Nat.reduceSub]

/-- The fields read back from a half's bits. -/
theorem VF.of_bits (f : VF) (op : Nat) : VF.of (f.bits op) = f := by
  unfold VF.of VF.bits
  simp (disch := decide) only [extract_hi, extract_lo, extract_all, bit_hi, bit_lo, bit_ofBool, Nat.reduceSub]

end Sys2Proof.Laws

namespace Sys2Proof.Laws.Encoding

set_option Elab.async false

/-- A half's encoding carries its opcode in bits [63:56] (R160, R166), and the row of that opcode reads it back (R171, R172). -/
def Statement (i : Instr) : Prop :=
  (i.side ≠ .event → (encodeHalf i).extractLsb' 56 8 = BitVec.ofNat 8 i.opcode) ∧
    (i.WellFormed → (i.side = .slotA → rowA i.opcode (encodeHalf i) = some i) ∧ (i.side = .slotV → rowV i.opcode (encodeHalf i) = some i))

/-- An event has no encoding. -/
theorem event {i : Instr} (h : i.side = .event) : Statement i :=
  ⟨fun n => absurd h n, fun _ => ⟨fun a => by simp [h] at a, fun v => by simp [h] at v⟩⟩

/-- A slot A half whose row reads it back. -/
theorem ofA {i : Instr} (h : i.side = .slotA) (ho : (encodeHalf i).extractLsb' 56 8 = BitVec.ofNat 8 i.opcode)
    (hr : i.WellFormed → rowA i.opcode (encodeHalf i) = some i) : Statement i :=
  ⟨fun _ => ho, fun w => ⟨fun _ => hr w, fun v => by simp [h] at v⟩⟩

/-- A slot V half whose row reads it back. -/
theorem ofV {i : Instr} (h : i.side = .slotV) (ho : (encodeHalf i).extractLsb' 56 8 = BitVec.ofNat 8 i.opcode)
    (hr : i.WellFormed → rowV i.opcode (encodeHalf i) = some i) : Statement i :=
  ⟨fun _ => ho, fun w => ⟨fun a => by simp [h] at a, fun _ => hr w⟩⟩

theorem nop : Statement .nop := ofA rfl rfl fun _ => rfl
theorem add (f : AR) : Statement (.add f) := ofA rfl (AR.op_bits f _) fun _ => congrArg (fun f => some (Instr.add f)) (AR.of_bits f _)
theorem sub (f : AR) : Statement (.sub f) := ofA rfl (AR.op_bits f _) fun _ => congrArg (fun f => some (Instr.sub f)) (AR.of_bits f _)
theorem mul (f : AR) : Statement (.mul f) := ofA rfl (AR.op_bits f _) fun _ => congrArg (fun f => some (Instr.mul f)) (AR.of_bits f _)
theorem mulh (f : AR) : Statement (.mulh f) := ofA rfl (AR.op_bits f _) fun _ => congrArg (fun f => some (Instr.mulh f)) (AR.of_bits f _)
theorem mulhu (f : AR) : Statement (.mulhu f) := ofA rfl (AR.op_bits f _) fun _ => congrArg (fun f => some (Instr.mulhu f)) (AR.of_bits f _)
theorem div (f : AR) : Statement (.div f) := ofA rfl (AR.op_bits f _) fun _ => congrArg (fun f => some (Instr.div f)) (AR.of_bits f _)
theorem divu (f : AR) : Statement (.divu f) := ofA rfl (AR.op_bits f _) fun _ => congrArg (fun f => some (Instr.divu f)) (AR.of_bits f _)
theorem rem (f : AR) : Statement (.rem f) := ofA rfl (AR.op_bits f _) fun _ => congrArg (fun f => some (Instr.rem f)) (AR.of_bits f _)
theorem remu (f : AR) : Statement (.remu f) := ofA rfl (AR.op_bits f _) fun _ => congrArg (fun f => some (Instr.remu f)) (AR.of_bits f _)
theorem and (f : AR) : Statement (.and f) := ofA rfl (AR.op_bits f _) fun _ => congrArg (fun f => some (Instr.and f)) (AR.of_bits f _)
theorem or (f : AR) : Statement (.or f) := ofA rfl (AR.op_bits f _) fun _ => congrArg (fun f => some (Instr.or f)) (AR.of_bits f _)
theorem xor (f : AR) : Statement (.xor f) := ofA rfl (AR.op_bits f _) fun _ => congrArg (fun f => some (Instr.xor f)) (AR.of_bits f _)
theorem andn (f : AR) : Statement (.andn f) := ofA rfl (AR.op_bits f _) fun _ => congrArg (fun f => some (Instr.andn f)) (AR.of_bits f _)
theorem shl (f : AR) : Statement (.shl f) := ofA rfl (AR.op_bits f _) fun _ => congrArg (fun f => some (Instr.shl f)) (AR.of_bits f _)
theorem shr (f : AR) : Statement (.shr f) := ofA rfl (AR.op_bits f _) fun _ => congrArg (fun f => some (Instr.shr f)) (AR.of_bits f _)
theorem sar (f : AR) : Statement (.sar f) := ofA rfl (AR.op_bits f _) fun _ => congrArg (fun f => some (Instr.sar f)) (AR.of_bits f _)
theorem rot (f : AR) : Statement (.rot f) := ofA rfl (AR.op_bits f _) fun _ => congrArg (fun f => some (Instr.rot f)) (AR.of_bits f _)
theorem min (f : AR) : Statement (.min f) := ofA rfl (AR.op_bits f _) fun _ => congrArg (fun f => some (Instr.min f)) (AR.of_bits f _)
theorem max (f : AR) : Statement (.max f) := ofA rfl (AR.op_bits f _) fun _ => congrArg (fun f => some (Instr.max f)) (AR.of_bits f _)
theorem minu (f : AR) : Statement (.minu f) := ofA rfl (AR.op_bits f _) fun _ => congrArg (fun f => some (Instr.minu f)) (AR.of_bits f _)
theorem maxu (f : AR) : Statement (.maxu f) := ofA rfl (AR.op_bits f _) fun _ => congrArg (fun f => some (Instr.maxu f)) (AR.of_bits f _)
theorem clz (f : AR) : Statement (.clz f) := ofA rfl (AR.op_bits f _) fun _ => congrArg (fun f => some (Instr.clz f)) (AR.of_bits f _)
theorem ctz (f : AR) : Statement (.ctz f) := ofA rfl (AR.op_bits f _) fun _ => congrArg (fun f => some (Instr.ctz f)) (AR.of_bits f _)
theorem popc (f : AR) : Statement (.popc f) := ofA rfl (AR.op_bits f _) fun _ => congrArg (fun f => some (Instr.popc f)) (AR.of_bits f _)
theorem sext (f : AI) : Statement (.sext f) := ofA rfl (AI.op_bits f _) fun _ => congrArg (fun f => some (Instr.sext f)) (AI.of_bits f _)
theorem zext (f : AI) : Statement (.zext f) := ofA rfl (AI.op_bits f _) fun _ => congrArg (fun f => some (Instr.zext f)) (AI.of_bits f _)
theorem bfx (f : AI) : Statement (.bfx f) := ofA rfl (AI.op_bits f _) fun _ => congrArg (fun f => some (Instr.bfx f)) (AI.of_bits f _)
theorem bfi (f : AI) : Statement (.bfi f) := ofA rfl (AI.op_bits f _) fun _ => congrArg (fun f => some (Instr.bfi f)) (AI.of_bits f _)
theorem addi (f : AI) : Statement (.addi f) := ofA rfl (AI.op_bits f _) fun _ => congrArg (fun f => some (Instr.addi f)) (AI.of_bits f _)
theorem muli (f : AI) : Statement (.muli f) := ofA rfl (AI.op_bits f _) fun _ => congrArg (fun f => some (Instr.muli f)) (AI.of_bits f _)
theorem andi (f : AI) : Statement (.andi f) := ofA rfl (AI.op_bits f _) fun _ => congrArg (fun f => some (Instr.andi f)) (AI.of_bits f _)
theorem ori (f : AI) : Statement (.ori f) := ofA rfl (AI.op_bits f _) fun _ => congrArg (fun f => some (Instr.ori f)) (AI.of_bits f _)
theorem xori (f : AI) : Statement (.xori f) := ofA rfl (AI.op_bits f _) fun _ => congrArg (fun f => some (Instr.xori f)) (AI.of_bits f _)
theorem shli (f : AI) : Statement (.shli f) := ofA rfl (AI.op_bits f _) fun _ => congrArg (fun f => some (Instr.shli f)) (AI.of_bits f _)
theorem shri (f : AI) : Statement (.shri f) := ofA rfl (AI.op_bits f _) fun _ => congrArg (fun f => some (Instr.shri f)) (AI.of_bits f _)
theorem sari (f : AI) : Statement (.sari f) := ofA rfl (AI.op_bits f _) fun _ => congrArg (fun f => some (Instr.sari f)) (AI.of_bits f _)
theorem li (f : AX) : Statement (.li f) := ofA rfl (AX.op_bits f _) fun _ => congrArg (fun f => some (Instr.li f)) (AX.of_bits f _)
theorem lih (f : AX) : Statement (.lih f) := ofA rfl (AX.op_bits f _) fun _ => congrArg (fun f => some (Instr.lih f)) (AX.of_bits f _)
theorem lx (f : AX) : Statement (.lx f) := ofA rfl (AX.op_bits f _) fun _ => congrArg (fun f => some (Instr.lx f)) (AX.of_bits f _)
theorem cmp (f : AR) : Statement (.cmp f) := ofA rfl (AR.op_bits f _) fun _ => congrArg (fun f => some (Instr.cmp f)) (AR.of_bits f _)
theorem cmpi (f : AI) : Statement (.cmpi f) := ofA rfl (AI.op_bits f _) fun _ => congrArg (fun f => some (Instr.cmpi f)) (AI.of_bits f _)
theorem pand (f : AR) : Statement (.pand f) := ofA rfl (AR.op_bits f _) fun _ => congrArg (fun f => some (Instr.pand f)) (AR.of_bits f _)
theorem por (f : AR) : Statement (.por f) := ofA rfl (AR.op_bits f _) fun _ => congrArg (fun f => some (Instr.por f)) (AR.of_bits f _)
theorem pxor (f : AR) : Statement (.pxor f) := ofA rfl (AR.op_bits f _) fun _ => congrArg (fun f => some (Instr.pxor f)) (AR.of_bits f _)
theorem pandn (f : AR) : Statement (.pandn f) := ofA rfl (AR.op_bits f _) fun _ => congrArg (fun f => some (Instr.pandn f)) (AR.of_bits f _)
theorem ptog (f : AR) : Statement (.ptog f) := ofA rfl (AR.op_bits f _) fun _ => congrArg (fun f => some (Instr.ptog f)) (AR.of_bits f _)
theorem gtop (f : AR) : Statement (.gtop f) := ofA rfl (AR.op_bits f _) fun _ => congrArg (fun f => some (Instr.gtop f)) (AR.of_bits f _)
theorem csel (f : AR) : Statement (.csel f) := ofA rfl (AR.op_bits f _) fun _ => congrArg (fun f => some (Instr.csel f)) (AR.of_bits f _)
theorem addp (f : AR) : Statement (.addp f) := ofA rfl (AR.op_bits f _) fun _ => congrArg (fun f => some (Instr.addp f)) (AR.of_bits f _)
theorem pidx (f : AR) : Statement (.pidx f) := ofA rfl (AR.op_bits f _) fun _ => congrArg (fun f => some (Instr.pidx f)) (AR.of_bits f _)
theorem pfmt (f : AI) : Statement (.pfmt f) := ofA rfl (AI.op_bits f _) fun _ => congrArg (fun f => some (Instr.pfmt f)) (AI.of_bits f _)
theorem pchk (f : AR) : Statement (.pchk f) := ofA rfl (AR.op_bits f _) fun _ => congrArg (fun f => some (Instr.pchk f)) (AR.of_bits f _)
theorem br (f : AB) : Statement (.br f) := ofA rfl (AB.op_bits f _) fun _ => congrArg (fun f => some (Instr.br f)) (AB.of_bits f _)
theorem bcmp (f : AB) : Statement (.bcmp f) := ofA rfl (AB.op_bits f _) fun _ => congrArg (fun f => some (Instr.bcmp f)) (AB.of_bits f _)
theorem call (f : AB) : Statement (.call f) := ofA rfl (AB.op_bits f _) fun _ => congrArg (fun f => some (Instr.call f)) (AB.of_bits f _)
theorem ret (f : AR) : Statement (.ret f) := ofA rfl (AR.op_bits f _) fun _ => congrArg (fun f => some (Instr.ret f)) (AR.of_bits f _)
theorem jr (f : AR) : Statement (.jr f) := ofA rfl (AR.op_bits f _) fun _ => congrArg (fun f => some (Instr.jr f)) (AR.of_bits f _)
theorem jalr (f : AR) : Statement (.jalr f) := ofA rfl (AR.op_bits f _) fun _ => congrArg (fun f => some (Instr.jalr f)) (AR.of_bits f _)
theorem loop (f : AB) : Statement (.loop f) := ofA rfl (AB.op_bits f _) fun _ => congrArg (fun f => some (Instr.loop f)) (AB.of_bits f _)
theorem rdsys (f : AI) : Statement (.rdsys f) := ofA rfl (AI.op_bits f _) fun _ => congrArg (fun f => some (Instr.rdsys f)) (AI.of_bits f _)
theorem trap (f : AI) : Statement (.trap f) := ofA rfl (AI.op_bits f _) fun _ => congrArg (fun f => some (Instr.trap f)) (AI.of_bits f _)
theorem brk (f : AI) : Statement (.brk f) := ofA rfl (AI.op_bits f _) fun _ => congrArg (fun f => some (Instr.brk f)) (AI.of_bits f _)
theorem wtsw (f : AR) : Statement (.wtsw f) := ofA rfl (AR.op_bits f _) fun _ => congrArg (fun f => some (Instr.wtsw f)) (AR.of_bits f _)
theorem ld (f : AM) : Statement (.ld f) := ofA rfl (AM.op_bits f _) fun _ => congrArg (fun f => some (Instr.ld f)) (AM.of_bits f _)
theorem ldn (f : AM) : Statement (.ldn f) := ofA rfl (AM.op_bits f _) fun _ => congrArg (fun f => some (Instr.ldn f)) (AM.of_bits f _)
theorem st (f : AM) : Statement (.st f) := ofA rfl (AM.op_bits f _) fun _ => congrArg (fun f => some (Instr.st f)) (AM.of_bits f _)
theorem ldv (f : AM) : Statement (.ldv f) := ofA rfl (AM.op_bits f _) fun _ => congrArg (fun f => some (Instr.ldv f)) (AM.of_bits f _)
theorem stv (f : AM) : Statement (.stv f) := ofA rfl (AM.op_bits f _) fun _ => congrArg (fun f => some (Instr.stv f)) (AM.of_bits f _)
theorem ldp (f : AM) : Statement (.ldp f) := ofA rfl (AM.op_bits f _) fun _ => congrArg (fun f => some (Instr.ldp f)) (AM.of_bits f _)
theorem stp (f : AM) : Statement (.stp f) := ofA rfl (AM.op_bits f _) fun _ => congrArg (fun f => some (Instr.stp f)) (AM.of_bits f _)
theorem lsh (f : AM) : Statement (.lsh f) := ofA rfl (AM.op_bits f _) fun _ => congrArg (fun f => some (Instr.lsh f)) (AM.of_bits f _)
theorem ssh (f : AM) : Statement (.ssh f) := ofA rfl (AM.op_bits f _) fun _ => congrArg (fun f => some (Instr.ssh f)) (AM.of_bits f _)
theorem shset (f : AI) : Statement (.shset f) := ofA rfl (AI.op_bits f _) fun _ => congrArg (fun f => some (Instr.shset f)) (AI.of_bits f _)
theorem shget (f : AI) : Statement (.shget f) := ofA rfl (AI.op_bits f _) fun _ => congrArg (fun f => some (Instr.shget f)) (AI.of_bits f _)
theorem ldf (f : AM) : Statement (.ldf f) := ofA rfl (AM.op_bits f _) fun _ => congrArg (fun f => some (Instr.ldf f)) (AM.of_bits f _)
theorem ldfk (f : AM) : Statement (.ldfk f) := ofA rfl (AM.op_bits f _) fun _ => congrArg (fun f => some (Instr.ldfk f)) (AM.of_bits f _)
theorem ste (f : AM) : Statement (.ste f) := ofA rfl (AM.op_bits f _) fun _ => congrArg (fun f => some (Instr.ste f)) (AM.of_bits f _)
theorem stf (f : AM) : Statement (.stf f) := ofA rfl (AM.op_bits f _) fun _ => congrArg (fun f => some (Instr.stf f)) (AM.of_bits f _)
theorem fest (f : AM) : Statement (.fest f) := ofA rfl (AM.op_bits f _) fun _ => congrArg (fun f => some (Instr.fest f)) (AM.of_bits f _)
theorem feset (f : AM) : Statement (.feset f) := ofA rfl (AM.op_bits f _) fun _ => congrArg (fun f => some (Instr.feset f)) (AM.of_bits f _)
theorem amoadd (f : AM) : Statement (.amoadd f) := ofA rfl (AM.op_bits f _) fun _ => congrArg (fun f => some (Instr.amoadd f)) (AM.of_bits f _)
theorem amoand (f : AM) : Statement (.amoand f) := ofA rfl (AM.op_bits f _) fun _ => congrArg (fun f => some (Instr.amoand f)) (AM.of_bits f _)
theorem amoor (f : AM) : Statement (.amoor f) := ofA rfl (AM.op_bits f _) fun _ => congrArg (fun f => some (Instr.amoor f)) (AM.of_bits f _)
theorem amoxor (f : AM) : Statement (.amoxor f) := ofA rfl (AM.op_bits f _) fun _ => congrArg (fun f => some (Instr.amoxor f)) (AM.of_bits f _)
theorem amomin (f : AM) : Statement (.amomin f) := ofA rfl (AM.op_bits f _) fun _ => congrArg (fun f => some (Instr.amomin f)) (AM.of_bits f _)
theorem amomax (f : AM) : Statement (.amomax f) := ofA rfl (AM.op_bits f _) fun _ => congrArg (fun f => some (Instr.amomax f)) (AM.of_bits f _)
theorem amominu (f : AM) : Statement (.amominu f) := ofA rfl (AM.op_bits f _) fun _ => congrArg (fun f => some (Instr.amominu f)) (AM.of_bits f _)
theorem amomaxu (f : AM) : Statement (.amomaxu f) := ofA rfl (AM.op_bits f _) fun _ => congrArg (fun f => some (Instr.amomaxu f)) (AM.of_bits f _)
theorem amoswap (f : AM) : Statement (.amoswap f) := ofA rfl (AM.op_bits f _) fun _ => congrArg (fun f => some (Instr.amoswap f)) (AM.of_bits f _)
theorem amocas (f : AM) : Statement (.amocas f) := ofA rfl (AM.op_bits f _) fun _ => congrArg (fun f => some (Instr.amocas f)) (AM.of_bits f _)
theorem fence (f : AM) : Statement (.fence f) := ofA rfl (AM.op_bits f _) fun _ => congrArg (fun f => some (Instr.fence f)) (AM.of_bits f _)
theorem chunk (f : AI) : Statement (.chunk f) := ofA rfl (AI.op_bits f _) fun _ => congrArg (fun f => some (Instr.chunk f)) (AI.of_bits f _)
theorem pref (f : AM) : Statement (.pref f) := ofA rfl (AM.op_bits f _) fun _ => congrArg (fun f => some (Instr.pref f)) (AM.of_bits f _)
theorem tagwait (f : AR) : Statement (.tagwait f) := ofA rfl (AR.op_bits f _) fun _ => congrArg (fun f => some (Instr.tagwait f)) (AR.of_bits f _)
theorem tagany (f : AR) : Statement (.tagany f) := ofA rfl (AR.op_bits f _) fun _ => congrArg (fun f => some (Instr.tagany f)) (AR.of_bits f _)
theorem tagff (f : AR) : Statement (.tagff f) := ofA rfl (AR.op_bits f _) fun _ => congrArg (fun f => some (Instr.tagff f)) (AR.of_bits f _)
theorem tagclr (f : AR) : Statement (.tagclr f) := ofA rfl (AR.op_bits f _) fun _ => congrArg (fun f => some (Instr.tagclr f)) (AR.of_bits f _)
theorem post (f : AR) : Statement (.post f) := ofA rfl (AR.op_bits f _) fun _ => congrArg (fun f => some (Instr.post f)) (AR.of_bits f _)
theorem take (f : AR) : Statement (.take f) := ofA rfl (AR.op_bits f _) fun _ => congrArg (fun f => some (Instr.take f)) (AR.of_bits f _)
theorem peek (f : AR) : Statement (.peek f) := ofA rfl (AR.op_bits f _) fun h => by
  change some (if fld (AR.bits f 0x7E) 37 1 = 1 then Instr.peekM (AR.of (AR.bits f 0x7E)) else Instr.peek (AR.of (AR.bits f 0x7E))) = _
  have hb : fld (AR.bits f 0x7E) 37 1 = (f.fn.extractLsb' 5 1).toNat := by
    unfold fld AR.bits
    simp (disch := decide) only [extract_hi, extract_lo, Nat.reduceSub]
  have hf : (f.fn.extractLsb' 5 1).toNat ≠ 1 := by
    change (f.only true false false false false && decide (f.fn.toNat < 32)) = true at h
    simp only [Bool.and_eq_true, decide_eq_true_eq] at h
    simp only [BitVec.extractLsb'_toNat, Nat.shiftRight_eq_div_pow]
    grind
  rw [hb, if_neg hf, AR.of_bits]

theorem peekM (f : AR) : Statement (.peekM f) := ofA rfl (AR.op_bits f _) fun h => by
  change some (if fld (AR.bits f 0x7E) 37 1 = 1 then Instr.peekM (AR.of (AR.bits f 0x7E)) else Instr.peek (AR.of (AR.bits f 0x7E))) = _
  have hb : fld (AR.bits f 0x7E) 37 1 = (f.fn.extractLsb' 5 1).toNat := by
    unfold fld AR.bits
    simp (disch := decide) only [extract_hi, extract_lo, Nat.reduceSub]
  have hf : (f.fn.extractLsb' 5 1).toNat = 1 := by
    change (f.only true false false false false && f.fn == 32) = true at h
    simp only [Bool.and_eq_true, beq_iff_eq] at h
    simp only [BitVec.extractLsb'_toNat, Nat.shiftRight_eq_div_pow]
    grind
  rw [hb, if_pos hf, AR.of_bits]

theorem fork (f : AR) : Statement (.fork f) := ofA rfl (AR.op_bits f _) fun _ => congrArg (fun f => some (Instr.fork f)) (AR.of_bits f _)
theorem join (f : AR) : Statement (.join f) := ofA rfl (AR.op_bits f _) fun _ => congrArg (fun f => some (Instr.join f)) (AR.of_bits f _)
theorem callat (f : AR) : Statement (.callat f) := ofA rfl (AR.op_bits f _) fun _ => congrArg (fun f => some (Instr.callat f)) (AR.of_bits f _)
theorem reply (f : AR) : Statement (.reply f) := ofA rfl (AR.op_bits f _) fun _ => congrArg (fun f => some (Instr.reply f)) (AR.of_bits f _)
theorem send (f : AR) : Statement (.send f) := ofA rfl (AR.op_bits f _) fun _ => congrArg (fun f => some (Instr.send f)) (AR.of_bits f _)
theorem chblk (f : AR) : Statement (.chblk f) := ofA rfl (AR.op_bits f _) fun _ => congrArg (fun f => some (Instr.chblk f)) (AR.of_bits f _)
theorem chunblk (f : AR) : Statement (.chunblk f) := ofA rfl (AR.op_bits f _) fun _ => congrArg (fun f => some (Instr.chunblk f)) (AR.of_bits f _)
theorem mig (f : AR) : Statement (.mig f) := ofA rfl (AR.op_bits f _) fun _ => congrArg (fun f => some (Instr.mig f)) (AR.of_bits f _)
theorem migc (f : AR) : Statement (.migc f) := ofA rfl (AR.op_bits f _) fun _ => congrArg (fun f => some (Instr.migc f)) (AR.of_bits f _)
theorem exit (f : AR) : Statement (.exit f) := ofA rfl (AR.op_bits f _) fun _ => congrArg (fun f => some (Instr.exit f)) (AR.of_bits f _)
theorem yield (f : AR) : Statement (.yield f) := ofA rfl (AR.op_bits f _) fun _ => congrArg (fun f => some (Instr.yield f)) (AR.of_bits f _)
theorem launch (f : AR) : Statement (.launch f) := ofA rfl (AR.op_bits f _) fun _ => congrArg (fun f => some (Instr.launch f)) (AR.of_bits f _)
theorem barinit (f : AI) : Statement (.barinit f) := ofA rfl (AI.op_bits f _) fun _ => congrArg (fun f => some (Instr.barinit f)) (AI.of_bits f _)
theorem bararr (f : AR) : Statement (.bararr f) := ofA rfl (AR.op_bits f _) fun _ => congrArg (fun f => some (Instr.bararr f)) (AR.of_bits f _)
theorem barwait (f : AR) : Statement (.barwait f) := ofA rfl (AR.op_bits f _) fun _ => congrArg (fun f => some (Instr.barwait f)) (AR.of_bits f _)
theorem barlink (f : AR) : Statement (.barlink f) := ofA rfl (AR.op_bits f _) fun _ => congrArg (fun f => some (Instr.barlink f)) (AR.of_bits f _)
theorem barrd (f : AR) : Statement (.barrd f) := ofA rfl (AR.op_bits f _) fun _ => congrArg (fun f => some (Instr.barrd f)) (AR.of_bits f _)
theorem gang (f : AI) : Statement (.gang f) := ofA rfl (AI.op_bits f _) fun _ => congrArg (fun f => some (Instr.gang f)) (AI.of_bits f _)
theorem hsift (f : AR) : Statement (.hsift f) := ofA rfl (AR.op_bits f _) fun _ => congrArg (fun f => some (Instr.hsift f)) (AR.of_bits f _)
theorem route (f : AR) : Statement (.route f) := ofA rfl (AR.op_bits f _) fun _ => congrArg (fun f => some (Instr.route f)) (AR.of_bits f _)
theorem rhome (f : AR) : Statement (.rhome f) := ofA rfl (AR.op_bits f _) fun _ => congrArg (fun f => some (Instr.rhome f)) (AR.of_bits f _)
theorem rcommit (f : AR) : Statement (.rcommit f) := ofA rfl (AR.op_bits f _) fun _ => congrArg (fun f => some (Instr.rcommit f)) (AR.of_bits f _)
theorem rabort (f : AR) : Statement (.rabort f) := ofA rfl (AR.op_bits f _) fun _ => congrArg (fun f => some (Instr.rabort f)) (AR.of_bits f _)
theorem rstat (f : AR) : Statement (.rstat f) := ofA rfl (AR.op_bits f _) fun _ => congrArg (fun f => some (Instr.rstat f)) (AR.of_bits f _)
theorem afetch (f : AR) : Statement (.afetch f) := ofA rfl (AR.op_bits f _) fun h => by
  change some (if fld (AR.bits f 0xA6) 32 1 = 1 then Instr.afetchRel (AR.of (AR.bits f 0xA6)) else Instr.afetch (AR.of (AR.bits f 0xA6))) = _
  have hb : fld (AR.bits f 0xA6) 32 1 = (f.fn.extractLsb' 0 1).toNat := by
    unfold fld AR.bits
    simp (disch := decide) only [extract_hi, extract_lo, Nat.reduceSub]
  have hf : (f.fn.extractLsb' 0 1).toNat ≠ 1 := by
    change (f.only true true false true false && f.fn == 0) = true at h
    simp only [Bool.and_eq_true, beq_iff_eq] at h
    simp only [BitVec.extractLsb'_toNat, Nat.shiftRight_eq_div_pow]
    grind
  rw [hb, if_neg hf, AR.of_bits]

theorem afetchRel (f : AR) : Statement (.afetchRel f) := ofA rfl (AR.op_bits f _) fun h => by
  change some (if fld (AR.bits f 0xA6) 32 1 = 1 then Instr.afetchRel (AR.of (AR.bits f 0xA6)) else Instr.afetch (AR.of (AR.bits f 0xA6))) = _
  have hb : fld (AR.bits f 0xA6) 32 1 = (f.fn.extractLsb' 0 1).toNat := by
    unfold fld AR.bits
    simp (disch := decide) only [extract_hi, extract_lo, Nat.reduceSub]
  have hf : (f.fn.extractLsb' 0 1).toNat = 1 := by
    change (f.only false true false true false && f.fn == 1) = true at h
    simp only [Bool.and_eq_true, beq_iff_eq] at h
    simp only [BitVec.extractLsb'_toNat, Nat.shiftRight_eq_div_pow]
    grind
  rw [hb, if_pos hf, AR.of_bits]

theorem spec (f : AR) : Statement (.spec f) := ofA rfl (AR.op_bits f _) fun _ => congrArg (fun f => some (Instr.spec f)) (AR.of_bits f _)
theorem callh (f : AR) : Statement (.callh f) := ofA rfl (AR.op_bits f _) fun _ => congrArg (fun f => some (Instr.callh f)) (AR.of_bits f _)
theorem reth (f : AR) : Statement (.reth f) := ofA rfl (AR.op_bits f _) fun _ => congrArg (fun f => some (Instr.reth f)) (AR.of_bits f _)
theorem hrel (f : AR) : Statement (.hrel f) := ofA rfl (AR.op_bits f _) fun _ => congrArg (fun f => some (Instr.hrel f)) (AR.of_bits f _)
theorem hinfo (f : AR) : Statement (.hinfo f) := ofA rfl (AR.op_bits f _) fun _ => congrArg (fun f => some (Instr.hinfo f)) (AR.of_bits f _)
theorem hkeep (f : AR) : Statement (.hkeep f) := ofA rfl (AR.op_bits f _) fun _ => congrArg (fun f => some (Instr.hkeep f)) (AR.of_bits f _)
theorem nopV : Statement .nopV := ofV rfl rfl fun _ => rfl
theorem vadd (f : VF) : Statement (.vadd f) := ofV rfl (VF.op_bits f _) fun _ => congrArg (fun f => some (Instr.vadd f)) (VF.of_bits f _)
theorem vsub (f : VF) : Statement (.vsub f) := ofV rfl (VF.op_bits f _) fun _ => congrArg (fun f => some (Instr.vsub f)) (VF.of_bits f _)
theorem vmul (f : VF) : Statement (.vmul f) := ofV rfl (VF.op_bits f _) fun _ => congrArg (fun f => some (Instr.vmul f)) (VF.of_bits f _)
theorem vfma (f : VF) : Statement (.vfma f) := ofV rfl (VF.op_bits f _) fun _ => congrArg (fun f => some (Instr.vfma f)) (VF.of_bits f _)
theorem vmin (f : VF) : Statement (.vmin f) := ofV rfl (VF.op_bits f _) fun _ => congrArg (fun f => some (Instr.vmin f)) (VF.of_bits f _)
theorem vmax (f : VF) : Statement (.vmax f) := ofV rfl (VF.op_bits f _) fun _ => congrArg (fun f => some (Instr.vmax f)) (VF.of_bits f _)
theorem vand (f : VF) : Statement (.vand f) := ofV rfl (VF.op_bits f _) fun _ => congrArg (fun f => some (Instr.vand f)) (VF.of_bits f _)
theorem vor (f : VF) : Statement (.vor f) := ofV rfl (VF.op_bits f _) fun _ => congrArg (fun f => some (Instr.vor f)) (VF.of_bits f _)
theorem vxor (f : VF) : Statement (.vxor f) := ofV rfl (VF.op_bits f _) fun _ => congrArg (fun f => some (Instr.vxor f)) (VF.of_bits f _)
theorem vshl (f : VF) : Statement (.vshl f) := ofV rfl (VF.op_bits f _) fun _ => congrArg (fun f => some (Instr.vshl f)) (VF.of_bits f _)
theorem vshr (f : VF) : Statement (.vshr f) := ofV rfl (VF.op_bits f _) fun _ => congrArg (fun f => some (Instr.vshr f)) (VF.of_bits f _)
theorem vsar (f : VF) : Statement (.vsar f) := ofV rfl (VF.op_bits f _) fun _ => congrArg (fun f => some (Instr.vsar f)) (VF.of_bits f _)
theorem vcmp (f : VF) : Statement (.vcmp f) := ofV rfl (VF.op_bits f _) fun _ => congrArg (fun f => some (Instr.vcmp f)) (VF.of_bits f _)
theorem vsel (f : VF) : Statement (.vsel f) := ofV rfl (VF.op_bits f _) fun _ => congrArg (fun f => some (Instr.vsel f)) (VF.of_bits f _)
theorem vsplat (f : VF) : Statement (.vsplat f) := ofV rfl (VF.op_bits f _) fun _ => congrArg (fun f => some (Instr.vsplat f)) (VF.of_bits f _)
theorem vmov (f : VF) : Statement (.vmov f) := ofV rfl (VF.op_bits f _) fun _ => congrArg (fun f => some (Instr.vmov f)) (VF.of_bits f _)
theorem vext (f : VF) : Statement (.vext f) := ofV rfl (VF.op_bits f _) fun _ => congrArg (fun f => some (Instr.vext f)) (VF.of_bits f _)
theorem vins (f : VF) : Statement (.vins f) := ofV rfl (VF.op_bits f _) fun _ => congrArg (fun f => some (Instr.vins f)) (VF.of_bits f _)
theorem viota (f : VF) : Statement (.viota f) := ofV rfl (VF.op_bits f _) fun _ => congrArg (fun f => some (Instr.viota f)) (VF.of_bits f _)
theorem vperm (f : VF) : Statement (.vperm f) := ofV rfl (VF.op_bits f _) fun _ => congrArg (fun f => some (Instr.vperm f)) (VF.of_bits f _)
theorem vrcp (f : VF) : Statement (.vrcp f) := ofV rfl (VF.op_bits f _) fun _ => congrArg (fun f => some (Instr.vrcp f)) (VF.of_bits f _)
theorem vrsqrt (f : VF) : Statement (.vrsqrt f) := ofV rfl (VF.op_bits f _) fun _ => congrArg (fun f => some (Instr.vrsqrt f)) (VF.of_bits f _)
theorem vexp2 (f : VF) : Statement (.vexp2 f) := ofV rfl (VF.op_bits f _) fun _ => congrArg (fun f => some (Instr.vexp2 f)) (VF.of_bits f _)
theorem vlog2 (f : VF) : Statement (.vlog2 f) := ofV rfl (VF.op_bits f _) fun _ => congrArg (fun f => some (Instr.vlog2 f)) (VF.of_bits f _)
theorem vtanh (f : VF) : Statement (.vtanh f) := ofV rfl (VF.op_bits f _) fun _ => congrArg (fun f => some (Instr.vtanh f)) (VF.of_bits f _)
theorem vsigm (f : VF) : Statement (.vsigm f) := ofV rfl (VF.op_bits f _) fun _ => congrArg (fun f => some (Instr.vsigm f)) (VF.of_bits f _)
theorem vsqrt (f : VF) : Statement (.vsqrt f) := ofV rfl (VF.op_bits f _) fun _ => congrArg (fun f => some (Instr.vsqrt f)) (VF.of_bits f _)
theorem vcvt (f : VF) : Statement (.vcvt f) := ofV rfl (VF.op_bits f _) fun _ => congrArg (fun f => some (Instr.vcvt f)) (VF.of_bits f _)
theorem vscale (f : VF) : Statement (.vscale f) := ofV rfl (VF.op_bits f _) fun _ => congrArg (fun f => some (Instr.vscale f)) (VF.of_bits f _)
theorem vgath (f : VF) : Statement (.vgath f) := ofV rfl (VF.op_bits f _) fun _ => congrArg (fun f => some (Instr.vgath f)) (VF.of_bits f _)
theorem vscat (f : VF) : Statement (.vscat f) := ofV rfl (VF.op_bits f _) fun _ => congrArg (fun f => some (Instr.vscat f)) (VF.of_bits f _)
theorem vfill (f : VF) : Statement (.vfill f) := ofV rfl (VF.op_bits f _) fun _ => congrArg (fun f => some (Instr.vfill f)) (VF.of_bits f _)
theorem vredadd (f : VF) : Statement (.vredadd f) := ofV rfl (VF.op_bits f _) fun _ => congrArg (fun f => some (Instr.vredadd f)) (VF.of_bits f _)
theorem vredmax (f : VF) : Statement (.vredmax f) := ofV rfl (VF.op_bits f _) fun _ => congrArg (fun f => some (Instr.vredmax f)) (VF.of_bits f _)
theorem vredmin (f : VF) : Statement (.vredmin f) := ofV rfl (VF.op_bits f _) fun _ => congrArg (fun f => some (Instr.vredmin f)) (VF.of_bits f _)
theorem vscan (f : VF) : Statement (.vscan f) := ofV rfl (VF.op_bits f _) fun _ => congrArg (fun f => some (Instr.vscan f)) (VF.of_bits f _)
theorem vnz (f : VF) : Statement (.vnz f) := ofV rfl (VF.op_bits f _) fun _ => congrArg (fun f => some (Instr.vnz f)) (VF.of_bits f _)
theorem vcompact (f : VF) : Statement (.vcompact f) := ofV rfl (VF.op_bits f _) fun _ => congrArg (fun f => some (Instr.vcompact f)) (VF.of_bits f _)
theorem vargmax (f : VF) : Statement (.vargmax f) := ofV rfl (VF.op_bits f _) fun _ => congrArg (fun f => some (Instr.vargmax f)) (VF.of_bits f _)
theorem vsoftmax (f : VF) : Statement (.vsoftmax f) := ofV rfl (VF.op_bits f _) fun _ => congrArg (fun f => some (Instr.vsoftmax f)) (VF.of_bits f _)
theorem mma (f : VF) : Statement (.mma f) := ofV rfl (VF.op_bits f _) fun _ => congrArg (fun f => some (Instr.mma f)) (VF.of_bits f _)
theorem mmar (f : VF) : Statement (.mmar f) := ofV rfl (VF.op_bits f _) fun _ => congrArg (fun f => some (Instr.mmar f)) (VF.of_bits f _)
theorem manchor (f : VF) : Statement (.manchor f) := ofV rfl (VF.op_bits f _) fun _ => congrArg (fun f => some (Instr.manchor f)) (VF.of_bits f _)
theorem macc (f : VF) : Statement (.macc f) := ofV rfl (VF.op_bits f _) fun _ => congrArg (fun f => some (Instr.macc f)) (VF.of_bits f _)
theorem mclr (f : VF) : Statement (.mclr f) := ofV rfl (VF.op_bits f _) fun _ => congrArg (fun f => some (Instr.mclr f)) (VF.of_bits f _)
theorem mld (f : VF) : Statement (.mld f) := ofV rfl (VF.op_bits f _) fun _ => congrArg (fun f => some (Instr.mld f)) (VF.of_bits f _)
theorem mrot (f : VF) : Statement (.mrot f) := ofV rfl (VF.op_bits f _) fun h => by
  change some (if fld (VF.bits f 0x66) 0 1 = 1 then Instr.mrotDrop (VF.of (VF.bits f 0x66)) else Instr.mrot (VF.of (VF.bits f 0x66))) = _
  have hb : fld (VF.bits f 0x66) 0 1 = (f.fn.extractLsb' 0 1).toNat := by
    unfold fld VF.bits
    simp (disch := decide) only [extract_lo]
  have hf : (f.fn.extractLsb' 0 1).toNat ≠ 1 := by
    change (f.engine && f.vd == 0 && decide (f.va.toNat ≤ 1) && f.vb == 0 && f.noGS && f.fn == 0 && f.noType && !f.u) = true at h
    simp only [Bool.and_eq_true, beq_iff_eq] at h
    simp only [BitVec.extractLsb'_toNat, Nat.shiftRight_eq_div_pow]
    grind
  rw [hb, if_neg hf, VF.of_bits]

theorem mrotDrop (f : VF) : Statement (.mrotDrop f) := ofV rfl (VF.op_bits f _) fun h => by
  change some (if fld (VF.bits f 0x66) 0 1 = 1 then Instr.mrotDrop (VF.of (VF.bits f 0x66)) else Instr.mrot (VF.of (VF.bits f 0x66))) = _
  have hb : fld (VF.bits f 0x66) 0 1 = (f.fn.extractLsb' 0 1).toNat := by
    unfold fld VF.bits
    simp (disch := decide) only [extract_lo]
  have hf : (f.fn.extractLsb' 0 1).toNat = 1 := by
    change (f.engine && f.vd == 0 && decide (f.va.toNat ≤ 1) && f.vb == 0 && f.noGS && f.fn == 1 && f.noType && !f.u) = true at h
    simp only [Bool.and_eq_true, beq_iff_eq] at h
    simp only [BitVec.extractLsb'_toNat, Nat.shiftRight_eq_div_pow]
    grind
  rw [hb, if_pos hf, VF.of_bits]

theorem mseg (f : VF) : Statement (.mseg f) := ofV rfl (VF.op_bits f _) fun _ => congrArg (fun f => some (Instr.mseg f)) (VF.of_bits f _)
theorem cp (f : VF) : Statement (.cp f) := ofV rfl (VF.op_bits f _) fun _ => congrArg (fun f => some (Instr.cp f)) (VF.of_bits f _)
theorem cpg (f : VF) : Statement (.cpg f) := ofV rfl (VF.op_bits f _) fun _ => congrArg (fun f => some (Instr.cpg f)) (VF.of_bits f _)
theorem cps (f : VF) : Statement (.cps f) := ofV rfl (VF.op_bits f _) fun _ => congrArg (fun f => some (Instr.cps f)) (VF.of_bits f _)
theorem cpfill (f : VF) : Statement (.cpfill f) := ofV rfl (VF.op_bits f _) fun _ => congrArg (fun f => some (Instr.cpfill f)) (VF.of_bits f _)
theorem cpr (f : VF) : Statement (.cpr f) := ofV rfl (VF.op_bits f _) fun h => by
  change some (if fld (VF.bits f 0x74) 0 1 = 1 then Instr.cprPull (VF.of (VF.bits f 0x74)) else Instr.cpr (VF.of (VF.bits f 0x74))) = _
  have hb : fld (VF.bits f 0x74) 0 1 = (f.fn.extractLsb' 0 1).toNat := by
    unfold fld VF.bits
    simp (disch := decide) only [extract_lo]
  have hf : (f.fn.extractLsb' 0 1).toNat ≠ 1 := by
    change (f.engine && f.hD && f.hA && f.vb == 0 && f.fn == 0 && f.noType && !f.u) = true at h
    simp only [Bool.and_eq_true, beq_iff_eq] at h
    simp only [BitVec.extractLsb'_toNat, Nat.shiftRight_eq_div_pow]
    grind
  rw [hb, if_neg hf, VF.of_bits]

theorem cprPull (f : VF) : Statement (.cprPull f) := ofV rfl (VF.op_bits f _) fun h => by
  change some (if fld (VF.bits f 0x74) 0 1 = 1 then Instr.cprPull (VF.of (VF.bits f 0x74)) else Instr.cpr (VF.of (VF.bits f 0x74))) = _
  have hb : fld (VF.bits f 0x74) 0 1 = (f.fn.extractLsb' 0 1).toNat := by
    unfold fld VF.bits
    simp (disch := decide) only [extract_lo]
  have hf : (f.fn.extractLsb' 0 1).toNat = 1 := by
    change (f.engine && f.hD && f.hA && f.vb == 0 && f.fn == 1 && f.noType && !f.u) = true at h
    simp only [Bool.and_eq_true, beq_iff_eq] at h
    simp only [BitVec.extractLsb'_toNat, Nat.shiftRight_eq_div_pow]
    grind
  rw [hb, if_pos hf, VF.of_bits]

theorem cpdur (f : VF) : Statement (.cpdur f) := ofV rfl (VF.op_bits f _) fun _ => congrArg (fun f => some (Instr.cpdur f)) (VF.of_bits f _)
theorem rotationReentry (c : Nat) (k : Nat) : Statement (.rotationReentry c k) := event rfl
theorem schedulerBind (c : Nat) : Statement (.schedulerBind c) := event rfl
theorem stealProbe (c : Nat) : Statement (.stealProbe c) := event rfl
theorem stealRequest (m : Nat) : Statement (.stealRequest m) := event rfl
theorem stealReply (m : Nat) : Statement (.stealReply m) := event rfl
theorem stealRetry (c : Nat) : Statement (.stealRetry c) := event rfl
theorem rootPlacement : Statement .rootPlacement := event rfl
theorem rootWalk (l : Nat) (r : Nat) : Statement (.rootWalk l r) := event rfl
theorem rootWalkRetry (l : Nat) (r : Nat) : Statement (.rootWalkRetry l r) := event rfl
theorem completionWordWrite (l : Nat) : Statement (.completionWordWrite l) := event rfl
theorem instructionBoundaryPark (c : Nat) (k : Nat) : Statement (.instructionBoundaryPark c k) := event rfl
theorem memoryReply (m : Nat) : Statement (.memoryReply m) := event rfl
theorem homeSliceAccess (m : Nat) : Statement (.homeSliceAccess m) := event rfl
theorem ownerCoreAccess (m : Nat) : Statement (.ownerCoreAccess m) := event rfl
theorem remoteCacheFill (m : Nat) : Statement (.remoteCacheFill m) := event rfl
theorem remoteCacheInvalidate (m : Nat) : Statement (.remoteCacheInvalidate m) := event rfl
theorem writeAcknowledge (m : Nat) : Statement (.writeAcknowledge m) := event rfl
theorem durablePersist (m : Nat) : Statement (.durablePersist m) := event rfl
theorem commitRequest (m : Nat) : Statement (.commitRequest m) := event rfl
theorem commitGrant (a : Nat) : Statement (.commitGrant a) := event rfl
theorem commitNotice (m : Nat) : Statement (.commitNotice m) := event rfl
theorem soloTokenRequest (m : Nat) : Statement (.soloTokenRequest m) := event rfl
theorem soloTokenGrant : Statement .soloTokenGrant := event rfl
theorem fullEmptyAccess (m : Nat) : Statement (.fullEmptyAccess m) := event rfl
theorem postArrival (m : Nat) : Statement (.postArrival m) := event rfl
theorem messageResend (m : Nat) : Statement (.messageResend m) := event rfl
theorem callatArrival (m : Nat) : Statement (.callatArrival m) := event rfl
theorem channelMessageArrival (m : Nat) : Statement (.channelMessageArrival m) := event rfl
theorem channelControlArrival (m : Nat) : Statement (.channelControlArrival m) := event rfl
theorem migrationArrival (m : Nat) : Statement (.migrationArrival m) := event rfl
theorem migrationResend (m : Nat) : Statement (.migrationResend m) := event rfl
theorem migrationRefusedReturn (m : Nat) : Statement (.migrationRefusedReturn m) := event rfl
theorem barrierArrival (m : Nat) : Statement (.barrierArrival m) := event rfl
theorem barrierCompletionNotice (m : Nat) : Statement (.barrierCompletionNotice m) := event rfl
theorem barrierForwardResend (m : Nat) : Statement (.barrierForwardResend m) := event rfl
theorem waitWatchdogExpiry (c : Nat) (k : Nat) : Statement (.waitWatchdogExpiry c k) := event rfl
theorem vectorCommandStart (c : Nat) : Statement (.vectorCommandStart c) := event rfl
theorem vectorCommandComplete (c : Nat) : Statement (.vectorCommandComplete c) := event rfl
theorem matrixCommandStart (c : Nat) : Statement (.matrixCommandStart c) := event rfl
theorem matrixFeedCycle (c : Nat) : Statement (.matrixFeedCycle c) := event rfl
theorem lastBlockCheck (c : Nat) : Statement (.lastBlockCheck c) := event rfl
theorem matrixCommandComplete (c : Nat) : Statement (.matrixCommandComplete c) := event rfl
theorem latchCommandStart (c : Nat) : Statement (.latchCommandStart c) := event rfl
theorem latchFillComplete (c : Nat) : Statement (.latchFillComplete c) := event rfl
theorem mrotTransferComplete (c : Nat) : Statement (.mrotTransferComplete c) := event rfl
theorem mmarArrival (m : Nat) : Statement (.mmarArrival m) := event rfl
theorem mmarCompletionNotice (m : Nat) : Statement (.mmarCompletionNotice m) := event rfl
theorem copyCommandStart (c : Nat) (q : Nat) : Statement (.copyCommandStart c q) := event rfl
theorem copyCommandComplete (c : Nat) (q : Nat) : Statement (.copyCommandComplete c q) := event rfl
theorem shelfFill (cl : Nat) : Statement (.shelfFill cl) := event rfl
theorem shelfFillComplete (cl : Nat) : Statement (.shelfFillComplete cl) := event rfl
theorem foldStart (cl : Nat) : Statement (.foldStart cl) := event rfl
theorem foldComplete (cl : Nat) : Statement (.foldComplete cl) := event rfl
theorem handleUpdate (m : Nat) : Statement (.handleUpdate m) := event rfl
theorem depotImagePersist (m : Nat) : Statement (.depotImagePersist m) := event rfl
theorem routeArrival (m : Nat) : Statement (.routeArrival m) := event rfl
theorem sendListFlushTimeout (d : Nat) (n : Nat) : Statement (.sendListFlushTimeout d n) := event rfl
theorem batchHeader (m : Nat) : Statement (.batchHeader m) := event rfl
theorem batchAnswer (m : Nat) : Statement (.batchAnswer m) := event rfl
theorem routedContextReturn (m : Nat) : Statement (.routedContextReturn m) := event rfl
theorem rhomeRow (m : Nat) : Statement (.rhomeRow m) := event rfl
theorem rcommitArrival (m : Nat) : Statement (.rcommitArrival m) := event rfl
theorem rabortArrival (m : Nat) : Statement (.rabortArrival m) := event rfl
theorem transactionEndNotice (m : Nat) : Statement (.transactionEndNotice m) := event rfl
theorem faultRecordDelivery (c : Nat) : Statement (.faultRecordDelivery c) := event rfl
theorem recordRedelivery (c : Nat) : Statement (.recordRedelivery c) := event rfl
theorem resume (p : Nat) : Statement (.resume p) := event rfl
theorem endThread (p : Nat) : Statement (.endThread p) := event rfl
theorem halt (p : Nat) : Statement (.halt p) := event rfl
theorem stepThread (p : Nat) : Statement (.stepThread p) := event rfl
theorem recordQueuePop (p : Nat) : Statement (.recordQueuePop p) := event rfl
theorem partitionWrite (p : Nat) (v : Word) : Statement (.partitionWrite p v) := event rfl
theorem moduleIdWrite (p : Nat) (v : Word) : Statement (.moduleIdWrite p v) := event rfl
theorem imageQuotaWrite (p : Nat) (v : Word) : Statement (.imageQuotaWrite p v) := event rfl
theorem dvdataWrite (p : Nat) (csr : Nat) (v : Word) : Statement (.dvdataWrite p csr v) := event rfl
theorem porterAccess (p : Nat) (pa : Nat) (n : Nat) (wr : Bool) (v : Word) : Statement (.porterAccess p pa n wr v) := event rfl
theorem launchSubmission (m : Nat) : Statement (.launchSubmission m) := event rfl
theorem submissionWrite (t : Nat) (ws : List Word) : Statement (.submissionWrite t ws) := event rfl
theorem submissionResend (m : Nat) : Statement (.submissionResend m) := event rfl
theorem dependencePoll (l : Nat) (j : Nat) : Statement (.dependencePoll l j) := event rfl
theorem preemptionStop (l : Nat) (c : Nat) : Statement (.preemptionStop l c) := event rfl
theorem preemptionSave (l : Nat) (c : Nat) : Statement (.preemptionSave l c) := event rfl
theorem holdResend (m : Nat) : Statement (.holdResend m) := event rfl
theorem launchResume (l : Nat) : Statement (.launchResume l) := event rfl
theorem pageWalk (m : Nat) : Statement (.pageWalk m) := event rfl
theorem pageRequestResend (m : Nat) : Statement (.pageRequestResend m) := event rfl
theorem pageRequestAnswer (d : Nat) (x : Nat) (ans : Nat) : Statement (.pageRequestAnswer d x ans) := event rfl
theorem frameAttributeWrite (d : Nat) (f : Nat) (v : Word) : Statement (.frameAttributeWrite d f v) := event rfl
theorem frameScrubComplete (d : Nat) (f : Nat) : Statement (.frameScrubComplete d f) := event rfl
theorem shootdownRequest (t : Nat) (n : Nat) : Statement (.shootdownRequest t n) := event rfl
theorem shootdownComplete (t : Nat) : Statement (.shootdownComplete t) := event rfl
theorem ringStopCycle (p : Nat) : Statement (.ringStopCycle p) := event rfl
theorem starveRaise (p : Nat) (tap : Bool) : Statement (.starveRaise p tap) := event rfl
theorem meterWindowEnd (p : Nat) : Statement (.meterWindowEnd p) := event rfl
theorem flitReassembly (c : Nat) : Statement (.flitReassembly c) := event rfl
theorem creditReturn (q : Nat) : Statement (.creditReturn q) := event rfl
theorem bulkRequestTimeout (m : Nat) : Statement (.bulkRequestTimeout m) := event rfl
theorem messageAnswerTimeout (m : Nat) : Statement (.messageAnswerTimeout m) := event rfl
theorem purseRefill (c : Nat) : Statement (.purseRefill c) := event rfl
theorem hostWindowWrite (off : Nat) (n : Nat) (v : Nat) : Statement (.hostWindowWrite off n v) := event rfl
theorem hostWindowRead (off : Nat) (n : Nat) : Statement (.hostWindowRead off n) := event rfl
theorem hostStreamWrite (t : Nat) (st : Nat) (sq : Nat) (off : Nat) (n : Nat) (v : Nat) : Statement (.hostStreamWrite t st sq off n v) := event rfl
theorem streamBrokenTimeout (t : Nat) (st : Nat) : Statement (.streamBrokenTimeout t st) := event rfl
theorem streamStatusReset (t : Nat) (st : Nat) : Statement (.streamStatusReset t st) := event rfl
theorem functionLevelReset (t : Nat) : Statement (.functionLevelReset t) := event rfl
theorem peerLinkUp (l : Nat) (far : Nat) : Statement (.peerLinkUp l far) := event rfl
theorem officeMaskStagingWrite (j : Nat) (n : Nat) (v : Word) : Statement (.officeMaskStagingWrite j n v) := event rfl
theorem powerOnReset : Statement .powerOnReset := event rfl
theorem moduleReset : Statement .moduleReset := event rfl
theorem clearFailsReset : Statement .clearFailsReset := event rfl
theorem bootStage0 (r : Nat) : Statement (.bootStage0 r) := event rfl
theorem bootStage1 (r : Nat) (lc : Nat) : Statement (.bootStage1 r lc) := event rfl
theorem bootStage2 (r : Nat) : Statement (.bootStage2 r) := event rfl
theorem bootStage3 (r : Nat) : Statement (.bootStage3 r) := event rfl
theorem officeReadyTimeout : Statement .officeReadyTimeout := event rfl
theorem tenantFunctionTimeout : Statement .tenantFunctionTimeout := event rfl
theorem coolantTemperatureFault : Statement .coolantTemperatureFault := event rfl
theorem dramRefresh (vt : Nat) : Statement (.dramRefresh vt) := event rfl
theorem dramTemperatureChange (d : Nat) (band : Nat) : Statement (.dramTemperatureChange d band) := event rfl
theorem dramPatrolScrub (vt : Nat) : Statement (.dramPatrolScrub vt) := event rfl
theorem sramPatrolScrub (c : Nat) : Statement (.sramPatrolScrub c) := event rfl
theorem scrubWriteBack (x : Nat) : Statement (.scrubWriteBack x) := event rfl
theorem linkCalibration (l : Nat) (cyc : Nat) : Statement (.linkCalibration l cyc) := event rfl
theorem depotWearLevelling : Statement .depotWearLevelling := event rfl
theorem powerLoss (kept : List Nat) : Statement (.powerLoss kept) := event rfl
theorem memoryReplyTimeout (c : Nat) (k : Nat) : Statement (.memoryReplyTimeout c k) := event rfl
theorem hubCrossing (m : Nat) : Statement (.hubCrossing m) := event rfl
theorem peerLinkDown (l : Nat) : Statement (.peerLinkDown l) := event rfl
theorem powerGating (cl : Nat) : Statement (.powerGating cl) := event rfl
theorem softError (pa : Nat) (bad : Bool) : Statement (.softError pa bad) := event rfl

end Sys2Proof.Laws.Encoding
end

