-- ==== Sys2Proof/Tests/Slice0.lean ====
section
/-! SUPPORT. Tests: words decode to the instructions that they stand for, ill-formed halves are refused, the spec's worked examples, and
for every statement with hypotheses a state and operands that meet them (test_witness_<statement>). -/

namespace Sys2Proof.Tests
open Sys2Proof.Machine
set_option Elab.async false

/-! ### Small states -/

/-- A thread at 0x1000 with g1 to g3 as given and g4 = 5. -/
def thread (a b c : Word) : Thread :=
  { uid := 7, pc := 0x1000, bind := 0x0C000000, g := ((((Vector.replicate 16 0).set 1 a).set 2 b).set 3 c).set 4 5 }

/-- The state in which the bundle of a thread on core 5 slot 0 is in issue: a core that its tenant 3 has to itself. -/
def issue (t : Thread) (k : Core := {}) (s : State := {}) : State :=
  { s with threads := [(80, t)], cores := [(5, { k with part := 0x43 })], ctx := { core := 5, pre := t, next := t.pc + 16 } }

/-- An open chunk of a thread, with two bundles in it. -/
def chunkOf (t : Thread) : Chunk :=
  { scope := 8, budget := 256, count := 2, g := t.g, pc := t.pc, tsw := t.tsw, v := t.v, h := t.h, link := none }

/-- The own local memory at an offset, as a pointer. -/
def loc (off : Nat) : Word := BitVec.ofNat 64 (0x1F0 * 2 ^ 48 + off)

def ar : AR := { pn := false, pg := 0, rd := 3, ra := 1, ea := false, rb := 2, eb := false, fn := 0 }
def ai (imm : BitVec 32) (fn : BitVec 11 := 0) : AI := { pn := false, pg := 0, rd := 3, ra := 1, ea := false, imm, fn }
def am (sz : BitVec 3) : AM :=
  { pn := false, pg := 0, rd := 3, ra := 1, ea := false, rb := 0, eb := false, sc := 1, sz, hint := 0, ord := 0, x := false, off := 0 }
def ab (cc : BitVec 4) (off : BitVec 32) : AB := { pn := false, pg := 0, rd := 3, ra := 1, ea := false, rb := 2, eb := false, cc, off }
def vf (vd va vb : BitVec 5) (ty : BitVec 4) : VF :=
  { pn := false, pg := 0, vd, dcl := 0, dsc := 0, va, na := false, xa := false, ea := false, ga := 0, vb, nb := false, xb := false,
    eb := false, gb := 0, tag := 0, ty, rm := 0, u := false, gs := 0, eg := false, fn := 0 }

/-! ### Every half: a word from the encoding tables decodes to it -/

/-- R160 to R165: words of slot A put together from the tables of their fields. -/
theorem test_decode_integer :
    decodeA 0x0000000000000000 = .ok .nop ∧
    decodeA 0x01D46C4000000000 = .ok (.add ⟨true, 5, 4, 6, true, 8, true, 0⟩) ∧
    decodeA 0x02D46C4000000000 = .ok (.sub ⟨true, 5, 4, 6, true, 8, true, 0⟩) ∧
    decodeA 0x03D46C4000000000 = .ok (.mul ⟨true, 5, 4, 6, true, 8, true, 0⟩) ∧
    decodeA 0x04D46C4000000000 = .ok (.mulh ⟨true, 5, 4, 6, true, 8, true, 0⟩) ∧
    decodeA 0x05D46C4000000000 = .ok (.mulhu ⟨true, 5, 4, 6, true, 8, true, 0⟩) ∧
    decodeA 0x06D46C4000000000 = .ok (.div ⟨true, 5, 4, 6, true, 8, true, 0⟩) ∧
    decodeA 0x07D46C4000000000 = .ok (.divu ⟨true, 5, 4, 6, true, 8, true, 0⟩) ∧
    decodeA 0x08D46C4000000000 = .ok (.rem ⟨true, 5, 4, 6, true, 8, true, 0⟩) ∧
    decodeA 0x09D46C4000000000 = .ok (.remu ⟨true, 5, 4, 6, true, 8, true, 0⟩) ∧
    decodeA 0x0AD46C4000000000 = .ok (.and ⟨true, 5, 4, 6, true, 8, true, 0⟩) ∧
    decodeA 0x0BD46C4000000000 = .ok (.or ⟨true, 5, 4, 6, true, 8, true, 0⟩) ∧
    decodeA 0x0CD46C4000000000 = .ok (.xor ⟨true, 5, 4, 6, true, 8, true, 0⟩) ∧
    decodeA 0x0DD46C4000000000 = .ok (.andn ⟨true, 5, 4, 6, true, 8, true, 0⟩) ∧
    decodeA 0x0ED46C4000000000 = .ok (.shl ⟨true, 5, 4, 6, true, 8, true, 0⟩) ∧
    decodeA 0x0FD46C4000000000 = .ok (.shr ⟨true, 5, 4, 6, true, 8, true, 0⟩) := ⟨rfl, rfl, rfl, rfl, rfl, rfl, rfl, rfl, rfl, rfl, rfl, rfl, rfl, rfl, rfl, rfl⟩

/-- R160 to R165: words of slot A put together from the tables of their fields. -/
theorem test_decode_fields :
    decodeA 0x10D46C4000000000 = .ok (.sar ⟨true, 5, 4, 6, true, 8, true, 0⟩) ∧
    decodeA 0x11D46C4000000000 = .ok (.rot ⟨true, 5, 4, 6, true, 8, true, 0⟩) ∧
    decodeA 0x12D46C4000000000 = .ok (.min ⟨true, 5, 4, 6, true, 8, true, 0⟩) ∧
    decodeA 0x13D46C4000000000 = .ok (.max ⟨true, 5, 4, 6, true, 8, true, 0⟩) ∧
    decodeA 0x14D46C4000000000 = .ok (.minu ⟨true, 5, 4, 6, true, 8, true, 0⟩) ∧
    decodeA 0x15D46C4000000000 = .ok (.maxu ⟨true, 5, 4, 6, true, 8, true, 0⟩) ∧
    decodeA 0x16D4680000000000 = .ok (.clz ⟨true, 5, 4, 6, true, 0, false, 0⟩) ∧
    decodeA 0x17D4680000000000 = .ok (.ctz ⟨true, 5, 4, 6, true, 0, false, 0⟩) ∧
    decodeA 0x18D4680000000000 = .ok (.popc ⟨true, 5, 4, 6, true, 0, false, 0⟩) ∧
    decodeA 0x1969A80000020000 = .ok (.sext ⟨false, 6, 9, 10, true, 0x40, 0⟩) ∧
    decodeA 0x1A69A80000010800 = .ok (.zext ⟨false, 6, 9, 10, true, 0x21, 0⟩) ∧
    decodeA 0x1B69A80000102001 = .ok (.bfx ⟨false, 6, 9, 10, true, 0x204, 1⟩) ∧
    decodeA 0x1C69A8000058A000 = .ok (.bfi ⟨false, 6, 9, 10, true, 0xB14, 0⟩) := ⟨rfl, rfl, rfl, rfl, rfl, rfl, rfl, rfl, rfl, rfl, rfl, rfl, rfl⟩

/-- R160 to R165: words of slot A put together from the tables of their fields. -/
theorem test_decode_immediates :
    decodeA 0x2069AFFFFFFF8000 = .ok (.addi ⟨false, 6, 9, 10, true, 0xFFFFFFF0, 0⟩) ∧
    decodeA 0x2169A891A2B3C000 = .ok (.muli ⟨false, 6, 9, 10, true, 0x12345678, 0⟩) ∧
    decodeA 0x2269AC0000000800 = .ok (.andi ⟨false, 6, 9, 10, true, 0x80000001, 0⟩) ∧
    decodeA 0x2369A80000078000 = .ok (.ori ⟨false, 6, 9, 10, true, 0xF0, 0⟩) ∧
    decodeA 0x2469AFFFFFFFF800 = .ok (.xori ⟨false, 6, 9, 10, true, 0xFFFFFFFF, 0⟩) ∧
    decodeA 0x2569A8000001F800 = .ok (.shli ⟨false, 6, 9, 10, true, 0x3F, 0⟩) ∧
    decodeA 0x2669A80000000800 = .ok (.shri ⟨false, 6, 9, 10, true, 0x1, 0⟩) ∧
    decodeA 0x2769A80000010000 = .ok (.sari ⟨false, 6, 9, 10, true, 0x20, 0⟩) ∧
    decodeA 0x28FD800000000001 = .ok (.li ⟨true, 7, 13, 0x800000000001⟩) ∧
    decodeA 0x29FD00000000BEEF = .ok (.lih ⟨true, 7, 13, 0xBEEF⟩) ∧
    decodeA 0x2AFDFFFFFFFFFFF0 = .ok (.lx ⟨true, 7, 13, 0xFFFFFFFFFFF0⟩) := ⟨rfl, rfl, rfl, rfl, rfl, rfl, rfl, rfl, rfl, rfl, rfl⟩

/-- R160 to R165: words of slot A put together from the tables of their fields. -/
theorem test_decode_predicates_and_pointers :
    decodeA 0x30D26C4500000000 = .ok (.cmp ⟨true, 5, 2, 6, true, 8, true, 5⟩) ∧
    decodeA 0x3167AC0000000009 = .ok (.cmpi ⟨false, 6, 7, 10, true, 0x80000000, 9⟩) ∧
    decodeA 0x32D2328000000000 = .ok (.pand ⟨true, 5, 2, 3, false, 5, false, 0⟩) ∧
    decodeA 0x33D2328000000000 = .ok (.por ⟨true, 5, 2, 3, false, 5, false, 0⟩) ∧
    decodeA 0x34D2328000000000 = .ok (.pxor ⟨true, 5, 2, 3, false, 5, false, 0⟩) ∧
    decodeA 0x35D2328000000000 = .ok (.pandn ⟨true, 5, 2, 3, false, 5, false, 0⟩) ∧
    decodeA 0x36D2300000000000 = .ok (.ptog ⟨true, 5, 2, 3, false, 0, false, 0⟩) ∧
    decodeA 0x37D2680000000000 = .ok (.gtop ⟨true, 5, 2, 6, true, 0, false, 0⟩) ∧
    decodeA 0x38D46C4900000000 = .ok (.csel ⟨true, 5, 4, 6, true, 8, true, 9⟩) ∧
    decodeA 0x3AD46C4000000000 = .ok (.addp ⟨true, 5, 4, 6, true, 8, true, 0⟩) ∧
    decodeA 0x3BD46C4000000000 = .ok (.pidx ⟨true, 5, 4, 6, true, 8, true, 0⟩) ∧
    decodeA 0x3C69A8000002E000 = .ok (.pfmt ⟨false, 6, 9, 10, true, 0x5C, 0⟩) ∧
    decodeA 0x3DD06C4000000000 = .ok (.pchk ⟨true, 5, 0, 6, true, 8, true, 0⟩) := ⟨rfl, rfl, rfl, rfl, rfl, rfl, rfl, rfl, rfl, rfl, rfl, rfl, rfl⟩

/-- R160 to R165: words of slot A put together from the tables of their fields. -/
theorem test_decode_control :
    decodeA 0x403000007FFFFFFF = .ok (.br ⟨false, 3, 0, 0, false, 0, false, 0, 0x7FFFFFFF⟩) ∧
    decodeA 0x41303E64FFFFFFFE = .ok (.bcmp ⟨false, 3, 0, 3, true, 12, true, 9, 0xFFFFFFFE⟩) ∧
    decodeA 0x4330000080000000 = .ok (.call ⟨false, 3, 0, 0, false, 0, false, 0, 0x80000000⟩) ∧
    decodeA 0x44D0000000000000 = .ok (.ret ⟨true, 5, 0, 0, false, 0, false, 0⟩) ∧
    decodeA 0x45D0680000000000 = .ok (.jr ⟨true, 5, 0, 6, true, 0, false, 0⟩) ∧
    decodeA 0x46D4680000000000 = .ok (.jalr ⟨true, 5, 4, 6, true, 0, false, 0⟩) ∧
    decodeA 0x473B0000FFFFFFF0 = .ok (.loop ⟨false, 3, 11, 0, false, 0, false, 0, 0xFFFFFFF0⟩) ∧
    decodeA 0x4869000000003800 = .ok (.rdsys ⟨false, 6, 9, 0, false, 0x7, 0⟩) ∧
    decodeA 0x4960AEF56DF77800 = .ok (.trap ⟨false, 6, 0, 10, true, 0xDEADBEEF, 0⟩) ∧
    decodeA 0x4A60A80000021000 = .ok (.brk ⟨false, 6, 0, 10, true, 0x42, 0⟩) ∧
    decodeA 0x4BD0680000000000 = .ok (.wtsw ⟨true, 5, 0, 6, true, 0, false, 0⟩) := ⟨rfl, rfl, rfl, rfl, rfl, rfl, rfl, rfl, rfl, rfl, rfl⟩

/-- R160 to R165: words of slot A put together from the tables of their fields. -/
theorem test_decode_loads_and_stores :
    decodeA 0x50946C5DC6ABCDE8 = .ok (.ld ⟨true, 1, 4, 6, true, 8, true, 7, 3, 2, 1, true, 0xABCDE8⟩) ∧
    decodeA 0x51946C5CC6ABCDE8 = .ok (.ldn ⟨true, 1, 4, 6, true, 8, true, 7, 1, 2, 1, true, 0xABCDE8⟩) ∧
    decodeA 0x52946C5D4AABCDE8 = .ok (.st ⟨true, 1, 4, 6, true, 8, true, 7, 2, 2, 2, true, 0xABCDE8⟩) ∧
    decodeA 0x53946C5EC6ABCDE8 = .ok (.ldv ⟨true, 1, 4, 6, true, 8, true, 7, 5, 2, 1, true, 0xABCDE8⟩) ∧
    decodeA 0x54946C5ECAABCDE8 = .ok (.stv ⟨true, 1, 4, 6, true, 8, true, 7, 5, 2, 2, true, 0xABCDE8⟩) ∧
    decodeA 0x55946C5E46ABCDE8 = .ok (.ldp ⟨true, 1, 4, 6, true, 8, true, 7, 4, 2, 1, true, 0xABCDE8⟩) ∧
    decodeA 0x56946C5E4AABCDE8 = .ok (.stp ⟨true, 1, 4, 6, true, 8, true, 7, 4, 2, 2, true, 0xABCDE8⟩) ∧
    decodeA 0x57946C5C46ABCDE8 = .ok (.lsh ⟨true, 1, 4, 6, true, 8, true, 7, 0, 2, 1, true, 0xABCDE8⟩) ∧
    decodeA 0x58946C5C4AABCDE8 = .ok (.ssh ⟨true, 1, 4, 6, true, 8, true, 7, 0, 2, 2, true, 0xABCDE8⟩) ∧
    decodeA 0x5969A80000003801 = .ok (.shset ⟨false, 6, 9, 10, true, 0x7, 1⟩) ∧
    decodeA 0x5A69A00000005800 = .ok (.shget ⟨false, 6, 9, 10, false, 0xB, 0⟩) ∧
    decodeA 0x5C956C41827FFFF8 = .ok (.ldf ⟨true, 1, 5, 6, true, 8, true, 0, 3, 0, 0, true, 0x7FFFF8⟩) ∧
    decodeA 0x5D956C41827FFFF8 = .ok (.ldfk ⟨true, 1, 5, 6, true, 8, true, 0, 3, 0, 0, true, 0x7FFFF8⟩) ∧
    decodeA 0x5E956C41827FFFF8 = .ok (.ste ⟨true, 1, 5, 6, true, 8, true, 0, 3, 0, 0, true, 0x7FFFF8⟩) ∧
    decodeA 0x5F956C41827FFFF8 = .ok (.stf ⟨true, 1, 5, 6, true, 8, true, 0, 3, 0, 0, true, 0x7FFFF8⟩) := ⟨rfl, rfl, rfl, rfl, rfl, rfl, rfl, rfl, rfl, rfl, rfl, rfl, rfl, rfl, rfl⟩

/-- R160 to R165: words of slot A put together from the tables of their fields. -/
theorem test_decode_atomics_and_fences :
    decodeA 0x60956C41827FFFF8 = .ok (.fest ⟨true, 1, 5, 6, true, 8, true, 0, 3, 0, 0, true, 0x7FFFF8⟩) ∧
    decodeA 0x61956C42827FFFF8 = .ok (.feset ⟨true, 1, 5, 6, true, 8, true, 0, 5, 0, 0, true, 0x7FFFF8⟩) ∧
    decodeA 0x64956BE50CFFFFFC = .ok (.amoadd ⟨true, 1, 5, 6, true, 7, true, 9, 2, 0, 3, false, 0xFFFFFC⟩) ∧
    decodeA 0x65956BE58CFFFFFC = .ok (.amoand ⟨true, 1, 5, 6, true, 7, true, 9, 3, 0, 3, false, 0xFFFFFC⟩) ∧
    decodeA 0x66956BE58CFFFFFC = .ok (.amoor ⟨true, 1, 5, 6, true, 7, true, 9, 3, 0, 3, false, 0xFFFFFC⟩) ∧
    decodeA 0x67956BE58CFFFFFC = .ok (.amoxor ⟨true, 1, 5, 6, true, 7, true, 9, 3, 0, 3, false, 0xFFFFFC⟩) ∧
    decodeA 0x68956BE58CFFFFFC = .ok (.amomin ⟨true, 1, 5, 6, true, 7, true, 9, 3, 0, 3, false, 0xFFFFFC⟩) ∧
    decodeA 0x69956BE50CFFFFFC = .ok (.amomax ⟨true, 1, 5, 6, true, 7, true, 9, 2, 0, 3, false, 0xFFFFFC⟩) ∧
    decodeA 0x6A956BE58CFFFFFC = .ok (.amominu ⟨true, 1, 5, 6, true, 7, true, 9, 3, 0, 3, false, 0xFFFFFC⟩) ∧
    decodeA 0x6B956BE58CFFFFFC = .ok (.amomaxu ⟨true, 1, 5, 6, true, 7, true, 9, 3, 0, 3, false, 0xFFFFFC⟩) ∧
    decodeA 0x6C956BE58CFFFFFC = .ok (.amoswap ⟨true, 1, 5, 6, true, 7, true, 9, 3, 0, 3, false, 0xFFFFFC⟩) ∧
    decodeA 0x6D956BE58CFFFFFC = .ok (.amocas ⟨true, 1, 5, 6, true, 7, true, 9, 3, 0, 3, false, 0xFFFFFC⟩) := ⟨rfl, rfl, rfl, rfl, rfl, rfl, rfl, rfl, rfl, rfl, rfl, rfl⟩

/-- R160 to R165: words of slot A put together from the tables of their fields. -/
theorem test_decode_tags_and_inbox :
    decodeA 0x7090002C00000000 = .ok (.fence ⟨true, 1, 0, 0, false, 0, false, 11, 0, 0, 0, false, 0x0⟩) ∧
    decodeA 0x716000000400B800 = .ok (.chunk ⟨false, 6, 0, 0, false, 0x8017, 0⟩) ∧
    decodeA 0x72906C4062800000 = .ok (.pref ⟨true, 1, 0, 6, true, 8, true, 0, 0, 3, 0, true, 0x800000⟩) ∧
    decodeA 0x78D0680000000000 = .ok (.tagwait ⟨true, 5, 0, 6, true, 0, false, 0⟩) ∧
    decodeA 0x79D4680000000000 = .ok (.tagany ⟨true, 5, 4, 6, true, 0, false, 0⟩) ∧
    decodeA 0x7AD4680000000000 = .ok (.tagff ⟨true, 5, 4, 6, true, 0, false, 0⟩) ∧
    decodeA 0x7BD0680000000000 = .ok (.tagclr ⟨true, 5, 0, 6, true, 0, false, 0⟩) ∧
    decodeA 0x7CD06C4000000000 = .ok (.post ⟨true, 5, 0, 6, true, 8, true, 0⟩) ∧
    decodeA 0x7DD4001F00000000 = .ok (.take ⟨true, 5, 4, 0, false, 0, false, 31⟩) ∧
    decodeA 0x7ED4001F00000000 = .ok (.peek ⟨true, 5, 4, 0, false, 0, false, 31⟩) ∧
    decodeA 0x7ED4002000000000 = .ok (.peekM ⟨true, 5, 4, 0, false, 0, false, 32⟩) := ⟨rfl, rfl, rfl, rfl, rfl, rfl, rfl, rfl, rfl, rfl, rfl⟩

/-- R160 to R165: words of slot A put together from the tables of their fields. -/
theorem test_decode_tasks :
    decodeA 0x80D4044100000000 = .ok (.fork ⟨true, 5, 4, 0, false, 8, true, 1⟩) ∧
    decodeA 0x81D4680000000000 = .ok (.join ⟨true, 5, 4, 6, true, 0, false, 0⟩) ∧
    decodeA 0x82D46C4100000000 = .ok (.callat ⟨true, 5, 4, 6, true, 8, true, 1⟩) ∧
    decodeA 0x83D0680000000000 = .ok (.reply ⟨true, 5, 0, 6, true, 0, false, 0⟩) ∧
    decodeA 0x84D06C4000000000 = .ok (.send ⟨true, 5, 0, 6, true, 8, true, 0⟩) ∧
    decodeA 0x85D0680000000000 = .ok (.chblk ⟨true, 5, 0, 6, true, 0, false, 0⟩) ∧
    decodeA 0x86D0680000000000 = .ok (.chunblk ⟨true, 5, 0, 6, true, 0, false, 0⟩) ∧
    decodeA 0x88D0680000000000 = .ok (.mig ⟨true, 5, 0, 6, true, 0, false, 0⟩) ∧
    decodeA 0x89D06C4000000000 = .ok (.migc ⟨true, 5, 0, 6, true, 8, true, 0⟩) ∧
    decodeA 0x8AD0000000000000 = .ok (.exit ⟨true, 5, 0, 0, false, 0, false, 0⟩) ∧
    decodeA 0x8BD0000000000000 = .ok (.yield ⟨true, 5, 0, 0, false, 0, false, 0⟩) ∧
    decodeA 0x8CD0680000000000 = .ok (.launch ⟨true, 5, 0, 6, true, 0, false, 0⟩) := ⟨rfl, rfl, rfl, rfl, rfl, rfl, rfl, rfl, rfl, rfl, rfl, rfl⟩

/-- R160 to R165: words of slot A put together from the tables of their fields. -/
theorem test_decode_barriers_and_gang :
    decodeA 0x90600001FFFF7800 = .ok (.barinit ⟨false, 6, 0, 0, false, 0x3FFFEF, 0⟩) ∧
    decodeA 0x91D4680000000000 = .ok (.bararr ⟨true, 5, 4, 6, true, 0, false, 0⟩) ∧
    decodeA 0x92D06C4000000000 = .ok (.barwait ⟨true, 5, 0, 6, true, 8, true, 0⟩) ∧
    decodeA 0x93D06C4000000000 = .ok (.barlink ⟨true, 5, 0, 6, true, 8, true, 0⟩) ∧
    decodeA 0x94D4680100000000 = .ok (.barrd ⟨true, 5, 4, 6, true, 0, false, 1⟩) ∧
    decodeA 0x9860000000000800 = .ok (.gang ⟨false, 6, 0, 0, false, 0x1, 0⟩) := ⟨rfl, rfl, rfl, rfl, rfl, rfl⟩

/-- R160 to R165: words of slot A put together from the tables of their fields. -/
theorem test_decode_routing :
    decodeA 0xA0D46C4000000000 = .ok (.hsift ⟨true, 5, 4, 6, true, 8, true, 0⟩) ∧
    decodeA 0xA1D46C4000000000 = .ok (.route ⟨true, 5, 4, 6, true, 8, true, 0⟩) ∧
    decodeA 0xA2D06C4000000000 = .ok (.rhome ⟨true, 5, 0, 6, true, 8, true, 0⟩) ∧
    decodeA 0xA3D46C4000000000 = .ok (.rcommit ⟨true, 5, 4, 6, true, 8, true, 0⟩) ∧
    decodeA 0xA4D4680000000000 = .ok (.rabort ⟨true, 5, 4, 6, true, 0, false, 0⟩) ∧
    decodeA 0xA5D4680000000000 = .ok (.rstat ⟨true, 5, 4, 6, true, 0, false, 0⟩) ∧
    decodeA 0xA6D4680000000000 = .ok (.afetch ⟨true, 5, 4, 6, true, 0, false, 0⟩) ∧
    decodeA 0xA6D0680100000000 = .ok (.afetchRel ⟨true, 5, 0, 6, true, 0, false, 1⟩) := ⟨rfl, rfl, rfl, rfl, rfl, rfl, rfl, rfl⟩

/-- R160 to R165: words of slot A put together from the tables of their fields. -/
theorem test_decode_handles :
    decodeA 0xB0D46C4000000000 = .ok (.spec ⟨true, 5, 4, 6, true, 8, true, 0⟩) ∧
    decodeA 0xB1D0680000000000 = .ok (.callh ⟨true, 5, 0, 6, true, 0, false, 0⟩) ∧
    decodeA 0xB2D0000000000000 = .ok (.reth ⟨true, 5, 0, 0, false, 0, false, 0⟩) ∧
    decodeA 0xB3D0680000000000 = .ok (.hrel ⟨true, 5, 0, 6, true, 0, false, 0⟩) ∧
    decodeA 0xB4D4680300000000 = .ok (.hinfo ⟨true, 5, 4, 6, true, 0, false, 3⟩) ∧
    decodeA 0xB5D0680000000000 = .ok (.hkeep ⟨true, 5, 0, 6, true, 0, false, 0⟩) := ⟨rfl, rfl, rfl, rfl, rfl, rfl⟩

/-- R166 to R168: words of slot V put together from the tables of their fields. -/
theorem test_decode_vector_arithmetic :
    decodeV 0x0000000000000000 = .ok .nopV ∧
    decodeV 0x0141B43413C01500 = .ok (.vadd ⟨false, 4, 3, 1, 5, 1, true, false, true, 0, 2, false, true, true, 3, 0, 1, 2, true, 0, false, 0⟩) ∧
    decodeV 0x02490220F83F6A00 = .ok (.vsub ⟨false, 4, 18, 0, 0, 17, false, false, false, 0, 31, false, false, false, 0, 63, 6, 5, false, 0, false, 0⟩) ∧
    decodeV 0x034781C800008099 = .ok (.vmul ⟨false, 4, 15, 0, 0, 14, false, true, false, 0, 0, false, false, false, 0, 0, 8, 0, false, 9, true, 1⟩) ∧
    decodeV 0x0448620018017000 = .ok (.vfma ⟨false, 4, 16, 3, 0, 16, false, false, false, 0, 3, false, false, false, 0, 1, 7, 0, false, 0, false, 0⟩) ∧
    decodeV 0x0540804118002000 = .ok (.vmin ⟨false, 4, 1, 0, 0, 2, false, false, false, 1, 3, false, false, false, 0, 0, 2, 0, false, 0, false, 0⟩) ∧
    decodeV 0x064080501C008000 = .ok (.vmax ⟨false, 4, 1, 0, 0, 2, true, false, false, 0, 3, true, false, false, 0, 0, 8, 0, false, 0, false, 0⟩) ∧
    decodeV 0x084200A030003000 = .ok (.vand ⟨false, 4, 4, 0, 0, 5, false, false, false, 0, 6, false, false, false, 0, 0, 3, 0, false, 0, false, 0⟩) ∧
    decodeV 0x094200A030001100 = .ok (.vor ⟨false, 4, 4, 0, 0, 5, false, false, false, 0, 6, false, false, false, 0, 0, 1, 0, true, 0, false, 0⟩) ∧
    decodeV 0x0A4200A000002071 = .ok (.vxor ⟨false, 4, 4, 0, 0, 5, false, false, false, 0, 0, false, false, false, 0, 0, 2, 0, false, 7, false, 1⟩) ∧
    decodeV 0x0B4220A030003000 = .ok (.vshl ⟨false, 4, 4, 1, 0, 5, false, false, false, 0, 6, false, false, false, 0, 0, 3, 0, false, 0, false, 0⟩) ∧
    decodeV 0x0C4200A030003100 = .ok (.vshr ⟨false, 4, 4, 0, 0, 5, false, false, false, 0, 6, false, false, false, 0, 0, 3, 0, true, 0, false, 0⟩) ∧
    decodeV 0x0D4200A030002000 = .ok (.vsar ⟨false, 4, 4, 0, 0, 5, false, false, false, 0, 6, false, false, false, 0, 0, 2, 0, false, 0, false, 0⟩) ∧
    decodeV 0x0E43810048008007 = .ok (.vcmp ⟨false, 4, 7, 0, 0, 8, false, false, false, 0, 9, false, false, false, 0, 0, 8, 0, false, 0, false, 7⟩) ∧
    decodeV 0x0F43810048003000 = .ok (.vsel ⟨false, 4, 7, 0, 0, 8, false, false, false, 0, 9, false, false, false, 0, 0, 3, 0, false, 0, false, 0⟩) := ⟨rfl, rfl, rfl, rfl, rfl, rfl, rfl, rfl, rfl, rfl, rfl, rfl, rfl, rfl, rfl⟩

/-- R166 to R168: words of slot V put together from the tables of their fields. -/
theorem test_decode_vector_moves :
    decodeV 0x10410000000030B8 = .ok (.vsplat ⟨false, 4, 2, 0, 0, 0, false, false, false, 0, 0, false, false, false, 0, 0, 3, 0, false, 11, true, 0⟩) ∧
    decodeV 0x1141047800008000 = .ok (.vmov ⟨false, 4, 2, 0, 1, 3, true, true, false, 0, 0, false, false, false, 0, 0, 8, 0, false, 0, false, 0⟩) ∧
    decodeV 0x124000A6F8001061 = .ok (.vext ⟨false, 4, 0, 0, 0, 5, false, false, true, 2, 31, false, false, false, 0, 0, 1, 0, false, 6, false, 1⟩) ∧
    decodeV 0x1342800078003068 = .ok (.vins ⟨false, 4, 5, 0, 0, 0, false, false, false, 0, 15, false, false, false, 0, 0, 3, 0, false, 6, true, 0⟩) ∧
    decodeV 0x1443000000003000 = .ok (.viota ⟨false, 4, 6, 0, 0, 0, false, false, false, 0, 0, false, false, false, 0, 0, 3, 0, false, 0, false, 0⟩) ∧
    decodeV 0x1540804218003000 = .ok (.vperm ⟨false, 4, 1, 0, 0, 2, false, false, false, 2, 3, false, false, false, 0, 0, 3, 0, false, 0, false, 0⟩) := ⟨rfl, rfl, rfl, rfl, rfl, rfl⟩

/-- R166 to R168: words of slot V put together from the tables of their fields. -/
theorem test_decode_special_functions :
    decodeV 0x2040804000008000 = .ok (.vrcp ⟨false, 4, 1, 0, 0, 2, false, false, false, 0, 0, false, false, false, 0, 0, 8, 0, false, 0, false, 0⟩) ∧
    decodeV 0x2148824000058000 = .ok (.vrsqrt ⟨false, 4, 17, 0, 0, 18, false, false, false, 0, 0, false, false, false, 0, 5, 8, 0, false, 0, false, 0⟩) ∧
    decodeV 0x2240805000007000 = .ok (.vexp2 ⟨false, 4, 1, 0, 0, 2, true, false, false, 0, 0, false, false, false, 0, 0, 7, 0, false, 0, false, 0⟩) ∧
    decodeV 0x2340804800006000 = .ok (.vlog2 ⟨false, 4, 1, 0, 0, 2, false, true, false, 0, 0, false, false, false, 0, 0, 6, 0, false, 0, false, 0⟩) ∧
    decodeV 0x2440804000008200 = .ok (.vtanh ⟨false, 4, 1, 0, 0, 2, false, false, false, 0, 0, false, false, false, 0, 0, 8, 1, false, 0, false, 0⟩) ∧
    decodeV 0x2540C04000008000 = .ok (.vsigm ⟨false, 4, 1, 2, 0, 2, false, false, false, 0, 0, false, false, false, 0, 0, 8, 0, false, 0, false, 0⟩) ∧
    decodeV 0x2640804000008800 = .ok (.vsqrt ⟨false, 4, 1, 0, 0, 2, false, false, false, 0, 0, false, false, false, 0, 0, 8, 4, false, 0, false, 0⟩) := ⟨rfl, rfl, rfl, rfl, rfl, rfl, rfl⟩

/-- R166 to R168: words of slot V put together from the tables of their fields. -/
theorem test_decode_vector_memory :
    decodeV 0x3040A04000001080 = .ok (.vcvt ⟨false, 4, 1, 1, 0, 2, false, false, false, 0, 0, false, false, false, 0, 0, 1, 0, false, 8, false, 0⟩) ∧
    decodeV 0x314882400002B030 = .ok (.vscale ⟨false, 4, 17, 0, 0, 18, false, false, false, 0, 0, false, false, false, 0, 2, 11, 0, false, 3, false, 0⟩) ∧
    decodeV 0x3248824020095000 = .ok (.vgath ⟨false, 4, 17, 0, 0, 18, false, false, false, 0, 4, false, false, false, 0, 9, 5, 0, false, 0, false, 0⟩) ∧
    decodeV 0x3348824098094000 = .ok (.vscat ⟨false, 4, 17, 0, 0, 18, false, false, false, 0, 19, false, false, false, 0, 9, 4, 0, false, 0, false, 0⟩) ∧
    decodeV 0x344A00000021315A = .ok (.vfill ⟨false, 4, 20, 0, 0, 0, false, false, false, 0, 0, false, false, false, 0, 33, 3, 0, true, 5, true, 2⟩) := ⟨rfl, rfl, rfl, rfl, rfl⟩

/-- R166 to R168: words of slot V put together from the tables of their fields. -/
theorem test_decode_vector_rows :
    decodeV 0x4040804000003000 = .ok (.vredadd ⟨false, 4, 1, 0, 0, 2, false, false, false, 0, 0, false, false, false, 0, 0, 3, 0, false, 0, false, 0⟩) ∧
    decodeV 0x4140804000008000 = .ok (.vredmax ⟨false, 4, 1, 0, 0, 2, false, false, false, 0, 0, false, false, false, 0, 0, 8, 0, false, 0, false, 0⟩) ∧
    decodeV 0x4248824000012000 = .ok (.vredmin ⟨false, 4, 17, 0, 0, 18, false, false, false, 0, 0, false, false, false, 0, 1, 2, 0, false, 0, false, 0⟩) ∧
    decodeV 0x4340804000003001 = .ok (.vscan ⟨false, 4, 1, 0, 0, 2, false, false, false, 0, 0, false, false, false, 0, 0, 3, 0, false, 0, false, 1⟩) ∧
    decodeV 0x4448824000014000 = .ok (.vnz ⟨false, 4, 17, 0, 0, 18, false, false, false, 0, 0, false, false, false, 0, 1, 4, 0, false, 0, false, 0⟩) ∧
    decodeV 0x4548824098018000 = .ok (.vcompact ⟨false, 4, 17, 0, 0, 18, false, false, false, 0, 19, false, false, false, 0, 1, 8, 0, false, 0, false, 0⟩) ∧
    decodeV 0x4640804000008000 = .ok (.vargmax ⟨false, 4, 1, 0, 0, 2, false, false, false, 0, 0, false, false, false, 0, 0, 8, 0, false, 0, false, 0⟩) ∧
    decodeV 0x4740804000008001 = .ok (.vsoftmax ⟨false, 4, 1, 0, 0, 2, false, false, false, 0, 0, false, false, false, 0, 0, 8, 0, false, 0, false, 1⟩) := ⟨rfl, rfl, rfl, rfl, rfl, rfl, rfl, rfl⟩

/-- R166 to R168: words of slot V put together from the tables of their fields. -/
theorem test_decode_matrix :
    decodeV 0x6049020008040007 = .ok (.mma ⟨false, 4, 18, 0, 0, 16, false, false, false, 0, 1, false, false, false, 0, 4, 0, 0, false, 0, false, 7⟩) ∧
    decodeV 0x6149020088040051 = .ok (.mmar ⟨false, 4, 18, 0, 0, 16, false, false, false, 0, 17, false, false, false, 0, 4, 0, 0, false, 5, false, 1⟩) ∧
    decodeV 0x62400280A8080091 = .ok (.manchor ⟨false, 4, 0, 0, 0, 20, false, false, false, 0, 21, false, false, false, 0, 8, 0, 0, false, 9, false, 1⟩) ∧
    decodeV 0x63483E2090078603 = .ok (.macc ⟨false, 4, 16, 1, 7, 17, false, false, false, 0, 18, false, false, false, 0, 7, 8, 3, false, 0, false, 3⟩) ∧
    decodeV 0x644F8000003C0000 = .ok (.mclr ⟨false, 4, 31, 0, 0, 0, false, false, false, 0, 0, false, false, false, 0, 60, 0, 0, false, 0, false, 0⟩) ∧
    decodeV 0x654083A000020000 = .ok (.mld ⟨false, 4, 1, 0, 0, 29, false, false, false, 0, 0, false, false, false, 0, 2, 0, 0, false, 0, false, 0⟩) ∧
    decodeV 0x6640002000030000 = .ok (.mrot ⟨false, 4, 0, 0, 0, 1, false, false, false, 0, 0, false, false, false, 0, 3, 0, 0, false, 0, false, 0⟩) ∧
    decodeV 0x6640002000030001 = .ok (.mrotDrop ⟨false, 4, 0, 0, 0, 1, false, false, false, 0, 0, false, false, false, 0, 3, 0, 0, false, 0, false, 1⟩) ∧
    decodeV 0x6749020088040051 = .ok (.mseg ⟨false, 4, 18, 0, 0, 16, false, false, false, 0, 17, false, false, false, 0, 4, 0, 0, false, 5, false, 1⟩) := ⟨rfl, rfl, rfl, rfl, rfl, rfl, rfl, rfl, rfl⟩

/-- R166 to R168: words of slot V put together from the tables of their fields. -/
theorem test_decode_copy :
    decodeV 0x7048022000010000 = .ok (.cp ⟨false, 4, 16, 0, 0, 17, false, false, false, 0, 0, false, false, false, 0, 1, 0, 0, false, 0, false, 0⟩) ∧
    decodeV 0x7148022020010068 = .ok (.cpg ⟨false, 4, 16, 0, 0, 17, false, false, false, 0, 4, false, false, false, 0, 1, 0, 0, false, 6, true, 0⟩) ∧
    decodeV 0x72480220A0010000 = .ok (.cps ⟨false, 4, 16, 0, 0, 17, false, false, false, 0, 20, false, false, false, 0, 1, 0, 0, false, 0, false, 0⟩) ∧
    decodeV 0x7348000000010030 = .ok (.cpfill ⟨false, 4, 16, 0, 0, 0, false, false, false, 0, 0, false, false, false, 0, 1, 0, 0, false, 3, false, 0⟩) ∧
    decodeV 0x7448022000010030 = .ok (.cpr ⟨false, 4, 16, 0, 0, 17, false, false, false, 0, 0, false, false, false, 0, 1, 0, 0, false, 3, false, 0⟩) ∧
    decodeV 0x7448022000010031 = .ok (.cprPull ⟨false, 4, 16, 0, 0, 17, false, false, false, 0, 0, false, false, false, 0, 1, 0, 0, false, 3, false, 1⟩) ∧
    decodeV 0x7548022000010000 = .ok (.cpdur ⟨false, 4, 16, 0, 0, 17, false, false, false, 0, 0, false, false, false, 0, 1, 0, 0, false, 0, false, 0⟩) := ⟨rfl, rfl, rfl, rfl, rfl, rfl, rfl⟩

/-! ### Witnesses: the hypotheses of the statements are met -/

/-- A bundle that a fetch finds at 0x1000: tenant 3's page in frame 0 of die 0, homed on core 5. -/
def fetching (a v : Nat) : State :=
  { issue (thread 1 2 3)
      { tlb := [{ ten := 3, asid := 0, global := true, vpn := 0, shift := 21, leaf := 21, pa := 0, wr := true, ex := true, rd := true, attr := some 0x1400 }] } with
    agenda := [.issue 5]
    mem := Mem.writeN [] 0x1000 (bytesOfNat 8 a ++ bytesOfNat 8 v) }

theorem test_witness_DecodeEncode :
    (Instr.add ar).WellFormed ∧ (Instr.add ar).side = .slotA ∧ (Instr.vadd (vf 1 2 3 8)).WellFormed ∧ (Instr.vadd (vf 1 2 3 8)).side = .slotV ∧
    Instr.add ar ≠ .nopV ∧ decodeA 0x0103100000000000 = .ok (.add { ar with rb := 0 }) ∧ decodeV 0 = .ok .nopV := by
  and_intros <;> first | decide +kernel | rfl

theorem test_witness_StepRunsDecoded :
    let s := fetching 0x0103110000000000 0
    s.fetches [] 5 0 (thread 1 2 3) 0x1000 ∧ decodeA (s.mem64 0x1000) = .ok (.add ar) ∧ decodeV (s.mem64 0x1008) = .ok .nopV ∧ gangForm .nopV = none ∧
    (let a := s.atIssue [] 5 0 (thread 1 2 3) (s.mem64 0x1000) (s.mem64 0x1008)
     let e := a.enterChunk (isStep (.add ar) a.ctx.pre.csc)
     e.ctx.res = .done ∧ e.cur.checked = false ∧ (∃ u, exec (.add ar) e = .next u) ∧ Instr.side (.add ar) = .slotA) ∧
    (let u := issue (thread 1 2 3)
     let ck := { chunkOf (thread 1 2 3) with count := 0 }
     let o := issue { thread 1 2 3 with chunk := some ck }
     u.ctx.res = .done ∧ u.issues (thread 1 2 3) ∧ u.ctx.enter = false ∧ (thread 1 2 3).stepping = false ∧ (thread 1 2 3).chunk = none ∧
     o.issues { thread 1 2 3 with chunk := some ck } ∧ ck.count + 1 < ck.budget ∧ o.ctx.ends = false) := by
  and_intros <;> first | decide +kernel | exact ⟨_, rfl⟩ | rfl

theorem test_witness_NoOperations :
    let s := fetching 1 0
    s.fetches [] 5 0 (thread 1 2 3) 0x1000 ∧ s.mem64 0x1000 ≠ 0 ∧ (s.mem64 0x1000).extractLsb' 56 8 = 0 ∧
    (s.atIssue [] 5 0 (thread 1 2 3) (s.mem64 0x1000) (s.mem64 0x1008)).faultsAtOnce := by
  and_intros <;> first | decide +kernel | rfl | nofun

theorem test_witness_StepsKeepCanonical : (fetching 0x0103110000000000 0).canonical ∧ ∃ u, step (fetching 0x0103110000000000 0) = .next u := by
  refine ⟨rfl, ?_⟩
  unfold step
  exact ⟨_, rfl⟩

theorem test_witness_GuardFalse :
    let s := issue (thread 1 2 3)
    Instr.side (.add { ar with pn := true }) ≠ .event ∧
    s.ctx.pre.pred ((encodeHalf (.add { ar with pn := true })).extractLsb' 52 3).toNat = (encodeHalf (.add { ar with pn := true })).getLsbD 55 ∧
    s.ctx.pre.pred ((encodeHalf (.vadd { vf 1 2 3 8 with pg := 7 })).extractLsb' 52 3).toNat =
      (encodeHalf (.vadd { vf 1 2 3 8 with pg := 7 })).getLsbD 55 := by
  and_intros <;> first | decide +kernel | rfl

theorem test_witness_TakingAFault :
    let t := thread 1 2 3
    let s := issue t
    let c := { chunkOf t with count := 0 }
    let full := issue t { waiting := List.replicate 32 {} }
    let p := { s with porters := [(3, { dvsel := 5 })] }
    let f : FaultInfo := { code := 0x05 }
    (issue { t with chunk := some (chunkOf t) }).issues { t with chunk := some (chunkOf t) } ∧ 0 < (chunkOf t).count ∧
    (chunkOf t).asked = false ∧ (chunkOf t).scope ≠ 0 ∧ (issue { t with chunk := some c }).issues { t with chunk := some c } ∧ c.count = 0 ∧
    full.issues t ∧ full.recordsFull 5 = true ∧ p.issues t ∧ p.recordsFull 5 = false ∧ t.endAt = false ∧
    (∃ u, exec (.resume 3) (p.takeFault f) = .next u) ∧ (p.core 5).cmds = [] ∧
    ((p.takeFault f).porter 3).dvsel.toNat = 5 + 64 * 0 * 2 ^ 14 ∧ ((p.takeFault f).porter 3).hart.priv ≠ 0 := by
  and_intros <;> first | decide +kernel | exact ⟨_, rfl⟩ | rfl

theorem test_witness_HalvesKeepConfiguration : ∃ u, exec (.add ar) (issue (thread 1 2 3)) = .next u := ⟨_, rfl⟩

theorem test_witness_Guards :
    let s := issue (thread 1 2 3)
    s.guard ar.pn ar.pg = true ∧ s.guard (ai 63).pn (ai 63).pg = true ∧ s.guard (ab 9 1).pn (ab 9 1).pg = true ∧
    (issue { thread 1 2 3 with tsw := 0x80 }).guard false 7 = true ∧ s.guard true 7 = true := by
  and_intros <;> first | decide +kernel | rfl

theorem test_witness_ImmediateResults :
    let s := issue (thread (2 ^ 63) 2 3)
    s.guard false 0 = true ∧ 1 ≤ (ai 1).imm.toNat ∧
    1 ≤ (ai 0x1000).imm.toNat / 64 % 128 ∧ (ai 0x1000).imm.toNat % 64 + (ai 0x1000).imm.toNat / 64 % 128 ≤ 64 ∧
    1 ≤ (ai 0x7F).imm.toNat / 64 % 128 ∧ (ai 0x7F).imm.toNat % 64 + (ai 0x7F).imm.toNat / 64 % 128 ≤ 64 := by
  and_intros <;> first | decide +kernel | rfl

theorem test_witness_DivisionResults :
    let s := issue (thread (2 ^ 63) (-1) 3)
    let z := issue (thread 8 0 3)
    s.guard ar.pn ar.pg = true ∧ s.rg ar.rb ≠ 0 ∧ (s.rg ar.ra).toInt = -2 ^ 63 ∧ (s.rg ar.rb).toInt = -1 ∧ z.rg ar.rb = 0 ∧ z.faultsAtOnce := by
  and_intros <;> first | decide +kernel | rfl | nofun

theorem test_witness_PointerResults :
    let p := fun (fmt blk : Nat) => BitVec.ofNat 64 (fmt * 2 ^ 60 + blk * 2 ^ 57 + 0x1000)
    let s := fun (x n : Word) => issue (thread x n 3)
    let k := fun (n : Word) => s (BitVec.ofNat 64 (2 ^ 60 + (0x1F0 * 2 ^ 48 + (2 ^ 18 - 8)))) n
    (s 0 0).guard ar.pn ar.pg = true ∧ ptrFmt (p 8 0) ≤ 8 ∧
    ptrFmt ((s (p 13 5) (-64)).rg ar.ra) = 13 ∧ ((s (p 13 5) (-64)).rg ar.rb).toInt % 32 = 0 ∧
    ((s (p 13 5) 31).rg ar.rb).toInt % 32 ≠ 0 ∧ (s (p 13 5) 31).faultsAtOnce ∧ ptrFmt ((s (p 15 0) 1).rg ar.ra) = 15 ∧
    fmtBlkOk (ptrFmt (p 8 0)) (ptrBlk (p 8 0)) = true ∧ ptrAddr (p 8 0) < 2 ^ 56 ∧
    fmtBlkOk (ptrFmt (p 8 1)) (ptrBlk (p 8 1)) = false ∧
    fmtBlkOk (ptrFmt ((k 8).rg ar.ra)) (ptrBlk ((k 8).rg ar.ra)) = true ∧ ((k 8).core (k 8).ctx.core).grant = none ∧
    ptrAddr ((k 8).rg ar.ra) = 0x1F0 * 2 ^ 48 + (2 ^ 18 - 8) ∧ 2 ^ 18 - 8 + ((k 8).rg ar.rb).toNat ≤ 2 ^ 18 ∧
    2 ^ 18 < 2 ^ 18 - 8 + ((k 9).rg ar.rb).toNat ∧ (k 9).faultsAtOnce := by
  and_intros <;> first | decide +kernel | rfl | nofun

theorem test_witness_Transfers :
    let s := issue (thread 0x2000 0 1)
    let z := issue (thread 0 0 2)
    let m := issue (thread 0x2008 0 2)
    s.guard (ab 0 1).pn (ab 0 1).pg = true ∧ condHolds (ab 5 1).cc.toNat (s.rg 1) (s.rg 2) = true ∧
    condHolds (ab 0 1).cc.toNat (s.rg 1) (s.rg 2) = false ∧ s.rg (ab 0 1).rd = 1 ∧ z.rg (ab 0 1).rd ≠ 1 ∧
    ptrAddr (s.rg ar.ra) ≠ 0 ∧ (s.rg ar.ra).toNat % 16 = 0 ∧ ptrAddr (m.rg ar.ra) ≠ 0 ∧ (m.rg ar.ra).toNat % 16 ≠ 0 ∧ m.faultsAtOnce ∧
    ptrAddr (z.rg ar.ra) = 0 ∧ z.faultsAtOnce ∧
    (let r := issue { thread 0 0 0 with g := (Vector.replicate 16 0).set 15 0x40 }
     ptrAddr (r.rg 15) ≠ 0 ∧ (r.rg 15).toNat % 16 = 0) := by
  and_intros <;> first | decide +kernel | rfl | nofun

theorem test_witness_TrapAndBreak :
    let s := issue (thread 1 2 3)
    let d := issue (thread 1 2 3) { dbgs := [0] }
    s.guard false 0 = true ∧ s.faultsAtOnce ∧ s.own.dbgs.contains s.ctx.slot = false ∧ d.faultsAtOnce ∧ d.own.dbgs.contains d.ctx.slot = true ∧
    d.issues (thread 1 2 3) := by
  and_intros <;> first | decide +kernel | rfl | nofun

theorem test_witness_SystemRegisters :
    let s := fun (x : Word) => issue (thread x 2 3)
    (s 0).guard false 0 = true ∧ (ai 8).imm.toNat ≤ 8 ∧ (ai 0).imm = 0 ∧ (s 0).ctx.pre.hs.length < 8 ∧
    ((s 0x3FFFFE).rg ar.ra).toNat < 2 ^ 32 ∧ fld ((s 0x3FFFFE).rg ar.ra) 27 3 = 0 ∧ fld ((s 0x3FFFFE).rg ar.ra) 19 4 < 8 ∧
    ¬ (((s 0x400000).rg ar.ra).toNat < 2 ^ 32 ∧ fld ((s 0x400000).rg ar.ra) 27 3 = 0 ∧ fld ((s 0x400000).rg ar.ra) 19 4 < 8) ∧
    ¬ (((s (2 ^ 32)).rg ar.ra).toNat < 2 ^ 32 ∧ fld ((s (2 ^ 32)).rg ar.ra) 27 3 = 0 ∧ fld ((s (2 ^ 32)).rg ar.ra) 19 4 < 8) ∧
    (s 0x400000).faultsAtOnce := by
  and_intros <;> first | decide +kernel | rfl | nofun

/-- A thread whose chunk is open. -/
def chunked (t : Thread) : Thread := { t with chunk := some (chunkOf t) }

theorem test_witness_LocalLoads :
    let s := fun (off : Nat) => issue (chunked (thread (loc off) 2 3))
    let ok := fun (s : State) (off n : Nat) (f : AM) =>
      f.ord = 0 ∧ LocalAt s (s.ea f n) n off false ∧ s.poisoned (localPa 5 off) n = false ∧
        ({ chunkOf (thread (loc off) 2 3) with reads := (linesOf (localPa 5 off) n).foldl insertNat [] } : Chunk).lines.length ≤ 32
    let bad := fun (s : State) (off n : Nat) (f : AM) => ptrAddr (s.ea f n) = 0x1F0 * 2 ^ 48 + off ∧ off % n ≠ 0
    (s 0).guard false 0 = true ∧ ok (s (2 ^ 18 - 1)) (2 ^ 18 - 1) 1 (am 0) ∧ ok (s (2 ^ 18 - 8)) (2 ^ 18 - 8) 8 (am 3) ∧
    ok (s (2 ^ 18 - 64)) (2 ^ 18 - 64) 64 (am 0) ∧ ok (s (2 ^ 18 - 16)) (2 ^ 18 - 16) 16 (am 0) ∧ ok (s (2 ^ 18 - 32)) (2 ^ 18 - 32) 32 (am 0) ∧
    (issue (thread (loc 4) 2 3)).faultsAtOnce ∧ bad (issue (thread (loc 4) 2 3)) 4 8 (am 3) ∧ bad (issue (thread (loc 32) 2 3)) 32 64 (am 0) ∧
    bad (issue (thread (loc 8) 2 3)) 8 16 (am 0) ∧ bad (issue (thread (loc 16) 2 3)) 16 32 (am 0) := by
  and_intros <;> first | decide +kernel | rfl | nofun

theorem test_witness_LocalStores :
    let s := fun (off : Nat) => issue (chunked (thread (loc off) 2 3))
    let step := fun (off : Nat) => issue (thread (loc off) 2 3)
    let ok := fun (s : State) (off n : Nat) (f : AM) => f.ord = 0 ∧ f.sz.toNat ≤ 3 ∧ LocalAt s (s.ea f n) n off true
    (s 0).guard false 0 = true ∧ ok (s (2 ^ 18 - 1)) (2 ^ 18 - 1) 1 (am 0) ∧ ok (s 8) 8 8 (am 3) ∧ ok (s 64) 64 64 (am 0) ∧ ok (s 16) 16 16 (am 0) ∧
    ok (s 32) 32 32 (am 0) ∧ (s 8).cur.chunk = some (chunkOf (thread (loc 8) 2 3)) ∧
    ({ chunkOf (thread (loc 8) 2 3) with writes := (linesOf (localPa 5 8) 8).foldl insertNat [] } : Chunk).lines.length ≤ 32 ∧
    ok (step 8) 8 8 (am 3) ∧ (step 8).cur.chunk = none ∧
    (step 8).soloBlocks 5 (step 8).cur.uid (step 8).cur.csc (linesOf (localPa 5 8) 8) = false := by
  and_intros <;> first | decide +kernel | rfl | nofun

theorem test_witness_ShapeFields :
    let s := issue (thread 7 2 3)
    s.guard false 0 = true ∧ ((ai 0).imm.toNat, 0, 64) ∈ [(0, 0, 64)] ∧ ((ai 11).imm.toNat, 192, 64) ∈ [(11, 192, 64)] ∧
    ((ai 7).imm.toNat, 192, 32) ∈ [(7, 192, 32)] ∧ (ai 11 1).fn.getLsbD 0 = true ∧ (ai 11 1).imm ≠ 0 := by
  and_intros <;> first | decide +kernel | rfl | nofun

theorem test_witness_AtomicsInChunk :
    let t := chunked { thread (loc (2 ^ 18 - 8)) 2 3 with tsw := 8 * 2 ^ 19 }
    let s := issue t
    s.guard false 0 = true ∧ 8 = 2 ^ (am 3).sz.toNat ∧ 4 = 2 ^ (am 2).sz.toNat ∧ (am 3).sc.toNat ≤ s.ctx.pre.csc ∧ s.cur.chunk = t.chunk ∧
    s.cur.acc = none ∧ LocalAt s (s.eaAmo (am 3)) 8 (2 ^ 18 - 8) true ∧ LocalAt s (s.eaAmo (am 2)) 4 (2 ^ 18 - 8) true ∧
    s.poisoned (localPa 5 (2 ^ 18 - 8)) 8 = false ∧
    (({ chunkOf t with reads := (linesOf (localPa 5 (2 ^ 18 - 8)) 8).foldl insertNat [], writes := (linesOf (localPa 5 (2 ^ 18 - 8)) 8).foldl insertNat [] } :
      Chunk).lines.length ≤ 32) := by
  and_intros <;> first | decide +kernel | rfl | nofun

theorem test_witness_FullEmptyWords :
    let s := fun (full : List Nat) => { issue (thread (loc (2 ^ 18 - 8)) 2 3) with full := full }
    let pa := localPa 5 (2 ^ 18 - 8)
    (s []).guard false 0 = true ∧ (am 3).sz = 3 ∧ (s []).cur.chunk = none ∧ (s []).cur.acc = none ∧ (s []).cur.refusals = 0 ∧
    0 < (s []).own.retry ∧ (s []).own.parks = [] ∧
    LocalAt (s []) ((s []).ea (am 3) 8) 8 (2 ^ 18 - 8) true ∧ (s []).fenceClear 5 7 1 = true ∧
    (s []).soloBlocks 5 7 (s []).cur.csc (linesOf pa 8) = false ∧ (s []).isFull pa = false ∧
    LocalAt (s [pa]) ((s [pa]).ea (am 3) 8) 8 (2 ^ 18 - 8) true ∧ (s [pa]).isFull pa = true := by
  and_intros <;> first | decide +kernel | rfl | nofun

theorem test_witness_TagsAndInboxes :
    let s := fun (m : Word) => issue (thread m 2 3) { tags := 1, inbox := [(31, 9)] }
    (s 1).guard false 0 = true ∧ (s 1).cur.chunk = none ∧ (s 1).cur.acc = none ∧ (s 1).own.tags &&& (s 1).rg ar.ra = (s 1).rg ar.ra ∧
    (s 3).own.tags &&& (s 3).rg ar.ra ≠ (s 3).rg ar.ra ∧ (s 3).own.tags &&& (s 3).rg ar.ra ≠ 0 ∧ (s 0).rg ar.ra = 0 ∧
    (s (2 ^ 63)).rg ar.ra ≠ 0 ∧ (s (2 ^ 63)).own.tags &&& (s (2 ^ 63)).rg ar.ra = 0 ∧
    Tab.find (s 1).own.inbox ({ ar with fn := 31 }.fn.toNat % 32) = some 9 ∧ Tab.find (s 1).own.inbox (ar.fn.toNat % 32) = none ∧
    (s 1).own.inbox.Pairwise (fun a b => a.1 < b.1) ∧ ∀ e ∈ (s 1).own.inbox, e.1 < 32 := by
  and_intros <;> first | decide +kernel | rfl | nofun

theorem test_witness_HeldEffects :
    let s := fun (w : Word) => issue (chunked { thread w 2 3 with link := some 9 })
    let z := fun (w : Word) => issue (thread w 2 3)
    let j := chunked { thread (loc (2 ^ 18 - 16)) 2 3 with tsw := 8 * 2 ^ 19 }
    let l := fun (off : Nat) => issue (chunked (thread (loc off) 2 3))
    (s 5).guard false 0 = true ∧ (s 5).cur.chunk ≠ none ∧ (s 5).targetOk 5 25 = true ∧ (s 5).targetOk 5 28 = true ∧ (s 5).rg 1 = 5 ∧
    (s 5).cur.link = some 9 ∧ (z 6).faultsAtOnce ∧ (z 6).targetOk ((z 6).rg 1) 25 = false ∧ (z 6).targetOk ((z 6).rg 1) 28 = false ∧
    (z (2 ^ 25 + 5)).targetOk ((z (2 ^ 25 + 5)).rg 1) 25 = false ∧ (z 6).cur.link = none ∧
    (z 5).cur.chunk = none ∧ (z 5).targetOk ((z 5).rg 1) 25 = true ∧ (z (2 ^ 25 + 5)).targetOk ((z (2 ^ 25 + 5)).rg 1) 28 = true ∧
    (z 5).own.deque.length < 256 ∧ 256 ≤ (issue (thread 5 2 3) { deque := List.replicate 256 {} }).own.deque.length ∧
    (issue { thread 5 2 3 with link := some 9 }).cur.link = some 9 ∧ (issue { thread 5 2 3 with link := some 9 }).cur.chunk = none ∧
    (issue j).issues j ∧ j.chunk = some (chunkOf j) ∧ j.acc = none ∧ 7 ≤ (issue j).ctx.pre.csc ∧
    LocalAt (issue j) ((issue j).rg 1) 16 (2 ^ 18 - 16) true ∧ (issue j).poisoned (localPa 5 (2 ^ 18 - 16)) 16 = false ∧
    (({ chunkOf j with reads := (linesOf (localPa 5 (2 ^ 18 - 16)) 16).foldl insertNat [], writes := (linesOf (localPa 5 (2 ^ 18 - 16)) 16).foldl insertNat [] } :
      Chunk).lines.length ≤ 32) ∧
    (let q := issue { thread (loc 0) 2 3 with tsw := 6 * 2 ^ 19 }
     q.cur.chunk = none ∧ q.cur.acc = none ∧ q.ctx.pre.csc < 7 ∧ LocalAt q (q.rg 1) 16 0 true ∧ q.poisoned (localPa 5 0) 16 = false ∧
     q.fenceClear 5 7 7 = true ∧ q.soloBlocks 5 7 q.ctx.pre.csc (linesOf (localPa 5 0) 16) = false ∧
     q.soloBlocks 5 7 q.cur.csc (linesOf (localPa 5 0) 16) = false ∧ ptrAddr (q.rg 1) = 0x1F0 * 2 ^ 48 + 0) ∧
    ptrAddr ((l (2 ^ 18 - 192)).rg 1) = 0x1F0 * 2 ^ 48 + (2 ^ 18 - 192) ∧ 2 ^ 18 - 192 + 192 ≤ 2 ^ 18 ∧ (2 ^ 18 - 192) % 64 = 0 ∧
    (l 0).ctx.core < 16384 ∧ (l 0).cur.chunk ≠ none ∧ ptrAddr ((z (loc 32)).rg 1) = 0x1F0 * 2 ^ 48 + 32 ∧ (z (loc 32)).faultsAtOnce := by
  and_intros <;> first | decide +kernel | rfl | nofun

theorem test_witness_FencesAndModes :
    let s := issue (thread 1 2 3)
    let w : Msg := { id := 90, src := 5, dst := 9, org := { core := 5, slot := 0, uid := 7 }, body := .post 1 2 0x7C 9 }
    let q := { s with net := [w] }
    let e : Tlb := { ten := 3, asid := 0, global := true, vpn := 0, shift := 21, leaf := 21, pa := 0, wr := true, ex := true, rd := true, attr := some 0x1400 }
    let p := issue (thread 0x40 2 3) { tlb := [e] }
    let f := { am 0 with sc := 9 }
    s.guard false 0 = true ∧ s.cur.chunk = none ∧ s.fenceClear 5 7 f.sc.toNat = true ∧ q.fenceClear 5 7 f.sc.toNat = false ∧
    (ai 0).imm.toNat / 32 % 2048 = 0 ∧ (ai 0).imm.toNat / 16 % 2 = 0 ∧ (ai 0xFFF8).imm.toNat / 16 % 2 = 1 ∧ (ai 0xFFF8).imm.toNat / 32 % 2048 ≠ 0 ∧
    (let far := issue (thread 0x40 2 3) { tlb := [{ e with pa := Config.dieBytes }] }
     let va := ptrAddr (p.ea f 1)
     va < 2 ^ 56 ∧ p.translate (p.firstSlice 5 va) 3 va .read = .pa 0x40 ∧ isDevice 0x40 = true ∧
     p.homeOf (p.fat (0x40 / Config.dieBytes) (0x40 % Config.dieBytes / Config.frameBytes)) 0x40 = some 0 ∧
     0x40 / Config.dieBytes = p.firstSlice 5 va / 4096 ∧ f.hint ≠ 1 ∧ f.hint ≠ 2 ∧
     far.translate (far.firstSlice 5 va) 3 va .read = .pa (Config.dieBytes + 0x40) ∧
     far.homeOf (far.fat 1 0) (Config.dieBytes + 0x40) = some 4096 ∧ (Config.dieBytes + 0x40) / Config.dieBytes ≠ far.firstSlice 5 va / 4096 ∧
     far.bankLine (far.firstSlice 5 va) ((Config.dieBytes + 0x40) / 64) = none ∧ 2 ^ 56 ≤ ptrAddr ((issue (thread (loc 0) 2 3)).ea f 1) ∧
     s.translate (s.firstSlice 5 1) 3 1 .read = .walk ∧ s.walkDone (s.firstSlice 5 1) 3 1 .read = .error none) ∧
    (let g : State := { gangsNext := [(8, false), (9, true)] }
     g.gangsNext.Pairwise (fun a b => a.1 < b.1) ∧ Tab.find g.gangsNext 9 = some true ∧ gangOf 9 = gangOf 8 ∧ (∀ y ∈ g.gangsNext, y.1 ≤ 9) ∧
     (∀ y ∈ g.gangsNext, gangOf y.1 ≠ gangOf 5) ∧
     (g.cycle + 1) % 1024 ≠ 0 ∧ (∀ y ∈ g.stops, y.2.busy = false) ∧ ∀ y ∈ g.cores, y.2.cmds = []) := by
  and_intros <;> first | decide +kernel | rfl | nofun

/-- A bundle in issue on core 5 whose barrier 47 is as given and is named in g1. -/
def barred (b : Barrier) (g1 : Word) (g2 : Word := 0) : State := issue (thread g1 g2 3) { bars := [(47, b)] }

theorem test_witness_BarrierResults :
    let f := ai (47 + 64 * 65535)
    let w : Word := BitVec.ofNat 64 (47 * 2 ^ 20 + 5)
    let x : Barrier := { seq := 65535, cnt := 2 }
    let s := barred x w
    let last := { barred { x with arr := 1 } w with threads := [(80, thread w 0 3), (81, { thread 1 2 3 with st := .waiting (.bar 47 65535) false })] }
    let own := fun (s : State) => (s.rg ar.ra).toNat % 2 ^ 14 = 5 ∧ (s.rg ar.ra).toNat / 2 ^ 14 % 64 = s.modid ∧ (s.rg ar.ra).toNat / 2 ^ 20 < 48 ∧
      s.mayName 5 = true
    s.guard false 0 = true ∧ s.cur.chunk = none ∧ s.cur.acc = none ∧ f.imm.toNat % 64 = 47 ∧ (s.bar 5 47).arr = 0 ∧ (s.bar 5 47).pend = false ∧
    ((barred { x with arr := 1 } w).bar 5 47).arr ≠ 0 ∧ ((barred { x with pend := true } w).bar 5 47).pend = true ∧
    (barred { x with pend := true } w).faultsAtOnce ∧ own s ∧ s.cur.refusals = 0 ∧ 0 < s.own.retry ∧ s.fenceClear 5 7 1 = true ∧
    (s.bar 5 47).arr + 1 < (s.bar 5 47).cnt ∧ own last ∧ (last.bar 5 47).pend = false ∧ (last.bar 5 47).arr + 1 = (last.bar 5 47).cnt ∧
    (last.bar 5 47).uv = false ∧ (last.bar 5 47).childs = [] ∧
    last.thr 5 1 = some { thread 1 2 3 with st := .waiting (.bar 47 65535) false } ∧ 65535 ≠ ((last.bar 5 47).seq + 1) % 65536 ∧
    (let q := barred x 47 65535
     let n := barred x 47 0
     q.rg ar.ra = BitVec.ofNat 64 47 ∧ q.rg ar.rb = BitVec.ofNat 64 65535 ∧ (q.bar 5 47).seq = 65535 ∧ n.rg ar.rb = BitVec.ofNat 64 0 ∧
     (n.bar 5 47).seq ≠ 0) ∧
    (let l := barred x 47 (BitVec.ofNat 64 (2 ^ 20 + 46 * 2 ^ 14 + 5))
     (l.rg ar.rb).toNat < 2 ^ 21 ∧ (l.rg ar.rb).toNat / 2 ^ 14 % 64 < 48 ∧ l.mayName ((l.rg ar.rb).toNat % 2 ^ 14) = true ∧
     ¬ ((l.rg ar.rb).toNat % 2 ^ 14 = 5 ∧ (l.rg ar.rb).toNat / 2 ^ 14 % 64 = 47) ∧ (l.bar 5 47).arr = 0 ∧ (l.bar 5 47).pend = false) := by
  and_intros <;> first | decide +kernel | rfl | nofun

theorem test_witness_ThreadsLeave :
    let t := { thread 0 2 3 with link := some (9 * 2 ^ 20 + 5) }
    let m := thread 5 (BitVec.ofNat 64 (16384 * 2 ^ 18 + (2 ^ 18 - 16384))) 3
    let s := issue m { grant := some { launch := 1, lid := 0, ten := 3, lmem := 2 ^ 18, acc := 0 } }
    let n := issue (thread 5 (BitVec.ofNat 64 (8 * 2 ^ 18)) 3) { grant := some { launch := 1, lid := 0, ten := 3, lmem := 8, acc := 0 } }
    (issue t).guard false 0 = true ∧ (issue t).issues t ∧ t.chunk = none ∧ (issue t).launchOf t.bind = none ∧ t.link = some (9 * 2 ^ 20 + 5) ∧
    ptrAddr ((issue t).rg ar.ra) = 0 ∧ ptrAddr ((issue t).rg 15) = 0 ∧
    s.issues m ∧ m.chunk = none ∧ m.hs = [] ∧ m.link = none ∧ s.targetOk (s.rg ar.ra) 20 = true ∧ twMod (s.rg ar.ra) = s.modid ∧
    s.fenceClear 5 7 (scopeBetween 5 (twCore (s.rg ar.ra))) = true ∧ s.own.port.length < 16 ∧
    (s.rg ar.rb).toNat / 2 ^ 18 = 16384 ∧ (s.rg ar.rb).toNat % 2 ^ 18 + 16384 ≤ 2 ^ 18 ∧ (s.rg ar.rb).toNat % 2 ^ 18 % 8 = 0 ∧
    (n.rg ar.rb).toNat / 2 ^ 18 = 8 ∧ (n.rg ar.rb).toNat % 2 ^ 18 + 8 ≤ 8 := by
  and_intros <;> first | decide +kernel | rfl | nofun

/-- A bundle in issue on core 5 with a heap of capacity 8 and these entries at the end of the local memory. -/
def heaped (l : List Word) (g2 : Word) (seq : Nat := 0) : State :=
  { issue (thread (loc (2 ^ 18 - 72)) g2 3) { grant := some { launch := 1, lid := 0, ten := 3, lmem := 2 ^ 18, acc := 0 } } with
    mem := Mem.writeN [] (localPa 5 (2 ^ 18 - 72)) (bytesOfNat 8 (8 + 256 * l.length + seq * 2 ^ 32) ++ l.flatMap fun w => bytesOfNat 8 w.toNat) }

theorem test_witness_HeapSift :
    let l := [0x000000013F800000, 0x0000000240000000, 0x0000000340400000]
    let s := heaped l 0x000000047FC00000
    let full := List.replicate 8 0x0000000140000000
    1 ≤ 3 ∧ l.length ≤ 3 ∧ l.length < 8 ∧ full.length = 8 ∧ bidWorse 0x0000000140000000 0x0000000540400000 = true ∧
    bidWorse 0x0000000140000000 0x000000053F800000 = false ∧
    (∀ i < 3, 0 < i → bidWorse (l.getD i 0) (l.getD ((i - 1) / 2) 0) = false) ∧
    s.guard false 0 = true ∧ HeapAt s (s.rg ar.ra) (2 ^ 18 - 72) 8 3 ∧ (offerBid 8 (heapEntries s (2 ^ 18 - 72) 3) 0x00000004FF800000).2 = true ∧
    s.soloBlocks 5 7 s.cur.csc (linesOf (localPa 5 (2 ^ 18 - 72)) 72) = false ∧
    HeapAt (heaped full 0x00000005FF800000) ((heaped full 0x00000005FF800000).rg ar.ra) (2 ^ 18 - 72) 8 8 ∧
    (offerBid 8 (heapEntries (heaped full 0x00000005FF800000) (2 ^ 18 - 72) 8) 0x00000005FF800000).2 = false := by
  and_intros <;> first | decide +kernel | rfl | nofun

theorem test_witness_RoutingInstructions :
    let l := [0x000000013F800000, 0x0000000240000000]
    let s := heaped l (BitVec.ofNat 64 (8 * 2 ^ 18)) 0x1003
    let h := { s with ctx := { s.ctx with pre := thread (BitVec.ofNat 64 (0x1003 * 2 ^ 32 + 12288)) (BitVec.ofNat 64 (16384 * 2 ^ 18)) 3 },
                      threads := [(80, thread (BitVec.ofNat 64 (0x1003 * 2 ^ 32 + 12288)) (BitVec.ofNat 64 (16384 * 2 ^ 18)) 3)],
                      cores := s.cores ++ [(12288, ({ part := 0x43 } : Core))] }
    let t := thread (loc (2 ^ 18 - 72)) (BitVec.ofNat 64 (8 * 2 ^ 18)) 3
    let r := fun (x n : Word) (a : Option Outst) => issue { thread x n 3 with acc := a }
    s.guard false 0 = true ∧ s.issues t ∧ t.chunk = none ∧ t.hs = [] ∧ t.link = none ∧ basketFits (s.rg ar.rb) s.grantedLmem ∧
    s.fenceClear 5 7 9 = true ∧ s.own.port.length < 16 ∧ HeapAt s (s.rg ar.ra) (2 ^ 18 - 72) 8 2 ∧
    basketFits (h.rg ar.rb) h.grantedLmem ∧ (h.rg ar.ra).toNat / 2 ^ 14 % 4 = 0 ∧ (h.rg ar.ra).toNat / 2 ^ 28 % 16 = 0 ∧
    h.targetOk (BitVec.ofNat 64 ((h.rg ar.ra).toNat % 2 ^ 14 + 2 ^ 14 * t.away.getD h.modid)) 20 = true ∧
    ((r 0xFFFFFFFF 1 none).rg ar.ra).toNat < 2 ^ 32 ∧ 1 ≤ ((r 0 1 none).rg ar.rb).toNat ∧ ((r 0 65535 none).rg ar.rb).toNat ≤ 65535 ∧
    (r 0 1 none).cur.acc = none ∧ (r 0 1 (some { id := 9, addr := 0, since := 0, ans := .data 1 })).cur.acc = some { id := 9, addr := 0, since := 0, ans := .data 1 } ∧
    ¬ ((r (2 ^ 32) 1 none).rg ar.ra).toNat < 2 ^ 32 ∧ ((r 0 0 none).rg ar.rb).toNat = 0 ∧ 65535 < ((r 0 65536 none).rg ar.rb).toNat ∧
    (r 0 65536 none).faultsAtOnce ∧ (r (2 ^ 32) 1 none).faultsAtOnce := by
  and_intros <;> first | decide +kernel | rfl | nofun

/-- Tenant 3 with a handle table of 2 entries at 0x200000, whose entry 1 holds these words, in a frame homed on core 5. -/
def handled (w0 w1 : Nat) (s : State) : State :=
  { s with
    hub := { s.hub with tenants := [(48, 0x200000), (49, 2)] }
    mem := Mem.writeN (Mem.writeN [] 0x200020 (bytesOfNat 8 w0 ++ bytesOfNat 8 w1)) (fatAddr 0 1) (bytesOfNat 8 (2 ^ 34 + 3 * 2 ^ 27 + 5 * 2 ^ 10)) }

theorem test_witness_HandleInstructions :
    let e : HEntry := { handle := 1, ret := 0x40 }
    let a : Outst := { id := 9, addr := 0, since := 0, ans := .data 0x4000 }
    let t := { thread 0xFF000001 2 3 with acc := some a, hs := [e] }
    let o := { thread 0xFF000001 2 3 with foldAns := some (.ok 0x01000002) }
    let z := { thread 1 2 3 with hs := List.replicate 4 e }
    let s := handled 0x4000 (255 * 2 ^ 32 + 2 ^ 10 + 1) (issue t)
    s.guard false 0 = true ∧ s.issues t ∧ t.chunk = none ∧ t.foldAns = none ∧ t.acc = some a ∧ a.ans = .data 0x4000 ∧ (issue o).issues o ∧
    o.chunk = none ∧ o.foldAns = some (.ok 0x01000002) ∧ t.hs.length < 4 ∧ 0x4000 % 16 = 0 ∧ t.hs = [] ++ [e] ∧ ptrAddr e.ret ≠ 0 ∧
    (issue z).issues z ∧ 4 ≤ z.hs.length ∧ (issue z).faultsAtOnce ∧ (thread 1 2 3).hs = [] ∧ (issue (thread 1 2 3)).faultsAtOnce ∧
    s.entryAddr (bindTen t.bind) (BitVec.ofNat 64 ((s.rg ar.ra).toNat % 2 ^ 32)) = some 0x200020 ∧ fld ar.fn 0 2 = 0 ∧
    fld { ar with fn := 3 }.fn 0 2 = 3 ∧ s.handleValid (bindTen t.bind) (BitVec.ofNat 64 ((s.rg ar.ra).toNat % 2 ^ 32)) = some 0x200020 ∧
    fld (s.mem64 0x200028) 10 2 ≠ 0 ∧ (s.mem64 0x200028).getLsbD 4 = false ∧ (s.mem64 0x200028).getLsbD 9 = false := by
  and_intros <;> first | decide +kernel | rfl | nofun

theorem test_witness_ThreadsLeaveWithHandles :
    let e : HEntry := { handle := 1, ret := 0x40 }
    let a : Outst := { id := 9, addr := 0, since := 0, ans := .data 0 }
    let t := { thread 0 2 3 with hs := [e, { e with ret := 0x80 }] }
    let w := { t with acc := some a }
    let s := handled 0x4000 (2 ^ 10 + 1) (issue t)
    s.guard false 0 = true ∧ s.issues t ∧ t.chunk = none ∧ t.hs = [e] ++ [{ e with ret := 0x80 }] ∧ t.link = none ∧ t.acc = none ∧
    s.fenceClear 5 7 7 = true ∧ s.entryAddr (bindTen t.bind) e.handle ≠ none ∧ ptrAddr (s.rg ar.ra) = 0 ∧ ptrAddr (s.rg 15) = 0 ∧
    (issue w).issues w ∧ w.acc = some a ∧ a.ans = .data 0 ∧ w.hs = [e] ++ [{ e with ret := 0x80 }] := by
  and_intros <;> first | decide +kernel | rfl | nofun

/-- Tenant 3 with one shelf slot per cluster and 4 adapters, and a state of the slot on cluster 0. -/
def shelved (x : ShelfSlot) (s : State) : State :=
  { s with
    clusters := [(0, { shelf := [(shelfKey 3 0, x)] })]
    hub := { s.hub with tenants := [(54, BitVec.ofNat 64 (4 + 64 * 2 ^ 16)), (55, BitVec.ofNat 64 (1 + 4096 * 2 ^ 8))] } }

theorem test_witness_Adapters :
    let x : ShelfSlot := { adapter := some 3, pins := 1, full := true }
    let s := fun (id : Word) => { shelved x (issue (thread id 2 3)) with full := [(shelved x {}).statusWord 0 3 0] }
    let old : Cmd := { id := 30, org := {}, instr := .shelfFill 0, eng := .copy, gs := BitVec.ofNat 64 (shelfKey 3 0), done := true }
    let f := shelved { adapter := some 3, filling := true, pins := 1 } {}
    let fill := { old with pa := (f.fillCmd 0 (shelfKey 3 0)).pa }
    let th := { thread 3 2 3 with acc := some { id := 9, addr := 0, since := 0, ans := .none } }
    let p : Park := { org := { core := 0, slot := 2, uid := 7 }, acc := 9, opc := 0xA6, word := f.statusWord 0 3 0, data := 0 }
    let d := fun (l : List Park) => { f with cores := [(0, { cmds := [fill], parks := l })], threads := [(2, th)] }
    (s 3).guard false 0 = true ∧ (s 3).cur.chunk = none ∧ (s 3).cur.acc = none ∧ (s 3).cur.refusals = 0 ∧ ((s 3).rg ar.ra).toNat < 16384 ∧
    ((s 3).rg ar.ra).toNat < fld ((s 3).tenantWord 3 6) 0 15 ∧ (s 3).slotOf 0 3 3 = some 0 ∧ (s 3).isFull ((s 3).statusWord 0 3 0) = true ∧
    0 < ((s 3).shelf 0 3 0).pins ∧ ¬ (((s 4).rg ar.ra).toNat < 16384 ∧ ((s 4).rg ar.ra).toNat < fld ((s 4).tenantWord 3 6) 0 15) ∧
    (s 4).faultsAtOnce ∧ f.fills 0 = [] ∧ f.owedFill 0 = some (shelfKey 3 0) ∧ f.queueFull 0 2 0 = false ∧ f.coreFrozen 0 = false ∧
    ((d []).fills 0).find? (fun y => y.done) = some fill ∧ ((d []).core 0).parks = [] ∧ ((d [p]).core 0).parks = [p] ∧
    (∀ l, fill.pa = ((d l).fillCmd 0 fill.gs.toNat).pa) ∧
    (let z := { d [] with cores := [(0, { cmds := [old] })] }
     (z.fills 0).find? (fun y => y.done) = some old ∧ old.pa ≠ (z.fillCmd 0 old.gs.toNat).pa) ∧
    p.word = (d [p]).statusWord 0 (fill.gs.toNat / 256) (fill.gs.toNat % 256) ∧ (d [p]).bound p.org = some th := by
  and_intros <;> first | decide +kernel | (intro l; rfl) | rfl | nofun

/-- A shape record: its base pointer, two extents, the stride of dimension 1, and the bits from 224 up. -/
def shape (base : Word) (fmt e0 e1 s1 : Nat) (top : Nat := 0) (blk : Nat := 0) : Shape :=
  BitVec.ofNat 256 (base.toNat + blk * 2 ^ 57 + fmt * 2 ^ 60 + e0 * 2 ^ 64 + e1 * 2 ^ 80 + 2 ^ 96 + 2 ^ 112 + s1 * 2 ^ 128 + top * 2 ^ 224)

/-- The own accumulator store at an offset, as a pointer. -/
def acc (off : Nat) : Word := BitVec.ofNat 64 (0x1F1 * 2 ^ 48 + off)

/-- A bundle in issue whose h0, h1 and h2 are as given; g1 is as given. -/
def shaped (d a b : Shape) (g1 : Word := 0) : State :=
  issue { thread g1 2 3 with h := (((Vector.replicate 16 0).set 0 d).set 1 a).set 2 b }

theorem test_witness_IntegerLanes :
    let f := vf 1 2 3 3
    1 ≤ f.ty.toNat ∧ f.ty.toNat ≤ 3 ∧ f.dcl ≠ 3 ∧ 2 ^ 32 - 1 < 2 ^ (4 * 2 ^ f.ty.toNat) ∧ (vf 1 2 3 1).ty.toNat = 1 ∧ f.dcl = 0 ∧ f.fn = 0 ∧
    (-4 : Int) ≤ -4 ∧ (-4 : Int) < 0 ∧ (3 : Int) < 4 ∧ (24 : Int) = 2 ^ (-(-4 : Int)).toNat + 8 ∧
    (∃ e, e = ((2 : Int) * 2 ^ 4 - 24).natAbs ∧ 2 * (e : Int) = 2 ^ 4) := by
  and_intros <;> first | decide +kernel | rfl | exact ⟨_, rfl, rfl⟩

theorem test_witness_FloatLanes :
    let f := vf 1 2 3 8
    6 ≤ f.ty.toNat ∧ f.ty.toNat ≤ 8 ∧ 0x7F800001 < 2 ^ 32 ∧ 2 ^ 31 - 2 ^ 23 < 0x7F800001 % 2 ^ 31 ∧ ¬ 2 ^ 31 - 2 ^ 23 < 0xFF800000 % 2 ^ 31 ∧
    0x80000000 % 2 ^ 31 = 0 ∧ (vf 1 2 3 6).ty.toNat = 6 ∧ f.dsc = 0 ∧ f.dcl = 0 ∧ f.na = false ∧ f.xa = false ∧
    1 ≤ { vf 1 2 0 1 with gs := 3 }.gs.toNat ∧ { vf 1 2 0 6 with gs := 8 }.gs.toNat = 8 ∧ 0x7F800000 < 0xFF800001 % 2 ^ 31 ∧
    { vf 1 2 0 8 with gs := 6 }.gs.toNat = 6 ∧ 0xFF80 % 2 ^ 15 ≤ 0x7F80 := by
  and_intros <;> first | decide +kernel | rfl

theorem test_witness_VectorRegisterForm :
    let s := issue { thread 1 2 3 with tsw := BitVec.ofNat 64 (4 * 2 ^ 16) }
    let z := issue { thread 1 2 3 with tsw := BitVec.ofNat 64 (5 * 2 ^ 16) }
    let f := { vf 15 2 3 8 with rm := 5 }
    s.guard f.pn f.pg = true ∧ ownVectors f ∧ 1 ≤ f.ty.toNat ∧ f.ty.toNat ≤ 8 ∧ s.rounds f ∧ ¬ z.rounds f ∧ z.faultsAtOnce ∧
    ¬ s.rounds { f with rm := 6 } ∧ s.rounds { f with rm := 4 } := by
  and_intros <;> first | decide +kernel | rfl | (unfold State.rounds; decide +kernel) | nofun

theorem test_witness_LanesAndRows :
    let s := issue (thread 1 2 3)
    let f := { vf 1 2 31 1 with fn := 1, gs := 3 }
    let n := { vf 1 2 31 1 with gs := 3 }
    s.guard f.pn f.pg = true ∧ f.ga = 0 ∧ f.gb = 0 ∧ f.vd.toNat < 16 ∧ f.va.toNat < 16 ∧ 1 ≤ f.ty.toNat ∧ f.ty.toNat ≤ 8 ∧
    f.vb.toNat + 32 < 64 / elemBytes f.ty.toNat ∧ f.fn.getLsbD 0 = true ∧ f.fn.toNat < 2 ∧ n.vb.toNat < 64 / elemBytes n.ty.toNat ∧
    (vf 1 2 15 1).vb.toNat < 16 ∧ 1 ≤ n.gs.toNat ∧ n.gs.toNat ≤ 8 ∧ s.rounds n ∧ ownVectors (vf 1 2 3 8) ∧ s.rounds (vf 1 2 3 8) := by
  and_intros <;> first | decide +kernel | rfl | (unfold State.rounds; decide +kernel)

theorem test_witness_GangOffsets :
    let f := { vf 1 2 3 8 with ga := 1 }
    let v := Vector.replicate 16 (5 : VReg)
    let s := { issue (thread 1 2 3) with gangs := [1], gangV := [(slotKey 6 0, v)] }
    s.guard f.pn f.pg = true ∧ f.ga ≠ 0 ∧ f.gb = 0 ∧ f.va.toNat < 16 ∧ 1 ≤ f.ty.toNat ∧ f.ty.toNat ≤ 8 ∧ gangOf s.ctx.core ∈ s.gangs ∧
    Tab.find s.gangV (slotKey (5 / 4 * 4 + (5 % 4 + f.ga.toNat) % 4) 0) = some v ∧ 3 < 64 / elemBytes f.ty.toNat ∧ f.fn.toNat < 2 ∧
    Tab.find { s with gangV := [] }.gangV (slotKey (5 / 4 * 4 + (5 % 4 + f.ga.toNat) % 4) 0) = none ∧
    ¬ gangOf 5 ∈ (issue (thread 1 2 3)).gangs ∧ (issue (thread 1 2 3)).faultsAtOnce := by
  and_intros <;> first | decide +kernel | rfl | nofun

/-- A region that passes its checks, with its footprint. -/
def passes (s : State) (h : Shape) (wr counted : Bool) : Bool :=
  match s.region h wr counted false with
  | .ok r => r.foot.isSome
  | .error _ => false

theorem test_witness_VectorCommands :
    let row := shape (loc 0) 8 16 2 64
    let d := shape (loc 0) 8 1 2 64
    let i := shape (loc 4096) 3 16 2 64
    let s := shaped row row i
    let f := { vf 16 17 18 8 with tag := 9 }
    let u32 := shape (loc 8192) 3 16 1 0
    let n := { vf 16 17 18 8 with gs := 8 }
    s.guard f.pn f.pg = true ∧ f.ga = 0 ∧ f.gb = 0 ∧ s.rounds f ∧ s.queueFree .vector ∧ 16 ≤ f.vd.toNat ∧ 1 ≤ f.ty.toNat ∧ f.ty.toNat ≤ 8 ∧
    s.rh 0 = row ∧ (shaped row row row).rh 2 = row ∧ shKind row = 0 ∧ shFmt row = 8 ∧ passes s row true false = true ∧ passes s row false false = true ∧ passes s i false false = true ∧
    shFmt i = 3 ∧ shE i 0 = shE row 0 ∧ shE i 1 = shE row 1 ∧ f.fn = 0 ∧ 1 ≤ n.gs.toNat ∧ n.gs.toNat ≤ 8 ∧ shFmt row = n.gs.toNat ∧
    passes (shaped d row 0) d true false = true ∧ shE d 0 = 1 ∧ shE row 1 = shE d 1 ∧ shFmt (shape (loc 0) 3 1 2 64) = 3 ∧
    passes (shaped u32 row 0) u32 true true = true ∧ shCount row ≤ 2 ^ 31 ∧ shE u32 1 = 1 ∧ shE u32 2 = 1 ∧ shE u32 3 = 1 ∧
    (let m := shape (loc 8192) 1 1 2 1
     shE row 2 = 1 ∧ shE row 3 = 1 ∧ shE m 0 = 1 ∧ shE m 1 = shE row 1 ∧ shE m 2 = 1 ∧ shE m 3 = 1 ∧ passes (shaped row row m) m false false = true ∧
     passes (shaped row row m) row true true = true) := by
  and_intros <;> first | decide +kernel | rfl | (unfold State.rounds; decide +kernel)

theorem test_witness_CommandChecks :
    let s := shaped 0 0 0
    let h := shape (loc (2 ^ 18 - 64)) 8 16 1 0
    let wide := shape (loc (2 ^ 18 - 60)) 8 16 1 0
    let under := shape (loc 0) 8 1 2 (2 ^ 32 - 4)
    let ac := shape (acc (2 ^ 17 - 16)) 3 4 1 0 (1 + 16)
    let a := shape (loc 0) 1 8 1 0
    let b := shape (loc 64) 1 8 4 8
    let far := shape 0x1000 1 8 1 0
    ptrAddr (shBase h) = 0x1F0 * 2 ^ 48 + (2 ^ 18 - 64) ∧ (s.core s.ctx.core).grant = none ∧ 1 ≤ shFmt h ∧ shFmt h ≤ 8 ∧
    shBlk h = 0 ∧ shKind h = 0 ∧ h.toNat / 2 ^ 240 = 0 ∧ h.toNat / 2 ^ 226 % 4 = 0 ∧ h.toNat / 2 ^ 230 % 2 ^ 10 = 0 ∧
    shE h 0 * shE h 1 * shE h 2 * shE h 3 ≠ 0 ∧ shE (shape 0 8 0 1 0) 0 = 0 ∧ (2 ^ 18 - 60) + 16 * 4 - 1 ≥ 2 ^ 18 ∧ shE wide 0 = 16 ∧
    shKind (shape (loc 0) 8 1 1 0 3) ≠ 0 ∧ ((shE under 1 : Int) - 1) * shS under 1 = -4 ∧
    (∃ r, s.accRegion 5 (bindTen s.cur.bind) ac true = .ok r ∧ accRule 5 ac r false = .ok (2 ^ 17 - 16)) ∧ shFmt a = 1 ∧ shKind a = 0 ∧
    s.region a false false false = .ok { sp := .loc 5 0, foot := some { space := 1, core := 5, lo := 0, hi := 7, wr := false } } ∧
    s.region b false false false = .ok { sp := .loc 5 64, foot := some { space := 1, core := 5, lo := 64, hi := 95, wr := false } } ∧
    shE ac 1 = shE a 1 ∧ shE ac 0 = shE b 1 ∧ shE a 0 = shE b 0 ∧ shE a 2 = 1 ∧ shE a 3 = 1 ∧ shE b 2 = 1 ∧ shE b 3 = 1 ∧
    shE (shape (loc 0) 1 4 1 0) 0 ≠ shE b 0 ∧ shFmt (shape (loc 0) 8 8 1 0) = 8 ∧
    (∃ r, s.region far false false false = .ok r ∧ r.sp = .virt 0x1000) ∧
    ptrAddr (shBase ac) = 0x1F1 * 2 ^ 48 + (2 ^ 17 - 16) ∧ shKind ac = 1 ∧ ac.toNat / 2 ^ 228 % 4 = 1 ∧ shFmt ac = 3 ∧ (2 ^ 17 - 16) % 4 = 0 ∧
    shS ac 1 % 4 = 0 ∧ ptrAddr (shBase (shape (acc 2) 3 4 1 0 17)) = 0x1F1 * 2 ^ 48 + 2 ∧ 2 % 4 ≠ 0 ∧
    ptrAddr (shBase (shape (loc 0) 3 4 1 0 17)) = 0x1F0 * 2 ^ 48 + 0 ∧ shE (shape (acc 0) 3 0 1 0 17) 0 = 0 ∧
    2 ^ 17 ≤ 2 ^ 17 - 16 + shE (shape (acc (2 ^ 17 - 16)) 3 5 1 0 17) 0 * 4 - 1 := by
  and_intros <;> first | decide +kernel | rfl | exact ⟨_, rfl, rfl⟩ | exact ⟨_, rfl⟩

theorem test_witness_MatrixMultiplies :
    let ac := shape (acc 0) 3 4 1 0 17
    let a := shape (loc 0) 1 8 1 0
    let b := shape (loc 64) 1 8 4 8
    let p := shape (loc (2 ^ 18 - 4112)) 0 0 0 0
    let s := shaped ac a b (shBase p)
    let f := { vf 16 17 18 0 with tag := 9, gs := 1 }
    let l := { vf 16 17 1 0 with tag := 9, gs := 1, fn := 2 }
    let r := shaped ac a b (BitVec.ofNat 64 (0xABC * 2 ^ 16 + 5))
    s.guard f.pn f.pg = true ∧ s.queueFree .matrix ∧ 16 ≤ f.vd.toNat ∧ 16 ≤ f.va.toNat ∧ 16 ≤ f.vb.toNat ∧ l.fn.getLsbD 1 = true ∧ l.vb.toNat < 2 ∧
    f.fn.getLsbD 1 = false ∧ (∃ r, s.mmaCheck ac a b none f.u false = .ok r) ∧
    (∃ r, s.mmaCheck ac a 0 (some 1) l.u false = .ok r) ∧
    s.mmaCheck a a b none f.u false = .error 0x01 ∧ (shaped a a b).faultsAtOnce ∧
    (r.rg f.gs).toNat / 2 ^ 48 = 0 ∧ (r.rg f.gs).toNat / 2 ^ 14 % 4 = 0 ∧ r.mayName ((r.rg f.gs).toNat % 2 ^ 14) = true ∧
    (∃ x q, r.mmaRegions 5 (bindTen r.cur.bind) ac a b true false = .ok x ∧ mmaRules 5 ac a b x none f.u true = .ok q) ∧ (shaped ac a b 6).mayName 6 = false ∧
    (∃ x, (shaped ac a b 6).mmaRegions 5 (bindTen r.cur.bind) ac a b true false = .ok x) ∧ (shaped ac a b 6).faultsAtOnce ∧
    (∃ q, s.mmaCheck ac a b none f.u true = .ok q) ∧ ptrAddr (s.rg f.gs) = 0x1F0 * 2 ^ 48 + (2 ^ 18 - 4112) ∧
    (2 ^ 18 - 4112) % 16 = 0 ∧ ptrAddr ((shaped ac a b (loc 8)).rg f.gs) = 0x1F0 * 2 ^ 48 + 8 ∧ 8 % 16 ≠ 0 := by
  and_intros <;> first | decide +kernel | rfl | exact ⟨_, rfl⟩ | exact ⟨_, _, rfl, rfl⟩ | nofun

/-- A region that passes the checks of cpdur. -/
def passesDur (s : State) (h : Shape) (wr : Bool) : Bool :=
  match s.region h wr false true with
  | .ok r => r.foot.isSome
  | .error _ => false

theorem test_witness_EngineCommands :
    let ac := shape (acc 0) 3 4 2 16 17
    let d := shape (loc 4096) 3 4 2 16
    let row := shape (loc 8192) 3 4 1 0
    let a := shape (loc 0) 1 8 2 8
    let b := shape (loc 64) 1 8 4 8
    let s := shaped d ac row (loc (2 ^ 18 - 8))
    let m := shaped ac a b (loc (2 ^ 18 - 8))
    let f := { vf 16 17 18 0 with tag := 9, gs := 1 }
    let big := shape (loc 0) 1 256 25 256
    (m.guard f.pn f.pg = true ∧ m.queueFree .matrix ∧ 16 ≤ f.vd.toNat ∧ 16 ≤ f.va.toNat ∧ 16 ≤ f.vb.toNat ∧ shFmt a = 1 ∧ shFmt b = 1) ∧
    m.region a false false false = .ok { sp := .loc 5 0, foot := some { space := 1, core := 5, lo := 0, hi := 15, wr := false } } ∧
    m.region b false false false = .ok { sp := .loc 5 64, foot := some { space := 1, core := 5, lo := 64, hi := 95, wr := false } } ∧
    shE a 0 % 1 = 0 ∧ ptrAddr (m.rg f.gs) = 0x1F0 * 2 ^ 48 + (2 ^ 18 - 8) ∧ (2 ^ 18 - 8) % 8 = 0 ∧
    (let f := { vf 16 17 2 3 with tag := 9 }
     s.rounds f ∧ s.queueFree .matrix ∧ shKind ac = 1 ∧ shKind d = 0 ∧ shFmt d = f.ty.toNat ∧ shE ac 0 = shE d 0 ∧ shE ac 1 = shE d 1 ∧
     (∃ ra, s.accRegion 5 (bindTen s.cur.bind) ac false = .ok ra ∧ accRule 5 ac ra false = .ok 0) ∧ passes s d true false = true ∧ f.fn.getLsbD 0 = false ∧
     passes s row false false = true ∧ shKind row = 0 ∧ 1 ≤ shFmt row ∧ shFmt row ≤ 8 ∧ shE row 0 = shE ac 0 ∧ shE row 1 = 1 ∧
     { vf 16 17 18 3 with fn := 1 }.fn.getLsbD 0 = true) ∧
    (∃ rc, m.accRegion 5 (bindTen m.cur.bind) ac true = .ok rc ∧ accRule 5 ac rc false = .ok 0) ∧
    (let f := vf 1 17 0 0
     f.vd.toNat < 2 ∧ 16 ≤ f.va.toNat ∧ shE a 2 = 1 ∧ shE a 3 = 1 ∧ shE a 0 ≤ 256 ∧ shE a 1 ≤ 24 ∧ shE a 0 / 1 * shUnit a * shE a 1 ≤ 12288 ∧
     passes (shaped 0 big 0) big false false = true ∧ 24 < shE big 1 ∧ (shaped 0 big 0).faultsAtOnce) ∧
    (let f := vf 0 1 0 0
     let own := { s with cores := [(5, { part := 0x43 }), (6, { part := 0x43 })] }
     f.va.toNat < 2 ∧ own.mayName (5 / 16 * 16 + (5 + 1) % 16) = true ∧ s.mayName (5 / 16 * 16 + (5 + 1) % 16) = false ∧
     (shaped d ac row).faultsAtOnce) := by
  and_intros <;> first | decide +kernel | rfl | exact ⟨_, rfl, rfl⟩ | (unfold State.rounds; decide +kernel) | nofun

theorem test_witness_EngineCommandsCopy :
    let d := shape (loc 4096) 3 4 2 16
    let a := shape (loc 0) 3 4 2 16
    let i := shape (loc 8192) 3 2 1 0
    let s := shaped d a i (loc (2 ^ 18 - 8))
    let f := { vf 16 17 18 3 with tag := 9, gs := 1 }
    let c := shape (loc 4096) 3 4 2 16 64
    let dur := shape (BitVec.ofNat 64 (0x1F8 * 2 ^ 48)) 3 16 2 64
    let l := shape (loc 64) 3 16 2 64
    s.guard f.pn f.pg = true ∧ s.queueFree .copy ∧ 16 ≤ f.vd.toNat ∧ 16 ≤ f.va.toNat ∧ shKind d = 0 ∧ shFmt d ≠ 15 ∧ shFmt d = shFmt a ∧
    shBlk d = shBlk a ∧ shE d 0 % 1 = 0 ∧ shE d 0 = shE a 0 ∧ shE d 1 = shE a 1 ∧ passes s d true false = true ∧ passes s a false false = true ∧
    16 ≤ f.vb.toNat ∧ shFmt i = 3 ∧ shE i 1 = 1 ∧ shE i 2 = 1 ∧ passes s i false false = true ∧ f.gs ≠ 0 ∧
    ptrAddr (s.rg f.gs) = 0x1F0 * 2 ^ 48 + (2 ^ 18 - 8) ∧ (vf 16 17 2 3).vb.toNat < 16 ∧ (vf 16 17 2 3).gs = 0 ∧
    passes (shaped c a 0) c true true = true ∧ shDm d < 2 ∧ passes (shaped d a i) (setFld (setFld d 230 1 0) 226 2 0) true false = true ∧ ((shaped d a 0 63).rg f.gs).toNat < 64 ∧ ((shaped d a 0 63).rg f.gs).toNat ≠ (shaped d a 0 63).modid ∧
    ptrAddr (shBase (shape 0x1000 3 4 2 16)) < 2 ^ 56 ∧ shLegal (shape 0x1000 3 4 2 16) true false = true ∧
    64 ≤ ((shaped d a 0 64).rg f.gs).toNat ∧ (shaped d a 0 64).faultsAtOnce ∧ ((shaped d a 0 0).rg f.gs).toNat = (shaped d a 0 0).modid ∧
    ptrAddr (shBase dur) / 2 ^ 48 = 0x1F8 ∧ ¬ ptrAddr (shBase l) / 2 ^ 48 = 0x1F8 ∧ durAligned dur = true ∧
    passesDur { shaped dur l 0 with hub := { tenants := [(57, 2 ^ 12)] } } dur true = true ∧ passesDur (shaped dur l 0) l false = true ∧ (shaped l l 0).faultsAtOnce ∧ shFmt d ≤ 8 := by
  and_intros <;> first | decide +kernel | rfl | nofun

theorem test_witness_ExactScale :
    2 ≤ 32 ∧ -(2 ^ (32 - 1) : Int) ≤ -2 ^ 31 ∧ (2 ^ 31 - 1 : Int) < 2 ^ (32 - 1) ∧
    (let p : Lane := { pos := [2 ^ 31 - 1, 1, 2, 3], neg := [-2 ^ 31] }
     (∀ x ∈ p.pos, 0 < x ∧ -(2 ^ (32 - 1) : Int) ≤ x ∧ x < 2 ^ (32 - 1)) ∧ (∀ x ∈ p.neg, x < 0 ∧ -(2 ^ (32 - 1) : Int) ≤ x ∧ x < 2 ^ (32 - 1)) ∧
     p.pos.length ≤ 4 ∧ p.neg.length ≤ 4) := by
  and_intros <;> first | decide +kernel

/-- A core that tenant 3 has to itself, with what is given. -/
def tenanted (k : Core) : Core := { k with part := 0x43 }
/-- A message 9 from core 6 to core 5, of tenant 3, arrived whole. -/
def mail (b : Body) : Msg := { id := 9, src := 6, dst := 5, ten := 3, org := { core := 6, slot := 1, uid := 8, bind := 0x0C000000 }, body := b }
/-- The state in which this message has arrived at core 5, as given. -/
def mailed (m : Msg) (k : Core := {}) (s : State := {}) : State := { s with net := [m], cores := [(5, tenanted k)], fresh := 40 }
/-- A task of tenant 3, and one bound to steal domain 7. -/
def job : Task := { entry := 0x4000, a0 := 1, a1 := 2, bind := 0x0C000000, root := 6 }
/-- An accepted launch of tenant 3 with 2 roots from core 5's cluster up, with 65,536 bytes of local memory. -/
def launch3 : Launch :=
  { num := 30, ptr := 0x8000, words := [0x4000, 0, BitVec.ofNat 64 (7 * 2 ^ 32 + 2), BitVec.ofNat 64 (3 * 2 ^ 25 + 5), 0, 65536,
      BitVec.ofNat 64 (256 * 2 ^ 38), 0x3001] ++ List.replicate 16 0 }
/-- The state with these launches in the intake. -/
def taken (l : List Launch) (s : State) : State := { s with hub := { s.hub with launches := l } }

/-- The result is this. -/
def okIs {ε α : Type} [DecidableEq α] (e : Except ε α) (x : α) : Bool :=
  match e with
  | .ok y => y == x
  | .error _ => false
/-- Word w of memory set. -/
def put64 (s : State) (a w : Nat) : State := { s with mem := Mem.writeN s.mem a (bytesOfNat 8 w) }
/-- Tenant 3's page table on die 0 in host memory at 0x1000: 2^48 bytes of host memory, and above them the device window, in leaves of 2^48. -/
def paged (s : State) : State :=
  put64 (put64 (put64 (put64 s (tenRec 0 3 0) (10 * 2 ^ 60 + 1)) (tenRec 0 3 1) (2 ^ 50)) (Config.hostBase + 0x1000) 0xDF) (Config.hostBase + 0x1008)
    (0xDF + 2 ^ 48)

theorem test_witness_SchedulerEvents :
    let w := { thread 1 2 3 with st := .waiting .reply true, ready := 8 }
    let s := { issue w with cycle := 8 }
    let f := fun (k : Core) => ({ cores := [(5, tenanted k)] } : State)
    let x : Context := { pc := 0x40, bind := 0x0C000000, uid := 9 }
    let full : State := { threads := (List.range 16).map fun k => (80 + k, thread 1 2 3) }
    let r : Record := { code := 0x12 }
    let p := { thread 1 2 3 with parkAt := [r] }
    let h := { thread 1 2 3 with haltAt := true }
    s.thr 5 0 = some w ∧ w.ready ≤ s.cycle ∧ (issue w).cycle < w.ready ∧ (f {}).isOffice 5 = false ∧ (f {}).freeSlot 5 = some 0 ∧
    ((f { frames := [x] }).core 5).frames = x :: [] ∧ ((f { remote := [(job, some 3)] }).core 5).remote = (job, some 3) :: [] ∧
    ((f { deque := [job] }).core 5).deque = [] ++ [job] ∧ ((f { deque := [job] }).core 5).chans = [] ∧ ((f {}).core 5).skips.1 < 8 ∧
    (f {}).launchOf job.bind = none ∧ bindHk job.bind = false ∧ job.argFault = none ∧ full.freeSlot 5 = none ∧
    (issue p).thr 5 0 = some p ∧ p.st = .runnable ∧ p.chunk = none ∧ p.parkAt = [r] ∧ (issue h).thr 5 0 = some h ∧ h.haltAt = true ∧ h.parkAt = [] ∧ p.outgoing = none := by
  and_intros <;> first | decide +kernel | rfl

theorem test_witness_SchedulerEventsSteals :
    let j := { job with bind := BitVec.ofNat 64 (3 * 2 ^ 26 + 7 * 2 ^ 21) }
    let v := fun (k : Core) => ({ cores := [(5, tenanted k), (6, tenanted { deque := [j, job] })], cycle := 64, fresh := 40 } : State)
    let m := fun (d : List Task) => ({ (v {}) with net := [mail (.stealReq 6)], cores := [(5, tenanted { deque := d })] } : State)
    let r := fun (b : Body) (t : Tab Thread) => ({ mailed (mail b) with threads := t } : State)
    let full := (List.range 16).map fun k => (80 + k, thread 1 2 3)
    let none_ : State := { cores := [(5, tenanted { probeNext := 3 })] }
    (v {}).mayBind 5 = some 0 ∧ (v {}).coreTenant 5 = some 3 ∧ ((v {}).core 5).probing = false ∧ (v {}).nextVictim 5 3 0 = some 6 ∧
    none_.mayBind 5 = some 0 ∧ none_.coreTenant 5 = some 3 ∧ (none_.core 5).probeAt = 0 ∧ none_.nextVictim 5 3 3 = none ∧
    (v { probeAt := 64 }).victims 5 3 = 6 :: [] ∧ ((v { probeAt := 64 }).core 5).probeAt ≤ 64 ∧ 6 ∈ (v {}).victims 5 3 ∧
    (m [j, job]).arrived 9 = some (mail (.stealReq 6)) ∧ ((m [j, job]).core 5).deque = j :: [job] ∧ inScope (bindSd j.bind) 5 6 = true ∧
    bindTen j.bind = (mail (.stealReq 6)).ten ∧ (m [j, job]).launchOf j.bind = none ∧ ((m []).core 5).deque = [] ∧
    ([job] ≠ [] ∨ (m [j, job]).freeSlot 5 = none) ∧
    (r (.stealRep (some job)) []).arrived 9 = some (mail (.stealRep (some job))) ∧ (r (.stealRep (some job)) []).admits 5 3 = true ∧
    (r (.stealRep (some job)) []).stealSlot 5 job.bind = some 0 ∧ (r (.stealRep (some job)) full).admits 5 3 = true ∧
    (r (.stealRep (some job)) full).stealSlot 5 job.bind = none ∧ ((r (.stealRep (some job)) full).core 5).deque.length < 256 ∧
    ({ r (.stealRep (some job)) [] with cores := [] } : State).admits 5 3 = false ∧
    256 ≤ (({ r (.stealRep (some job)) full with cores := [(5, tenanted { deque := List.replicate 256 job })] } : State).core 5).deque.length ∧
    (mailed (mail (.stealRep none))).arrived 9 = some (mail (.stealRep none)) ∧
    (mailed (mail (.stealRep none))).nextVictim 5 3 (probeKey 5 6 + 1) = none ∧
    (let t := { v {} with cores := [(5, tenanted {}), (6, tenanted { deque := [j] }), (7, tenanted { deque := [j] })] }
     t.nextVictim 5 3 (probeKey 5 6 + 1) ≠ none) := by
  and_intros <;> first | decide +kernel | rfl

theorem test_witness_SchedulerEventsRoots :
    let s := taken [launch3] { cores := [(5, tenanted { grant := some { launch := 30, lid := 7, ten := 3, lmem := 65536, acc := 0 } })] }
    let l := { launch3 with next := 1, waits := [(1, {})] }
    let a := { l with words := l.words.set 1 0x600000 }
    let d := { launch3 with finished := [0, 1] }
    let c := { d with words := d.words.set 9 0x600000 }
    let t := taken [l] s
    s.hub.launches = [launch3] ∧ launch3.st = .active ∧ launch3.perRoot = false ∧ launch3.next < launch3.roots ∧ launch3.ready launch3.next = true ∧
    launch3.w 1 = 0 ∧ t.launch l.num = some l ∧ Tab.find l.waits 1 = some {} ∧ l.w 4 = 0 ∧ t.served1st l 1 = false ∧
    (taken [l, { l with num := 31 }] s).served1st { l with num := 31 } 1 = true ∧ a.w 1 ≠ 0 ∧
    okIs ((paged (taken [a] s)).hubRead a.ten (a.argAddr 1) 32) (List.replicate 32 0) = true ∧
    t.visited (fld (l.w 3) 0 14) l.rad = 0 :: [] ∧ t.rootCore 0 l = some 5 ∧ t.freeSlot 5 = some 0 ∧ l.hk = false ∧
    t.launchOf (rootTask l 1 (fld (l.w 3) 0 14) {}).bind = some l ∧
    (taken [d] s).launch d.num = some d ∧ d.wordDone = false ∧ d.roots ≤ d.finished.length ∧ (taken [d] s).hub.writes = [] ∧ d.w 9 = 0 ∧ c.w 9 ≠ 0 ∧
    okIs ((paged (taken [c] s)).hubPa c.ten (ptrAddr (c.w 9)) .write) (Config.hostBase + 0x600000) = true := by
  and_intros <;> first | decide +kernel | rfl

/-- The thread of core 6 slot 1 that waits for the answer of access 9. -/
def asker (w : Wait := .reply) : Thread :=
  { thread 1 2 3 with uid := 8, st := .waiting w false, acc := some { id := 9, addr := 0, since := 0, ans := .none } }
/-- A message for core 5 on its way, with its asker. -/
def asked (b : Body) (k : Core := {}) (s : State := {}) : State := { mailed (mail b) k s with threads := [(97, asker)] }
/-- Frame 1 of die 0 as tenant 3's, homed on core 5. -/
def framed (s : State) : State := put64 s (fatAddr 0 1) (2 ^ 34 + 3 * 2 ^ 27 + 5 * 2 ^ 10)

theorem test_witness_MemoryEvents :
    let ld := asked (.access 0x3FFFF8 8 0 .load) {} (framed {})
    let own := asked (.access (localPa 5 (2 ^ 18 - 8)) 8 0 .load)
    let out : State := { asked (.access (localPa 5 0) 8 0 .load) with cores := [] }
    let dur := asked (.durable Config.durBase [1, 2] 0)
    let fe := asked (.fe 0x5C (localPa 5 0) 7)
    let full := { fe with full := [localPa 5 0] }
    let st := fun (dirs : Tab (List Nat)) => { asked (.access 0x3FFFF8 8 0 (.store 7)) {} (framed {}) with
      cores := [(0, { dirs := dirs }), (5, tenanted {})], fetched := [{ who := 9, line := 0x3FFFF8 / 64 }] }
    let sl := { ld with fetched := [{ who := 9, line := 0x3FFFF8 / 64 }] }
    ld.arrived 9 = some (mail (.access 0x3FFFF8 8 0 .load)) ∧ 0x3FFFF8 < 4 * Config.dieBytes ∧ ld.homeOf (ld.fat 0 1) 0x3FFFF8 = some 5 ∧
    0x3FFFF8 % Config.dieBytes / Config.frameBytes = 1 ∧ ld.poisoned 0x3FFFF8 8 = false ∧ sl.spoilt 9 (0x3FFFF8 / 64) = false ∧
    sl.arrived 9 = some (mail (.access 0x3FFFF8 8 0 .load)) ∧ sl.atHand 9 (0x3FFFF8 / 64) = true ∧ (st []).atHand 9 (0x3FFFF8 / 64) = true ∧
    (framed {}).vaultTrip 21 0x3FFFF8 8 0 false = false ∧ ld.soloBlocks 6 8 3 (linesOf 0x3FFFF8 8) = false ∧
    (st []).arrived 9 = some (mail (.access 0x3FFFF8 8 0 (.store 7))) ∧ (st []).listed (some (6 / 4096)) false (0x3FFFF8 / 64) = [] ∧
    (st [(0x3FFFF8 / 64, [1])]).listed (some (6 / 4096)) false (0x3FFFF8 / 64) ≠ [] ∧ (st [(0x3FFFF8 / 64, [1])]).unacked = [] ∧
    ld.launchOf (mail .tokenReq).org.bind = none ∧ (asked (.answer 9 (.data 1))).arrived 9 = some (mail (.answer 9 (.data 1))) ∧
    own.arrived 9 = some (mail (.access (localPa 5 (2 ^ 18 - 8)) 8 0 .load)) ∧ Config.localBase ≤ localPa 5 (2 ^ 18 - 8) ∧
    localPa 5 (2 ^ 18 - 8) < Config.hostBase ∧ own.poisoned (localPa 5 (2 ^ 18 - 8)) 8 = false ∧ own.admits 5 3 = true ∧ out.admits 5 3 = false ∧
    own.soloBlocks 6 8 3 (linesOf (localPa 5 (2 ^ 18 - 8)) 8) = false ∧
    (asked (.winRead 0xF8)).arrived 9 = some (mail (.winRead 0xF8)) ∧ (asked (.barRead 47 true)).arrived 9 = some (mail (.barRead 47 true)) ∧
    dur.arrived 9 = some (mail (.durable Config.durBase [1, 2] 0)) ∧ dur.net.head? = some (mail (.durable Config.durBase [1, 2] 0)) ∧
    dur.launchOf (mail (.durable Config.durBase [1, 2] 0)).org.bind = none ∧ fe.arrived 9 = some (mail (.fe 0x5C (localPa 5 0) 7)) ∧
    (fe.core 5).parks = [] ∧ fe.isFull (localPa 5 0) = false ∧ full.isFull (localPa 5 0) = true ∧
    fe.bound (mail (.fe 0x5C (localPa 5 0) 7)).org = some asker ∧ asker.st = .waiting .reply false ∧ fe.poisoned (localPa 5 0) 8 = false ∧
    fe.soloBlocks 6 8 3 (linesOf (localPa 5 0) 8) = false := by
  and_intros <;> first | decide +kernel | rfl

theorem test_witness_MemoryEventsCaches :
    let f := { asked (.rfill 4096 0x100020 32 0 9) with fetched := [{ who := 9, line := 0x100020 / 64 }] }
    let i := asked (.inval 0x4000 0 3)
    let w := fun (n : Nat) => ({ num := 3, org := { core := 6, slot := 1, uid := 8 }, line := 0x4000, left := n } : Unacked)
    let a := fun (n : Nat) => { asked (.wack 3) with unacked := [w n] }
    f.arrived 9 = some (mail (.rfill 4096 0x100020 32 0 9)) ∧ (∀ y ∈ f.unacked, y.line ≠ 0x100020 / 64) ∧ f.poisoned 0x100020 32 = false ∧
    0x100020 % 64 + 32 ≤ 64 ∧ f.spoilt 9 (0x100020 / 64) = false ∧ f.atHand 9 (0x100020 / 64) = true ∧ (∃ y ∈ ({ f with unacked := [w 1] } : State).unacked, y.line = 0x100020 / 64) ∧
    i.arrived 9 = some (mail (.inval 0x4000 0 3)) ∧ (a 1).arrived 9 = some (mail (.wack 3)) ∧
    (a 1).unacked.find? (fun y => y.num == 3) = some (w 1) ∧ (a 2).unacked.find? (fun y => y.num == 3) = some (w 2) ∧
    64 * (w 1).line < 4 * Config.dieBytes := by
  and_intros <;> first | decide +kernel | rfl | nofun | exact ⟨_, List.mem_singleton.mpr rfl, rfl⟩

theorem test_witness_CommitEvents :
    let c := { chunkOf (thread 4 5 6) with buf := [(localPa 5 0, 1), (localPa 5 1, 2)], writes := [localPa 5 0 / 64] }
    let t := { thread 1 2 3 with uid := 8, st := .waiting .commit false, chunk := some c }
    let g : State := { asked (.commitReq 9) with arbs := [(9, mail (.commitReq 9))], threads := [(97, t)] }
    let d := { c with buf := [(0x3FFFF8, 1)], writes := [0x3FFFF8 / 64] }
    let e := { g with cores := [(0, { dirs := [(0x3FFFF8 / 64, [1])] })], threads := [(97, { t with chunk := some d })] }
    let n := fun (u : Nat) => { asked (.notice 0 u [localPa 5 0 / 64]) with threads := [(80, t)] }
    let k := { thread 1 2 3 with uid := 8, st := .waiting .token false }
    let q := { asked .tokenReq with threads := [(97, k)] }
    let h := { q with hub := { tokenQ := [slotKey 6 1] } }
    g.arrived 9 = some (mail (.commitReq 9)) ∧ g.grantable 9 = some (mail (.commitReq 9)) ∧ g.bound (mail (.commitReq 9)).org = some t ∧
    e.grantable 9 = some (mail (.commitReq 9)) ∧ e.toClear 6 d = [(0x3FFFF8 / 64, [1])] ∧ e.unacked = [] ∧ g.toClear 6 c = [] ∧
    g.farLines 6 8 c = [] ∧ g.notifying 8 = false ∧ g.noticed 6 8 8 c.writes = [] ∧
    (let o := { thread 1 2 3 with uid := 9, chunk := some c }
     let g2 := { g with threads := [(80, o), (97, t)] }
     g2.bound (mail (.commitReq 9)).org = some t ∧ g2.grantable 9 = some (mail (.commitReq 9)) ∧ g2.noticed 6 8 c.scope c.writes ≠ [] ∧ c.writes ≠ []) ∧
    (let o := { t with chunk := none, outgoing := some [] }
     let g3 := { g with threads := [(97, o)] }
     g3.bound (mail (.commitReq 9)).org = some o ∧ g3.grantable 9 = some (mail (.commitReq 9)) ∧ o.outgoing = some [] ∧ o.chunk = none) ∧
    t.chunk = some c ∧ g.launchOf t.bind = none ∧ c.buf.Pairwise (fun p q => p.1 < q.1) ∧
    (n 8).arrived 9 = some (mail (.notice 0 8 [localPa 5 0 / 64])) ∧
    (n 8).thr 5 0 = some t ∧ t.solo = false ∧ localPa 5 0 / 64 ∈ c.lines ∧ t.uid ≠ 9 ∧ q.arrived 9 = some (mail .tokenReq) ∧
    q.bound (mail .tokenReq).org = some k ∧ h.hub.token = none ∧ h.hub.tokenQ = slotKey 6 1 :: [] ∧ h.thr 6 1 = some k ∧
    ({ hub := { token := some 97 } } : State).hub.token = some 97 := by
  and_intros <;> first | decide +kernel | rfl

theorem test_witness_MessagesBetweenCores :
    let p := fun (k : Core) => asked (.post 31 7 0x7C 9) k
    let w := { thread 1 2 3 with st := .waiting (.take 31) false }
    let tk := { p {} with threads := [(80, w)] }
    let c := fun (k : Core) => asked (.callat job 9 9) k
    let h := fun (n : Nat) => asked (.chan 31 job 7 9 false) { chans := [(31, { en := true, ten := 3, pend := List.replicate n (job, 7) })] }
    (p {}).arrived 9 = some (mail (.post 31 7 0x7C 9)) ∧ (p {}).launchOf (mail (.post 31 7 0x7C 9)).org.bind = none ∧ (p {}).admits 5 3 = true ∧
    (p {}).postBehind (mail (.post 31 7 0x7C 9)) 31 = false ∧ Tab.find ((p {}).core 5).inbox 31 = none ∧ (p {}).taker 5 31 = none ∧
    tk.taker 5 31 = some 0 ∧ tk.thr 5 0 = some w ∧ Tab.find ((p { inbox := [(31, 5)] }).core 5).inbox 31 = some 5 ∧
    (mail (.callat job 9 9)).org.away = none ∧ 0 + 1 < ((p {}).core 6).retry ∧ (c {}).arrived 9 = some (mail (.callat job 9 9)) ∧
    ((c { remote := List.replicate 63 (job, none) }).core 5).remote.length < 64 ∧ 64 ≤ ((c { remote := List.replicate 64 (job, none) }).core 5).remote.length ∧
    (c {}).launchOf job.bind = none ∧ (h 3).arrived 9 = some (mail (.chan 31 job 7 9 false)) ∧ ((h 3).chan 5 31).en = true ∧ ((h 3).chan 5 31).ten = 3 ∧
    ((h 3).chan 5 31).pend.length < 4 ∧ 4 ≤ ((h 4).chan 5 31).pend.length ∧
    (let q := asked (.chctl 31 true 9) { chans := [(31, { ten := 3 })] }
     q.arrived 9 = some (mail (.chctl 31 true 9)) ∧ (q.chan 5 31).ten = 3) ∧
    (let z := fun (b : Body) (held : Bool) => { mail b with stage := .wait 64, held := held }
     let s := fun (x : Msg) => { mailed x { deque := List.replicate 255 job } with cycle := 64 }
     (s (z (.fork job) false)).msg 9 = some (z (.fork job) false) ∧ (z (.fork job) false).stage = .wait 64 ∧ 64 ≤ (s (z (.fork job) false)).cycle ∧
     (s (z (.fork job) false)).direct (z (.fork job) false) = true ∧ (s (z (.fork job) false)).admits 5 3 = true ∧
     (s (z (.fork job) false)).launchOf (z (.fork job) false).org.bind = none ∧ ((s (z (.fork job) false)).core 5).deque.length < 256 ∧
     (s (z (.post 1 2 3 4) true)).msg 9 = some (z (.post 1 2 3 4) true) ∧ (z (.context {}) false).body = .context {} ∧
     (z (.barFwd 1 2 3) false).body = .barFwd 1 2 3 ∧ (mailed (z (.fork job) false)).cycle < 64) := by
  and_intros <;> first | decide +kernel | rfl

theorem test_witness_MessagesBetweenCoresContexts :
    let x : Context := { pc := 0x40, bind := 0x0C000000, basketOff := 2 ^ 18 - 8, basket := [1, 2, 3, 4, 5, 6, 7, 8] }
    let g : Grant := { launch := 1, lid := 0, ten := 3, lmem := 2 ^ 18, acc := 0 }
    let s := fun (n : Nat) => asked (.context x) { grant := some g, frames := List.replicate n {} }
    let b := { x with basket := [], fault := some { code := 0x10 } }
    (s 31).arrived 9 = some (mail (.context x)) ∧ (mail (.context x)).src < 16384 ∧ (s 31).launchOf x.bind = none ∧ x.fault = none ∧ (s 31).basketHere (mail (.context x)) x = true ∧
    (s 31).admits 5 3 = true ∧ x.basketOff + x.basket.length ≤ (s 31).basketLimit 5 x.bind ∧ 32 ≤ ((s 32).core 5).frames.length ∧
    ((s 31).core 5).frames.length < 32 ∧ x.basketOff + x.basket.length ≤ 2 ^ 18 ∧ ({ s 0 with cores := [] } : State).admits 5 3 = false ∧ (({ s 0 with cores := [] } : State).core 5).port.length < 16 ∧
    (asked (.context b)).admits 5 3 = true ∧
    (asked (.context b)).arrived 9 = some (mail (.context b)) ∧ b.fault ≠ none ∧ b.basket = [] ∧ ((asked (.context b)).core 5).frames.length < 32 := by
  and_intros <;> first | decide +kernel | rfl

theorem test_witness_BarrierEvents :
    let y : Barrier := { seq := 65535, cnt := 2 }
    let a := fun (b : Barrier) => asked (.barArr 47) { bars := [(47, b)] }
    let f := asked (.barFwd 47 3 2) { bars := [(47, { y with childs := List.replicate 15 (0, 0) })] }
    let n := asked (.barNote 47) { bars := [(47, { y with pend := true, childs := [(3, 2)] })] }
    let w := fun (x : Wait) => { issue { thread 1 2 3 with st := .waiting x false } { bars := [(47, { y with watch := 1 })] } with cycle := 2 ^ 26 }
    (a y).arrived 9 = some (mail (.barArr 47)) ∧ (a y).launchOf (mail (.barArr 47)).org.bind = none ∧ (a y).savedUnder (mail (.barArr 47)) = false ∧ (a y).admits 5 3 = true ∧
    (mail (.barArr 47)).org.core ≠ 5 ∧ ((a y).bar 5 47).pend = false ∧ ((a y).bar 5 47).arr + 1 < ((a y).bar 5 47).cnt ∧
    ((a { y with arr := 1 }).bar 5 47).arr + 1 = ((a { y with arr := 1 }).bar 5 47).cnt ∧ ((a { y with arr := 1 }).bar 5 47).uv = false ∧
    ((a { y with arr := 1, uv := true }).bar 5 47).uv = true ∧ ((a { y with arr := 2 }).bar 5 47).arr = ((a { y with arr := 2 }).bar 5 47).cnt ∧
    f.arrived 9 = some (mail (.barFwd 47 3 2)) ∧ (f.bar 5 47).pend = false ∧ (f.bar 5 47).childs.length < 16 ∧ (f.bar 5 47).arr + 1 < (f.bar 5 47).cnt ∧
    n.arrived 9 = some (mail (.barNote 47)) ∧ (3, 2) ∈ (n.bar 5 47).childs ∧
    (w (.take 31)).thr 5 0 = some { thread 1 2 3 with st := .waiting (.take 31) false } ∧ ((w (.take 31)).core 5).waiting.length < 32 ∧
    0 + ((w (.take 31)).core 5).watchdog ≤ (w (.take 31)).cycle ∧ (w (.bar 47 65535)).thr 5 0 = some { thread 1 2 3 with st := .waiting (.bar 47 65535) false } ∧
    ({ w (.take 31) with cycle := 2 ^ 26 - 1 } : State).cycle < 0 + ((w (.take 31)).core 5).watchdog := by
  and_intros <;> first | decide +kernel | rfl

/-- A command of core 5's thread with region operands, on an engine. -/
def cmd (i : Instr) (eng : Engine) (sd sa sb : Shape) (pd pa pb : Space) : Cmd :=
  { id := 30, org := { core := 5, slot := 0, uid := 7, bind := 0x0C000000 }, instr := i, eng, sd, sa, sb, pd, pa, pb, tag := 63, gs := 0x1122334455667788 }
/-- Core 5 with commands, and its thread. -/
def engines (l : List Cmd) (k : Core := {}) (s : State := {}) : State := issue (thread 1 2 3) { k with cmds := l } s

theorem test_witness_VectorAndCopyEvents :
    let row := shape (loc (2 ^ 18 - 64)) 8 16 1 0
    let src := shape (loc 0) 8 16 1 0
    let v := cmd (.vfill (vf 16 0 0 8)) .vector row 0 0 (.loc 5 (2 ^ 18 - 64)) (.loc 5 0) (.loc 5 0)
    let c := cmd (.cp (vf 16 17 0 0)) .copy row src 0 (.loc 5 (2 ^ 18 - 64)) (.loc 5 0) (.loc 5 0)
    let s := engines [v]
    let v2 := { v with started := true, pos := 7 }
    s.coreFrozen 5 = false ∧ s.launchOf v.org.bind = none ∧ s.mayRun 5 v = true ∧ v.pos < 16 ∧ v.flags = 0 ∧ v.k3 = false ∧ c.k3 = false ∧ (engines [c]).fetched = [] ∧ v.old = none ∧ v.selfReads = false ∧
    (engines [v2]).mayRun 5 v2 = true ∧ (engines [v2]).vectorHead 5 = some v2 ∧ c.pos < 16 ∧ c.flags = 0 ∧ c.old = none ∧ c.selfReads = false ∧ shE v.sd 0 = 16 ∧ shE v.sd 1 = 1 ∧ shE v.sd 2 = 1 ∧ shE v.sd 3 = 1 ∧
    shFmt v.sd = 8 ∧ shBlk v.sd = 0 ∧ 2 ^ 18 - 64 + 16 * elemBytes 8 ≤ 2 ^ 18 ∧ s.vectorHead 5 = some v ∧ (vf 16 0 0 8).ty.toNat = 8 ∧
    (vf 16 0 0 8).fn = 0 ∧ (engines [c]).copyAt 5 0 = some c ∧ (engines [c]).mayRun 5 c = true ∧ shE c.sa 0 = 16 ∧ shFmt c.sa = 8 ∧
    0 + 16 * elemBytes 8 ≤ 2 ^ 18 - 64 ∧ (engines [c]).poison = [] ∧
    (engines [{ v with done := true }]).vectorHead 5 = some { v with done := true } ∧ (engines [{ c with done := true }]).copyAt 5 0 = some { c with done := true } ∧
    v.done = false := by
  and_intros <;> first | decide +kernel | rfl

/-- The operands of a matrix command: 4 by 1 elements of I32 from 8 bytes a row. -/
def mat (i : Instr) : Cmd :=
  cmd i .matrix (shape (acc 0) 3 4 1 0 17) (shape (loc 0) 1 8 1 0) (shape (loc 64) 1 8 4 8) (.acc 5 0) (.loc 5 0) (.loc 5 64)

/-- The engine's access went well. -/
def wentWell {α : Type} (e : Eng α) : Bool :=
  match e with
  | .ok _ _ => true
  | _ => false

theorem test_witness_MatrixEvents :
    let clr := mat (.mclr (vf 16 0 0 0))
    let mma := mat (.mma (vf 16 17 18 0))
    let run := { mma with started := true, begun := true }
    let more := { run with sa := shape (loc 0) 1 64 1 0, sb := shape (loc 64) 1 64 4 64 }
    let fd := { run with spent := true, back := some {} }
    let lst := { mat (.mma { vf 16 17 18 0 with fn := 1 }) with started := true, spent := true, back := some {} }
    let chk := { lst with fed := true, tsw := 0x8000 }
    let b : Back := {}
    let one := fun (l : Tab Nat) => { engines [chk] with lean := l }
    let d := { run with done := true }
    let far := { d with from_ := some 6, peer := 4 }
    let y := { mat (.mmar (vf 16 17 18 0)) with id := 9, org := (mail .tokenReq).org }
    let q := fun (k : Core) => { mailed (mail (.mmar 3 0x33 9)) k with cores := [(5, tenanted k), (6, tenanted { cmds := [y] })] }
    let n := { mailed (mail (.mmarDone 9 2 false none)) { cmds := [{ y with org := { core := 5, slot := 0, uid := 7 } }] } with threads := [(80, thread 1 2 3)] }
    (engines [clr]).datapath 5 = none ∧ (engines [clr]).datapathNext 5 = some clr ∧ (engines [clr]).coreFrozen 5 = false ∧
    (engines [mma]).datapathNext 5 = some mma ∧ latchSrc (vf 16 17 18 0) = none ∧ clr.flags = 0 ∧ clr.k3 = false ∧ clr.selfReads = false ∧
    clr.pos < shCount clr.sd ∧ (engines [mma]).substAt 5 mma = false ∧ (engines [run]).datapath 5 = some run ∧ run ∈ ((engines [run]).core 5).cmds ∧
    run.done = false ∧ run.spent = false ∧ run.back = none ∧ run.begun = true ∧ run.paged = false ∧ (engines [run]).feedsNow 5 = true ∧
    run.slice + 1 = (engines [run]).slices 5 run ∧ (∃ p, (engines [run]).blockSlices 5 run false = .ok (engines [run]) p) ∧
    (engines [run]).badElement 5 run = none ∧ more.slice + 1 < (engines [more]).slices 5 more ∧ (engines [more]).badElement 5 more = none ∧
    (∃ p, (engines [more]).blockSlices 5 more false = .ok (engines [more]) p) ∧ (engines [fd]).datapath 5 = some fd ∧ fd ∈ ((engines [fd]).core 5).cmds ∧
    fd.done = false ∧ fd.back = some b ∧ fd.fed = false ∧ (engines [fd]).badElement 5 (fd.onBack b) = none ∧
    (engines [lst]).badElement 5 (lst.onBack b) = none ∧ lst.back = some b ∧ b.lanes = [] ∧ (engines [lst]).datapath 5 = some lst ∧ lst.fed = false ∧ accAF lst.sd ≠ 2 ∧
    (one []).datapath 5 = some chk ∧ chk ∈ ((one []).core 5).cmds ∧ chk.back = some b ∧ (one []).recordsFull chk.org.core = false ∧ chk.forgiving = false ∧
    chk.from_ = none ∧ (∀ p ∈ (chk.onBack b).positions, ((one []).accGet (chk.accPa 5 p.2.1 p.2.2.1) (accZ chk.sd)).2 = .zero) ∧
    (∃ p ∈ (chk.onBack b).positions, ((one [(chk.accPa 5 0 0 / 2, 1)]).accGet (chk.accPa 5 p.2.1 p.2.2.1) (accZ chk.sd)).2 = .plus) ∧
    (∀ p ∈ (chk.onBack b).positions, ((one [(chk.accPa 5 0 0 / 2, 1)]).accGet (chk.accPa 5 p.2.1 p.2.2.1) (accZ chk.sd)).2 ≠ .lost) ∧ chk.tsw.getLsbD 15 = true ∧
    (one []).cmd 5 chk.id = some chk ∧ (engines [d]).datapath 5 = some d ∧ d.from_ = none ∧ (engines [far]).datapath 5 = some far ∧ far.from_ = some 6 ∧
    (q {}).arrived 9 = some (mail (.mmar 3 0x33 9)) ∧ (q {}).cmd 6 9 = some y ∧ ((q { cap0 := 2 ^ 63 + 0x33 }).core 5).capable 0x33 = true ∧
    (q {}).coreTenant 5 = some 3 ∧ ((q {}).core 5).remoteBusy = false ∧ ((q {}).core 5).capable 0x33 = false ∧ (q {}).recordsFull 6 = false ∧
    n.arrived 9 = some (mail (.mmarDone 9 2 false none)) ∧ (n.cmd 5 9).isSome = true := by
  and_intros <;> first | decide +kernel | exact ⟨_, rfl⟩ | rfl

theorem test_witness_MatrixEventsLatches :
    let x := fun (i : Instr) => cmd i .latch 0 (shape (loc 0) 1 8 2 8) 0 (.loc 5 0) (.loc 5 0) (.loc 5 0)
    let ld := x (.mld (vf 1 17 0 0))
    let rot := x (.mrot (vf 0 1 0 0))
    let s := engines [rot] { latch1 := { st := .full } }
    (engines [ld]).latchHead 5 = some ld ∧ (engines [ld]).mayStart 5 ld = true ∧ ((engines [ld]).latch 5 1).st = .empty ∧ (engines [ld]).inbound 5 1 = false ∧
    shCount ld.sa ≠ 0 ∧ wentWell ((engines [ld]).readTile ld 5 (shE ld.sa 1) 0) = true ∧ (engines [rot]).latchHead 5 = some rot ∧
    ((engines [rot]).latch 5 1).st ≠ .full ∧ s.latchHead 5 = some rot ∧ s.mayStart 5 rot = true ∧ (s.latch 5 1).st = .full ∧ (s.latch 6 0).st = .empty ∧
    (engines [x (.mrotDrop (vf 0 1 0 0))]).mayStart 5 (x (.mrotDrop (vf 0 1 0 0))) = true ∧
    (engines [{ ld with started := true }]).latchHead 5 = some { ld with started := true } ∧ ld.started = false := by
  and_intros <;> first | decide +kernel | rfl

/-- The fold request of core 5's thread: handle 0x01000001 with g1 a constant. -/
def foldReq : FoldReq := { org := { core := 5, slot := 0, uid := 7, bind := 0x0C000000 }, handle := 0x01000001, g := [1, 2, 3, 5, 0, 0, 0, 0], em := 1, ub := 0 }
/-- The thread that waits for the fold. -/
def folder : Thread := { thread 1 2 3 with st := .waiting (.fold 0) false }
/-- Cluster 0's fold in progress, tenant 3 having a table of n entries at 0x200000 and its arena of bytes at 0x400000. -/
def folding (x : FoldRes) (n bytes : Nat) : State :=
  { framed (issue folder { tlb := [{ ten := 3, asid := 0, global := true, vpn := 2, shift := 21, leaf := 21, pa := 0x200000, wr := true, ex := true, rd := true, attr := some 0x1400 }] }) with
    clusters := [(0, { folding := some x })], fetched := [{ who := (Waiter.fold 0).who, line := 0x200000 / 64 }]
    hub := { tenants := [(48, 0x200000), (49, BitVec.ofNat 64 n), (58, 0x400000), (59, BitVec.ofNat 64 bytes)] } }

theorem test_witness_FoldEvents :
    let s : State := { issue folder with clusters := [(0, { folds := [foldReq] })] }
    let i : Image := { key := s.foldKey foldReq, body := [(1, 2)], size := 1, flags := 0 }
    let k := { s with hub := { images := [i] } }
    let x : FoldRes := { req := foldReq, walked := true, image := [(0x0103110000000000, 0)] }
    let f := { x with fault := some { code := 0x0D } }
    let q := folding x 2 16
    let g := { x with flags := 16 }
    let far := put64 (folding g 2 16) 0x200020 (2 ^ 40)
    let v := folding { x with req := { foldReq with check := true } } 2 16
    let z := { x with ending := some (9, .clean) }
    let u := { folding z 2 16 with net := [{ mail (.handle 0x01000001 1) with org := foldReq.org }] }
    (k.cluster 0).folding = none ∧ (k.cluster 0).folds = foldReq :: [] ∧
    (k.hub.images.find? fun y => y.key == k.foldKey foldReq && y.persistent) = some i ∧ i.intact = true ∧
    ((folding f 2 16).cluster 0).folding = some f ∧ f.walked = true ∧ f.ending = none ∧ ((folding f 2 16).cluster 0).foldPaged = false ∧
    (folding f 2 16).bound f.req.org = some folder ∧ x.fault = none ∧ x.pool = [] ∧ (folding x 2 15).arenaSpace 3 16 16 = none ∧
    (folding x 1 16).arenaSpace 3 16 16 = some 0x400000 ∧ (folding x 1 16).freeEntry 3 = none ∧ q.arenaSpace 3 16 16 = some 0x400000 ∧
    q.freeEntry 3 = some 1 ∧ x.flags / 2 ^ 4 % 2 = 0 ∧ x.imageAt 0x400000 0 = some x.image ∧
    far.arenaSpace 3 16 16 = some 0x400000 ∧ far.freeEntry 3 = some 1 ∧ far.entryAddr 3 foldReq.handle = some 0x200020 ∧
    g.imageAt 0x400000 (ptrAddr (far.mem64 0x200020)) = none ∧ g.flags / 2 ^ 4 % 2 = 1 ∧
    (g.imageAt 0x400000 (ptrAddr (q.mem64 0x200020))).isSome = true ∧
    v.arenaSpace 3 16 16 = some 0x400000 ∧ v.freeEntry 3 = some 1 ∧ ((v.cluster 0).folding.map fun y => y.req.check) = some true ∧
    u.arrived 9 = some { mail (.handle 0x01000001 1) with org := foldReq.org } ∧ (u.cluster (clusterOf 5)).folding = some z ∧
    z.ending = some (9, .clean) ∧ u.bound z.req.org = some folder ∧
    (∃ s', q.engWrite { org := foldReq.org, core := 5, ten := 3, waiter := .fold 0, refused := none } (.virt 0x400000)
      (x.image.flatMap fun p => bytesOfNat 8 p.1.toNat ++ bytesOfNat 8 p.2.toNat) = .ok s' () ∧ s'.threads = q.threads ∧ (s'.cluster 0).folding = some x) := by
  and_intros <;> first | decide +kernel | exact ⟨_, rfl, rfl, rfl⟩ | rfl

theorem test_witness_FoldEventsHandles :
    let h : Word := 0xFF000001
    let s := fun (op pins st gen : Nat) => handled 0x4000 (pins * 2 ^ 40 + gen * 2 ^ 32 + st) (asked (.handle h op))
    let w := fun (s : State) => s.mem64 0x200028
    (s 0 0 1 255).arrived 9 = some (mail (.handle h 0)) ∧ bindTen (mail (.handle h 0)).org.bind = 3 ∧ (s 0 0 1 254).handleValid 3 h = none ∧
    (s 2 0 0 255).handleValid 3 h = none ∧ (s 0 0 1 255).handleValid 3 h = some 0x200020 ∧ (w (s 0 0 1 255)).toNat % 4 = 1 ∧
    (w (s 0 (2 ^ 24 - 2) 1 255)).toNat / 2 ^ 40 < 2 ^ 24 - 1 ∧ (w (s 0 (2 ^ 24 - 1) 1 255)).toNat / 2 ^ 40 = 2 ^ 24 - 1 ∧
    (s 0 (2 ^ 24 - 1) 1 255).handleValid 3 h = some 0x200020 ∧ (w (s 0 0 2 255)).toNat % 4 = 2 ∧ (s 0 0 2 255).handleValid 3 h = some 0x200020 ∧
    1 ≤ (w (s 1 1 2 255)).toNat / 2 ^ 40 ∧ (s 1 1 2 255).handleValid 3 h = some 0x200020 ∧ (w (s 1 1 2 255)).getLsbD 4 = false ∧
    (s 4 1 1 255).handleValid 3 h = some 0x200020 ∧ (s 4 1 1 255).arrived 9 = some (mail (.handle h 4)) ∧
    (s 2 1 1 255).handleValid 3 h = some 0x200020 ∧ (w (s 2 0 1 255)).toNat / 2 ^ 40 = 0 := by
  and_intros <;> first | decide +kernel | rfl

theorem test_witness_FoldEventsDepot :
    let h : Word := 1
    let r : Arena := { ten := 3, idx := 1, lo := 0x4000, bytes := 32, key := [3] }
    let s := fun (quota : Word) (l : List Image) =>
      let s := handled 0x4000 1 (asked (.depot h))
      paged { s with hub := { s.hub with arenas := [r], images := l, tenants := s.hub.tenants ++ [(63, quota)] } }
    let m := mail (.depot h)
    let i : Image := { key := [3], body := [], size := 0, flags := 0 }
    (s 1 []).arrived 9 = some m ∧ (s 1 []).net.head? = some m ∧ (s 1 []).handleValid 3 h = some 0x200020 ∧
    ((s 1 []).hub.arenas.find? fun y => y.ten == 3 && y.idx == h.toNat % 2 ^ 24) = some r ∧ ((s 1 []).arenaBytes 3 r.lo r.bytes).isSome = true ∧
    ((s 1 []).hub.images.any fun y => y.key == r.key) = false ∧ ((s 1 [i]).hub.images.any fun y => y.key == r.key) = true ∧
    (s 0 []).iquota 3 < (16 * ((r.bytes + 15) / 16) + 80 + 2 ^ 20 - 1) / 2 ^ 20 ∧
    (s 1 []).hub.iused 3 + (16 * ((r.bytes + 15) / 16) + 80 + 2 ^ 20 - 1) / 2 ^ 20 ≤ (s 1 []).iquota 3 := by
  and_intros <;> first | decide +kernel | rfl

/-- A context of tenant 3 that routes transaction word 0x43 for its choices. -/
def token (choices : List (Nat × Nat)) : Context := { pc := 0x40, bind := 0x0C000000, uid := 9, route := some { x := 0x43, rd := 3, home := 6, choices := choices } }
/-- Expert 1 of tenant 3 is on core 5, capacity 2; the transaction's slot on die 0 is as given; a message is at the die's engine. -/
def engine (b : Body) (tx : Txn) : State :=
  put64 { mailed { mail b with dst := 16385 } with
    dies := [(0, { txns := [(195, tx)] })]
    hub := { tenants := [(51, 0x300000), (52, 2), (56, 8)] } } 0x300008 (2 ^ 26 + 2 * 2 ^ 20 + 5)

theorem test_witness_RoutingEvents :
    let o : Txn := { seq := 1, state := 1 }
    let c := token [(0, 1)]
    let at_ := { mail (.routeIn c) with dst := 16385 }
    let many := engine (.routeIn c) { o with lists := [(1, List.replicate 4096 c, 0)] }
    let l := engine (.routeIn c) { o with lists := [(1, [c], 0)] }
    let bad := token [(0, 2)]
    let f := { engine (.routeIn c) { o with lists := [(1, [c], 0)] } with cycle := 128 }
    let h := fun (k : Core) => mailed (mail (.batch 0x43 1 3 2 0)) k
    let i : Intake := { x := 0x43, engine := 6, expert := 1, taken := 1 }
    let a := engine (.batchAns 0x43 1 0 1) { o with out := [{ expert := 1, owner := 5, fseq := 0, toks := [c] }] }
    l.arrived 9 = some at_ ∧ c.route = some { x := 0x43, rd := 3, home := 6, choices := [(0, 1)] } ∧ l.basketHere at_ c = true ∧ 4096 ≤ many.engineHolds 0 ∧ l.engineHolds 0 < 4096 ∧
    l.expert 3 1 = some (BitVec.ofNat 64 (2 ^ 26 + 2 * 2 ^ 20 + 5)) ∧ (l.txn 0 3 0x43).seq = 0x43 / 64 % 2 ^ 26 ∧ (l.txn 0 3 0x43).state = 1 ∧
    Tab.find (l.txn 0 3 0x43).lists 1 = some ([c], 0) ∧ ((engine (.routeIn c) {}).txn 0 3 0x43).state ≠ 1 ∧
    (((engine (.routeIn c) {}).txn 0 3 0x43).seq + 1) % 2 ^ 26 = 0x43 / 64 % 2 ^ 26 ∧ (engine (.routeIn bad) o).expert 3 2 = none ∧
    ((engine (.routeIn c) { o with state := 2 }).txn 0 3 0x43).state = 2 ∧ Tab.find (f.die 0).txns 195 = some { o with lists := [(1, [c], 0)] } ∧
    (let z := { f with hub := {} }
     z.expert (195 / 64) 1 = none ∧ Tab.find (z.die 0).txns 195 = some { o with lists := [(1, [c], 0)] } ∧ bindTen c.bind = 195 / 64) ∧
    l.cycle < 0 + 128 ∧ 0 + 128 ≤ f.cycle ∧ f.expert (195 / 64) 1 = some (BitVec.ofNat 64 (2 ^ 26 + 2 * 2 ^ 20 + 5)) ∧
    (h {}).arrived 9 = some (mail (.batch 0x43 1 3 2 0)) ∧ (h {}).coreTenant 5 = some 3 ∧ ({ h {} with cores := [] } : State).coreTenant 5 ≠ some 3 ∧
    16 ≤ ((h { intake := List.replicate 16 { i with expert := 0 } }).core 5).intake.length ∧ ((h { intake := [i] }).core 5).intake = [i] ∧
    a.arrived 9 = some { mail (.batchAns 0x43 1 0 1) with dst := 16385 } ∧
    (a.txn 0 3 0x43).out = [{ expert := 1, owner := 5, fseq := 0, toks := [c] }] ∧ (a.txn 0 3 0x43).seq = 0x43 / 64 % 2 ^ 26 ∧
    (engine (.routedBack c) o).arrived 9 = some { mail (.routedBack c) with dst := 16385 } ∧
    ((engine (.routedBack c) { o with state := 0 }).txn 0 3 0x43).state = 0 := by
  and_intros <;> first | decide +kernel | rfl

theorem test_witness_RoutingEventsEnds :
    let o : Txn := { seq := 1, state := 1, sent := 1 }
    let c := { token [] with basket := [1, 2, 3, 4, 5, 6, 7, 8] }
    let r := engine (.rrow c)
    let th := { thread 1 2 3 with uid := 8, acc := some { id := 9, addr := 0, since := 0, ans := .none } }
    let q := fun (tx : Txn) => { engine (.rcommit 0x43 1) tx with threads := [(97, th)] }
    let m := { mail (.rcommit 0x43 1) with dst := 16385 }
    (r o).arrived 9 = some { mail (.rrow c) with dst := 16385 } ∧ ((r o).txn 0 3 0x43).seq = 0x43 / 64 % 2 ^ 26 ∧ ((r o).txn 0 3 0x43).state = 1 ∧
    ({ r o with fetched := ({ mail (.rrow c) with dst := 16385 }.basketLines c).map fun n => { who := 9, line := n } } : State).basketHere { mail (.rrow c) with dst := 16385 } c = true ∧
    (r o).basketHere { mail (.rrow c) with dst := 16385 } c = false ∧
    (r o).staged 0 3 + c.basket.length ≤ ((r o).tenantWord 3 8).toNat ∧ ((r {}).txn 0 3 0x43).state ≠ 1 ∧
    ¬ (r { o with rows := [(0, [1])] }).staged 0 3 + c.basket.length ≤ ((r { o with rows := [(0, [1])] }).tenantWord 3 8).toNat ∧
    (q o).arrived 9 = some m ∧ (q o).bound m.org = some th ∧ m.org.core < 16384 ∧ ((q {}).txn 0 3 0x43).seq ≠ 0x43 / 64 % 2 ^ 26 ∧
    ((q { o with n := 2 }).txn 0 3 0x43).n ≠ 1 ∧ ((q { o with state := 0 }).txn 0 3 0x43).state = 0 ∧ ((q { o with state := 2 }).txn 0 3 0x43).state = 2 ∧
    ((q o).txn 0 3 0x43).n = 0 ∧ ((q o).txn 0 3 0x43).ack ≠ ((q o).txn 0 3 0x43).sent ∧
    ((q { o with ack := 1, rows := [(localPa 6 0, [1, 2])] }).txn 0 3 0x43).ack = 1 ∧
    ((q { o with ack := 1, rows := [(localPa 6 0, [1, 2])] }).txn 0 3 0x43).rows = [(localPa 6 0, [1, 2])] ∧
    ((q { o with ack := 1, rows := [(localPa 6 0, [1, 2])], lists := [(1, [c], 0)] }).txn 0 3 0x43).contexts = [c] ∧ c.route.isSome = true ∧
    (engine (.rabort 0x43) o).arrived 9 = some { mail (.rabort 0x43) with dst := 16385 } ∧
    (mailed (mail (.txEnd 0x43))).arrived 9 = some (mail (.txEnd 0x43)) := by
  and_intros <;> first | decide +kernel | rfl

theorem test_witness_FaultRecords :
    let r : Record := { code := 0x12, core := 5 }
    let b := { r with ftgt := BitVec.ofNat 64 (1 + 9 * 2 ^ 10 + 63 * 2 ^ 24) }
    let s := fun (r : Record) (q : List Record) => ({ cores := [(5, tenanted { waiting := [r], recq := q })], cycle := 64 } : State)
    let box := fun (m : Mbox) => { s b [] with cores := [(5, tenanted { waiting := [b] }), (9, { mbox := [(63, m)] })], hub := { mask := [(0, 0x200)] } }
    let on : Mbox := { w0 := 2 ^ 22 }
    ((s r []).core 5).waiting = r :: [] ∧ ¬ (r.ftgt.getLsbD 0 = true) ∧ ((s r (List.replicate 7 r)).core 5).recq.length < 8 ∧
    8 ≤ ((s r (List.replicate 8 r)).core 5).recq.length ∧ r.next = 0 ∧ { r with next := 64 }.next ≤ (s r []).cycle ∧ (s r []).cycle < { r with next := 65 }.next ∧
    b.ftgt.getLsbD 0 = true ∧ b.ftgt.toNat / 2 ^ 10 % 2 ^ 14 = 9 ∧ b.ftgt.toNat / 2 ^ 24 % 2 ^ 6 = 63 ∧ (box on).isOffice 9 = true ∧
    ((box on).mailbox 9 63).en = true ∧ ((box on).mailbox 9 63).full = false ∧ ((box { on with wr := 1 }).mailbox 9 63).full = true ∧ b.raw = [] ∧ b.slot < 16 ∧
    (let p := fun (st : Status) (k : Core) => { issue { thread 1 2 3 with st := st } k with porters := [(9, { dvsel := 5 })] }
     let user : State := { p .parked {} with porters := [(9, { dvsel := 5, hart := { priv := 0 } })] }
     ((p .parked {}).porter 9).hart.priv ≠ 0 ∧ (user.porter 9).hart.priv = 0 ∧
     ((p .parked {}).porter 9).dvsel.toNat < 2 ^ 28 ∧ (p .parked {}).thr 5 0 = some { thread 1 2 3 with st := .parked } ∧ ((p .parked {}).core 5).cmds = [] ∧
     (p .halted {}).thr 5 0 = some { thread 1 2 3 with st := .halted } ∧ (p .runnable {}).thr 5 0 = some (thread 1 2 3) ∧ (thread 1 2 3).st = .runnable ∧
     ((p .parked {}).core 5).cmds = [] ∧ (thread 1 2 3).stopBar = none ∧ (thread 1 2 3).endAt = false ∧ (thread 1 2 3).hs = [] ∧
     (thread 1 2 3).solo = false ∧ (thread 1 2 3).ready ≤ (p .parked {}).cycle ∧
     (let e := { thread 1 2 3 with st := .parked, endAt := true }
      let h := { thread 1 2 3 with st := .parked, hs := [{ handle := 1, ret := 0 }], ready := 8 }
      (issue e).thr 5 0 = some e ∧ e.endAt = true ∧ e.stopBar = none ∧ (issue h).thr 5 0 = some h ∧ h.hs ≠ [] ∧ ¬ h.ready ≤ (issue h).cycle) ∧
     ({ p .parked {} with threads := [] } : State).thr 5 0 = none ∧ (thread 1 2 3).link = none ∧ (p .parked {}).launchOf (thread 1 2 3).bind = none) := by
  and_intros <;> first | decide +kernel | rfl

theorem test_witness_PorterAccesses :
    let p := fun (sel : Nat) (s : State) => { s with porters := [(9, { dvsel := BitVec.ofNat 64 sel })] }
    let o := { issue { thread 1 2 3 with st := .parked } with hub := { mask := [(0, 0x200)] } }
    let z : State := { cores := [(5, { recq := [{}] })] }
    let up := { o with hub := { o.hub with links := [(3, 0x45)] } }
    ((p 0 o).porter 9).hart.priv ≠ 0 ∧ (({ o with porters := [(9, { hart := { priv := 0 } })] } : State).porter 9).hart.priv = 0 ∧
    (p 0 o).selOk 9 5 = true ∧ (p 0 o).selOk 9 (2 ^ 40) = false ∧
    (let s := p (15 * 2 ^ 14 + 5) o
     (s.porter 9).dvsel.toNat / 2 ^ 28 % 16 = 0 ∧ (s.porter 9).dvsel.toNat / 2 ^ 14 % 2 ^ 14 = 64 * 0 + 15 ∧ s.thr 5 0 = some { thread 1 2 3 with st := .parked } ∧
     (p (15 * 2 ^ 14 + 5) (issue (thread 1 2 3))).thr 5 0 = some (thread 1 2 3)) ∧
    ((p (3 * 2 ^ 28 + 2 * 2 ^ 14 + 5) z).porter 9).dvsel.toNat / 2 ^ 28 % 16 = 3 ∧ ((p (3 * 2 ^ 28 + 2 * 2 ^ 14 + 5) z).porter 9).dvsel.toNat / 2 ^ 14 % 2 ^ 14 = 2 ∧
    ((p (3 * 2 ^ 28 + 5 * 2 ^ 14 + 5) z).porter 9).dvsel.toNat / 2 ^ 14 % 2 ^ 14 = 5 ∧ ((p (3 * 2 ^ 28 + 4 * 2 ^ 14 + 5) z).porter 9).dvsel.toNat / 2 ^ 14 % 2 ^ 14 = 4 ∧
    ({ z with cores := [] } : State).coreEmpty 5 = true ∧ (z.core 5).homing = [] ∧ o.coreEmpty 5 = false ∧
    ((p (5 * 2 ^ 28 + 1024 * 2 ^ 14) o).porter 9).dvsel.toNat / 2 ^ 28 % 16 = 5 ∧ ((p (5 * 2 ^ 28 + 1024 * 2 ^ 14) o).porter 9).dvsel.toNat / 2 ^ 14 % 2 ^ 14 = 1024 ∧
    o.isOffice 9 = true ∧ (∀ x ∈ o.hub.links, x.2.getLsbD 6 = false) ∧ (∃ x ∈ up.hub.links, x.2.getLsbD 6 = true) ∧
    ((p (5 * 2 ^ 28 + 1023 * 2 ^ 14) o).porter 9).dvsel.toNat / 2 ^ 14 % 2 ^ 14 = 16 * 63 + 15 ∧
    o.depotTotal 63 (o.tenantWord 63 9).toNat 0xFFFF ≤ 224 * 2 ^ 30 ∧ o.hub.iused 63 ≤ 0xFFFF ∧
    (let q := { o with hub := { o.hub with tenants := [(1017, BitVec.ofNat 64 (224 * 2 ^ 30 + 1))] } }
     224 * 2 ^ 30 < q.depotTotal 63 (q.tenantWord 63 9).toNat 0) := by
  and_intros <;> first | decide +kernel | rfl

theorem test_witness_PorterAccessesMemory :
    let f := framed {}
    (∃ c < 16384, ∃ off, off < 2 ^ 18 ∧ localPa 5 (2 ^ 18 - 8) = localPa c off) ∧ localPa 5 (2 ^ 18 - 8) % 8 = 0 ∧
    0x3FFFF8 < 4 * Config.dieBytes ∧ 0x3FFFF8 % Config.dieBytes / Config.frameBytes + 1 < Config.frames ∧
    (f.homeOf (f.fat (0x3FFFF8 / Config.dieBytes) 1) 0x3FFFF8).isSome = true ∧ f.poisoned 0x3FFFF8 8 = false ∧ ¬ 0x3FFFFC % 8 = 0 ∧
    4 * Config.dieBytes ≤ Config.localBase - 1 ∧ Config.localBase + 2 ^ 32 ≤ Config.accBase - 8 := by
  and_intros <;> first | decide +kernel | exact ⟨5, by decide, 2 ^ 18 - 8, by decide, rfl⟩

theorem test_witness_PorterHart :
    let s := fun (priv : Nat) (del : Word) => ({ porters := [(9, { hart := { priv := priv, csr := [(0x302, del)] } })] } : State)
    ((s 0 0).hart 9).priv = 0 ∧ 15 < 16 ∧ ((s 1 0x8000).hart 9).priv ≤ 1 ∧ (((s 1 0x8000).hart 9).held 0x302).getLsbD 15 = true ∧
    ¬ (((s 3 0x8000).hart 9).priv ≤ 1 ∧ (((s 3 0x8000).hart 9).held 0x302).getLsbD 15 = true) ∧
    ¬ (((s 1 0).hart 9).priv ≤ 1 ∧ (((s 1 0).hart 9).held 0x302).getLsbD 15 = true) := by
  and_intros <;> first | decide +kernel | rfl

/-- A walk for the thread of core 5 that waits for it. -/
def walker (b : Body) (s : State) : State :=
  { s with
    net := [{ mail b with org := { core := 5, slot := 0, uid := 7 } }]
    threads := [(80, { thread 1 2 3 with st := .waiting .walk false })], cores := [(5, tenanted {})], fresh := 40 }

/-- A page request table whose n entries from e up are pending, for page 0. -/
def pendings : Nat → Nat → List Host.Cell
  | 0, _ => []
  | n + 1, e => (pageReq 0 e 1 + 4, 1) :: pendings n (e + 1)

theorem read_pendings (n e a : Nat) :
    Mem.read (pendings n e) a = if ∃ i, i < n ∧ a = pageReq 0 (e + i) 1 + 4 then 1 else 0 := by
  induction n generalizing e with
  | zero => simp [pendings, Mem.read, unlisted]
  | succ n ih =>
    rw [pendings, Mem.read, ih]
    by_cases h : pageReq 0 e 1 + 4 = a
    · rw [if_pos h, if_pos ⟨0, by omega, by simpa using h.symm⟩]
    · rw [if_neg h]
      congr 1
      refine propext ⟨fun ⟨i, hi, ha⟩ => ⟨i + 1, by omega, by rw [ha]; congr 2; omega⟩, fun ⟨i, hi, ha⟩ => ?_⟩
      cases i with
      | zero => exact absurd (by simpa using ha.symm) h
      | succ i => exact ⟨i, by omega, by rw [ha]; congr 2; omega⟩

theorem test_witness_PageEventsFull (e : Nat) (h : e < 256) :
    ({ mem := pendings 256 0 } : State).pagePending 0 e = true ∧ fld (({ mem := pendings 256 0 } : State).mem64 (pageReq 0 e 0)) 12 45 ≠ 0x5000 / 4096 := by
  have rd (k : Nat) (hk : k < 16) : Mem.read (pendings 256 0) (pageReq 0 e 0 + k) = if k = 12 then 1 else 0 := by
    rw [read_pendings]
    congr 1
    refine propext ⟨fun ⟨i, hi, ha⟩ => ?_, fun hk => ⟨e, h, ?_⟩⟩
    · simp only [pageReq] at ha; omega
    · simp only [pageReq]; omega
  have r0 := rd 0; have r1 := rd 1; have r2 := rd 2; have r3 := rd 3; have r4 := rd 4; have r5 := rd 5; have r6 := rd 6; have r7 := rd 7
  have q0 := rd 8; have q1 := rd 9; have q2 := rd 10; have q3 := rd 11; have q4 := rd 12; have q5 := rd 13; have q6 := rd 14; have q7 := rd 15
  have w : pageReq 0 e 1 = pageReq 0 e 0 + 8 := by simp only [pageReq]
  simp only [Nat.reduceLT, forall_const, Nat.add_zero, Nat.reduceEqDiff, if_true, if_false] at *
  constructor
  · simp only [State.pagePending, State.mem64, State.memNat, Mem.readN, w, Nat.add_assoc, Nat.reduceAdd, q0, q1, q2, q3, q4, q5, q6, q7]
    decide +kernel
  · simp only [State.mem64, State.memNat, Mem.readN, Nat.add_assoc, Nat.reduceAdd, r0, r1, r2, r3, r4, r5, r6, r7]
    decide +kernel
/-- Tenant 3's page table on die 0 at 0x1000 of host memory, each level the same table, with a leaf of 2 MiB at 0x200000 for frame 1. -/
def paged2 (s : State) : State :=
  put64 (put64 (put64 (put64 s (tenRec 0 3 0) (10 * 2 ^ 60 + 1)) (tenRec 0 3 1) (2 ^ 50)) (Config.hostBase + 0x1000) 0x401) (Config.hostBase + 0x1008)
    (2 ^ 48 + 0x800DF)

theorem test_witness_PageEvents :
    let b := fun (va : Nat) (wr : Bool) => Body.walk va wr false (.thread 5 0 7)
    let t := { thread 1 2 3 with st := .waiting .walk false }
    let m := fun (va : Nat) (wr : Bool) => { mail (b va wr) with org := { core := 5, slot := 0, uid := 7 } }
    let s := fun (va : Nat) (wr : Bool) => walker (b va wr) (framed (paged {}))
    let n := walker (b 0x5000 true) {}
    let full := walker (b 0x5000 true) { mem := pendings 256 0 }
    (s 0x5000 true).msg 9 = some (m 0x5000 true) ∧ (s 0x5000 true).thr 5 0 = some t ∧ t.uid = 7 ∧
    (s 0x5000 true).walk 0 3 0x5000 .write = .leaf (Config.hostBase + 0x1000) 0xDF 0 48 ∧
    Config.hostBase ≤ (s 0x5000 true).fromHost 0 3 (0 + 0x5000 % 2 ^ 48) ∧
    (s (2 ^ 48 + 0x200000) false).walk 0 3 (2 ^ 48 + 0x200000) .read = .leaf (Config.hostBase + 0x1008) (0xDF + 2 ^ 48) (2 ^ 50) 48 ∧
    (s (2 ^ 48 + 0x200000) false).fromHost 0 3 (2 ^ 50 + 0x200000) = 0x200000 ∧
    (let l := walker (b 0x200000 false) (framed (paged2 {}))
     l.walk 0 3 0x200000 .read = .leaf (Config.hostBase + 0x1008) (2 ^ 48 + 0x800DF) (2 ^ 50 + 0x200000) 21 ∧ l.msg 9 = some (m 0x200000 false) ∧
     l.fromHost 0 3 (2 ^ 50 + 0x200000 + 0x200000 % 2 ^ 21) = 0x200000 ∧ fatState (l.fat 0 1) = 1 ∧ fatTen (l.fat 0 1) = 3 ∧ l.thr 5 0 = some t) ∧
    n.recordsFull 5 = false ∧
    n.walk 0 3 0x5000 .write = .page ∧ t.chunk = none ∧ (∀ e < 256, n.pagePending 0 e = false) ∧ full.walk 0 3 0x5000 .write = .page ∧
    full.msg 9 = some (m 0x5000 true) ∧ (m 0x5000 true).stage = .arrived ∧
    { m 0x5000 true with stage := .wait 64 }.stage = .wait 64 ∧ n.hub.writes = [] := by
  and_intros <;> first | decide +kernel | rfl

theorem test_witness_PrefetchWalks :
    let d := paged2 (framed (issue (thread 0x200000 2 3) {}))
    let h := paged (issue (thread 0x200000 2 3) {})
    let f := { am 0 with sc := 9 }
    let c := d.firstSlice 5 0x200000
    ptrAddr (d.ea f 1) = 0x200000 ∧ ptrAddr (h.ea f 1) = 0x200000 ∧ d.translate 5 3 0x200000 .read = .walk ∧ h.translate 5 3 0x200000 .read = .walk ∧
    (match d.walkDone c 3 0x200000 .read with
      | .ok w => w.translate 5 3 0x200000 .read == .pa 0x200000 && isDevice 0x200000
      | _ => false) = true ∧
    (match h.walkDone (h.firstSlice 5 0x200000) 3 0x200000 .read with
      | .ok w => w.translate 5 3 0x200000 .read == .pa (Config.hostBase + 0x200000) && !isDevice (Config.hostBase + 0x200000)
      | _ => false) = true := by
  and_intros <;> first | decide +kernel | rfl

theorem test_witness_PageEventsAnswers :
    let s : State := { put64 {} (pageReq 3 255 1) (2 ^ 32 + 2 ^ 7 + 3) with
      threads := [(80, { thread 1 2 3 with st := .waiting .walk false })], dies := [(3, { pageWaiters := [(255, [.thread 5 0 7])] })] }
    s.pagePending 3 255 = true ∧ s.thr 5 0 = some { thread 1 2 3 with st := .waiting .walk false } ∧
    Tab.findD (s.die 3).pageWaiters 255 [] = [.thread 5 0 7] ∧ 5 % 4 = 1 ∧ 2 % 4 = 2 ∧ 3 % 4 = 3 ∧ s.pagePending 3 254 = false := by
  and_intros <;> first | decide +kernel | rfl

theorem test_witness_FramesAndShootdowns :
    let used := fun (s : State) (t : Nat) => (s.mem64 (tenRec 3 t 2)).toNat / 2 ^ 34 % 2 ^ 17
    let s := fun (q u e : Nat) => put64 (put64 {} (tenRec 3 63 2) (u * 2 ^ 34 + q * 2 ^ 17)) (fatAddr 3 (Config.frames - 2)) e
    let v : Word := BitVec.ofNat 64 (2 ^ 34 + 63 * 2 ^ 27)
    let f := Config.frames - 2
    f + 1 < Config.frames ∧ ((s 1 0 0).fat 3 f).toNat / 2 ^ 34 % 4 = 0 ∧ v.toNat / 2 ^ 34 % 4 = 1 ∧ v.toNat / 2 ^ 27 % 2 ^ 6 = 63 ∧
    used (s 1 0 0) 63 < ((s 1 0 0).mem64 (tenRec 3 63 2)).toNat / 2 ^ 17 % 2 ^ 17 ∧ ((s 1 1 0).mem64 (tenRec 3 63 2)).toNat / 2 ^ 17 % 2 ^ 17 ≤ used (s 1 1 0) 63 ∧
    ((s 1 1 (2 ^ 34)).fat 3 f).toNat / 2 ^ 34 % 4 = 1 ∧ v.toNat / 2 ^ 27 % 2 ^ 6 ≠ ((s 1 1 (2 ^ 34)).fat 3 f).toNat / 2 ^ 27 % 2 ^ 6 ∧
    (let e := 2 ^ 34 + 63 * 2 ^ 27
     ((s 1 1 e).fat 3 f).toNat / 2 ^ 34 % 4 = 1 ∧ v.toNat / 2 ^ 27 % 2 ^ 6 = ((s 1 1 e).fat 3 f).toNat / 2 ^ 27 % 2 ^ 6) ∧ (BitVec.ofNat 64 (2 ^ 35) : Word).toNat / 2 ^ 34 % 4 = 2 ∧
    ((s 1 1 (2 ^ 35)).fat 3 f).toNat / 2 ^ 34 % 4 = 2 ∧ f ∈ (({ s 1 1 (2 ^ 35) with dies := [(3, { scrubs := [f] })] } : State).die 3).scrubs ∧
    ({ s 1 1 (2 ^ 35) with dies := [(3, { scrubs := [f] })] } : State).saving (256 * 3 + f % 256) = false ∧
    1 ≤ used (s 1 1 (2 ^ 35)) 0 + 1 ∧ 1 ≤ used (put64 (s 1 1 (2 ^ 35 + 63 * 2 ^ 27)) 0 0) 63 ∧ f ∉ ((s 1 1 (2 ^ 35)).die 3).scrubs ∧
    (let c := { chunkOf (thread 4 5 6) with count := 1 }
     let t := { thread 1 2 3 with chunk := some c }
     let q : State := { threads := [(80, t)], hub := { shoots := [{ ten := 3, word := 0x600000, val := 5, mark := 9 }] } }
     let x := { mail (.access 0 8 0 .load) with id := 5 }
     Tab.find q.threads 80 = some t ∧ bindTen t.bind = 3 ∧ t.chunk = some c ∧ (q.threads.map (·.1)).Nodup ∧ q.accessBefore 3 9 = false ∧
     ({ q with net := [x] } : State).accessBefore 3 9 = true) := by
  and_intros <;> first | decide +kernel | rfl

/-- The value, where there is one. -/
def got {ε α : Type} [Inhabited α] (e : Except ε α) : α :=
  match e with
  | .ok x => x
  | .error _ => default
/-- Words of memory in a row. -/
def putWords (s : State) (a : Nat) : List Nat → State
  | [] => s
  | w :: l => putWords (put64 s a w) (a + 8) l
/-- A submission by the thread of core 6 slot 1 of the record that the pointer names and that lies at an address, its save table at 0x9000, its code at 0x4000, one save extent. -/
def submittedAt (ptr : Word) (a : Nat) : State :=
  let rec_ := [0x4000, 0, 7 * 2 ^ 32 + 2, 8 * 2 ^ 32 + 3 * 2 ^ 25 + 2 ^ 23 + 2 ^ 19 + 5, 0, 2 ^ 39 + 65536, 256 * 2 ^ 38, 0x3001, 0, 0, 0, 0, 0x9000]
  { putWords (put64 (put64 (paged {}) (Config.hostBase + 0x3FC0) (0x434F424A * 2 ^ 32)) (Config.hostBase + 0x9000) (2 ^ 63 + 256))
      a rec_ with
    net := [mail (.launch ptr 3 1 none)], threads := [(97, { thread 1 2 3 with uid := 8 })], cores := [(5, tenanted {})], fresh := 40 }

/-- The same, the record at 0x8000 of shared virtual memory. -/
def submitted : State := submittedAt 0x8000 (Config.hostBase + 0x8000)

theorem test_witness_LaunchEventsSubmission :
    let x := fun (p : Word) (cls : Nat) => mail (.launch p 3 cls none)
    let far : Word := BitVec.ofNat 64 (0x1F3 * 2 ^ 48)
    let n := { submitted with net := [x far 1] }
    let s := submitted
    let bs := got (s.hubRead 3 0x8000 192)
    let l : Launch := { num := 0, words := wordsOf bs 24, ptr := 0x8000 }
    let s1 := s.hubUsed 3 0x8000 192 .read
    let s2 := s1.hubUsed l.ten (l.w 12) 8192 .read
    let head := BitVec.ofNat 64 (ptrAddr (s2.entryCode l.ten (l.w 0) l.hk) - 64)
    let s3 := s2.hubUsed l.ten head 64 .read
    let hd := got (s2.hubRead l.ten head 64)
    s.arrived 9 = some (x 0x8000 1) ∧ s.recordsFull 6 = false ∧ (thread 1 2 3).st = .runnable ∧ s.localOf 6 3 0x8000 192 = none ∧
    ptrAddr 0x8000 < 2 ^ 56 ∧ n.localOf 6 3 far 192 = none ∧ s.bound (x 0x8000 1).org = some { thread 1 2 3 with uid := 8 } ∧
    s.launchOf (x 0x8000 1).org.bind = none ∧ n.arrived 9 = some (x far 1) ∧
    (match n.hubRead 3 far 192 with | .error (some _) => true | _ => false) = true ∧
    okIs (s.hubRead 3 0x8000 192) bs = true ∧ l.w 4 = 0 ∧ l.w 12 ≠ 0 ∧ (s1.hubRead l.ten (l.w 12) 8192).isOk = true ∧
    okIs (s2.hubRead l.ten head 64) hd = true ∧ okIs (s3.hubPa l.ten (ptrAddr (0x8000 + 88)) .write) (Config.hostBase + 0x8058) = true ∧
    s3.reasonFor l 3 1 false [] hd = 0 ∧ s3.reasonFor l 3 2 false [] hd = 2 := by
  and_intros <;> first | decide +kernel | rfl

theorem test_witness_LaunchEventsLocal :
    let p := loc 0x100
    let s := submittedAt p (localPa 6 0x100)
    let bs := Mem.readRuns s.mem (s.locRuns 6 0x100 192)
    let l : Launch := { num := 0, words := wordsOf bs 24, ptr := p, home := some (6, 0x100) }
    let s2 := s.hubUsed l.ten (l.w 12) 8192 .read
    let head := BitVec.ofNat 64 (ptrAddr (s2.entryCode l.ten (l.w 0) l.hk) - 64)
    let hd := got (s2.hubRead l.ten head 64)
    s.arrived 9 = some (mail (.launch p 3 1 none)) ∧ s.localOf 6 3 p 192 = some (6, 0x100) ∧ l.w 4 = 0 ∧ l.w 12 ≠ 0 ∧
    (s.hubRead l.ten (l.w 12) 8192).isOk = true ∧
    okIs (s2.hubRead l.ten head 64) hd = true ∧ (s2.hubUsed l.ten head 64 .read).reasonFor l 3 1 false [] hd = 0 := by
  and_intros <;> first | decide +kernel | rfl

theorem test_witness_LaunchEventsIntake :
    let w : List Word := [BitVec.ofNat 64 (5 * 2 ^ 19 + 31 * 2 ^ 14 + 9), 1, 2, 3, 4, 0, 0, 0]
    let h := (w.getD 0 0).toNat
    let s : State := { hub := { mask := [(0, 0x200)], funcs := [3] }, fresh := 40 }
    let x := { mail (.chan 31 job 5 7 true) with src := 16384, dst := 9, stage := .wait 64 }
    let q : State := { s with net := [x], cycle := 64 }
    let v := { launch3 with words := launch3.words.set 14 (BitVec.ofNat 64 (2 ^ 57 + 0x600000)) |>.set 15 7 |>.set 16 (BitVec.ofNat 64 (2 ^ 58 + 0x600000)) |>.set 17 15 }
    let d := put64 (paged (taken [v] {})) (Config.hostBase + 0x600000) 0x18007
    w.length = 8 ∧ h < 2 ^ 22 ∧ w.getD 5 0 = 0 ∧ w.getD 6 0 = 0 ∧ w.getD 7 0 = 0 ∧ s.isOffice (h % 2 ^ 14) = true ∧ 3 ∈ s.hub.funcs ∧
    s.undelivered 3 < 64 ∧ ¬ (w ++ [0]).length = 8 ∧ q.msg 9 = some x ∧ x.stage = .wait 64 ∧ q.direct x = false ∧
    d.launch 30 = some v ∧ v.depKind 2 = 0 ∧ v.depKind 0 = 1 ∧ v.depKind 1 = 2 ∧ 0 ∉ v.met ∧ (v.w 15).toNat ≤ 0x18007 ∧
    okIs (d.hubRead v.ten (BitVec.ofNat 64 ((v.w 14).toNat % 2 ^ 57)) 8) [7, 0x80, 1, 0, 0, 0, 0, 0] = true ∧
    okIs (d.hubRead v.ten (BitVec.ofNat 64 ((v.w 16).toNat % 2 ^ 57) + BitVec.ofNat 64 ((0 + (v.w 17).toNat) / 8)) 1) [0x80] = true := by
  and_intros <;> first | decide +kernel | rfl

/-- A launch that stops on core 5, whose slot 0 holds its thread and slot 1 another launch's, of which the core's grant may be. -/
def stopping (st : Status) (own : Bool) : State :=
  let k : Core := if own then { grant := some { launch := 30, lid := 7, ten := 3, lmem := 65536, acc := 0 } } else {}
  let mine := { thread 1 2 3 with bind := BitVec.ofNat 64 (7 * 2 ^ 32 + 0x0C000000), st := st }
  let s := issue mine k (taken [{ launch3 with st := .stopping [5] }] {})
  { s with threads := s.threads ++ [(81, thread 4 5 6)], mem := [(localPa 5 7, 9)], fresh := 40 }

theorem test_witness_LaunchEventsPreemption :
    let l := { launch3 with st := .stopping [5] }
    let mine := fun (st : Status) => { thread 1 2 3 with bind := BitVec.ofNat 64 (7 * 2 ^ 32 + 0x0C000000), st := st }
    let r := stopping .runnable false
    let p := stopping .halted false
    let own := stopping .parked true
    let v : SavedCore := { core := 5, whole := false, threads := [(0, { mine .halted with stopAt := true })], img := {}, cells := [], full := [], lean := [], gang := false, port := [] }
    let saved := { launch3 with st := .saved, saved := [v] }
    let q := taken [saved] {}
    r.launch 30 = some l ∧ l.num = 30 ∧ l.st = .stopping [5] ∧ 6 ∉ [5] ∧ r.dies = [] ∧ r.datapath 5 = none ∧ r.thr 5 0 = some (mine .runnable) ∧
    r.stopped l 5 (mine .runnable) = true ∧ r.thr 5 1 = some (thread 4 5 6) ∧ r.stopped l 5 (thread 4 5 6) = false ∧
    (∀ k < 16, ((p.thr 5 k).all fun t => !p.stopped l 5 t || t.st == .parked || t.st == .halted) = true) ∧ p.grantIs 5 30 = false ∧
    p.drained 5 ((Tab.find l.marks 5).getD p.fresh) = true ∧ own.grantIs 5 30 = true ∧ (own.core 5).atCursors = true ∧ own.drained 5 ((Tab.find l.marks 5).getD own.fresh) = true ∧
    own.thr 5 0 = some (mine .parked) ∧ own.stopped l 5 (thread 4 5 6) = true ∧ 7 < l.lmem ∧ fld (l.w 6) 0 19 + fld (l.w 6) 19 19 ≤ 7 ∧
    ({ p with net := [{ mail (.post 0 1 0x7C 0) with id := 39, dst := 5, stage := .flits }] } : State).drained 5 ((Tab.find l.marks 5).getD 40) = false ∧
    q.launch 30 = some saved ∧ q.nextResume = some saved ∧ saved.saved = [v] ∧ v.threads = [(0, { mine .halted with stopAt := true })] ∧ v.whole = false ∧ v.img.parks = [] ∧
    p.nextResume = none := by
  and_intros <;> first | decide +kernel | rfl

/-- Core 6's post to core 53 of cluster 3 as a flit. -/
def flit : Flit := { msg := 9, idx := 0, src := 6, dst := 53, ten := 3, exit := 3 }
/-- A ring stop as given, with the post and core 53. -/
def ringed (p : Nat) (q : Stop) (k : Core := {}) : State :=
  { net := [{ mail (.post 0 1 0x7C 0) with dst := 53, stage := .flits, left := 1 }], stops := [(p, q)], cores := [(53, k)], cycle := 1024 }

theorem test_witness_Fabric :
    let go := { flit with exit := 5, dst := 80 }
    let s := ringed 3 { cw := [flit] }
    let full := ringed 3 { ccw := [{ flit with ccw := true }] } { rtable := List.range' 100 32 }
    let i := fun (c : Nat) => ringed 3 { inject := [{ flit with dst := c }], waited := 128 }
    let out : State := { i 80 with net := { mail (.post 0 1 0x7C 0) with stage := .flits } :: (List.range 256).map fun n => { mail (.post 0 1 0x7C 0) with id := 10 + n, num := some n } }
    (s.stop 3).inject = [] ∧ (s.stop 3).tapIn = [] ∧ flit.at_ ≤ s.cycle ∧ (s.stop 3).cw = [flit] ∧ (s.stop 3).ccw = [] ∧ flit.exit = 3 ∧ flit.tap = false ∧
    (s.stop 3).turned ≠ some s.cycle ∧ ((ringed 3 { turned := some 1024 }).stop 3).turned = some (ringed 3 {}).cycle ∧ s.tabled flit = true ∧
    (let q := { s with net := [{ mail (.bulk 1 2 true []) with dst := 53, stage := .flits, left := 1 }] }
     q.tabled flit = false ∧ (q.msg flit.msg).isSome = true) ∧
    (s.msg flit.msg).isSome = true ∧ (s.core flit.dst).rtable.length < 32 ∧ ((ringed 3 { ccw := [go] }).stop 3).ccw = [go] ∧ go.exit ≠ 3 ∧
    32 ≤ (full.core flit.dst).rtable.length ∧ flit.msg ∉ (full.core flit.dst).rtable ∧
    ((i 80).stop 3).inject = [{ flit with dst := 80 }] ∧ (Body.post 0 1 0x7C 0).costs = false ∧ ((i 80).stop 3).throt = false ∧
    exitOf (i 80).modid 3 0 80 = (5, false) ∧ (5 + 32 - 3) % 32 = 2 ∧ exitOf (i 496).modid 3 0 496 = (31, false) ∧ (31 + 32 - 3) % 32 = 28 ∧
    (i 80).msgid { flit with dst := 80 } ≠ none ∧ (i 496).msgid { flit with dst := 496 } ≠ none ∧ ((i 80).stop 3).turned ≠ some 1024 ∧
    (out.stop 3).inject = [{ flit with dst := 80 }] ∧ out.msgid { flit with dst := 80 } = none ∧ (s.stop 3).windowAt ≠ some s.cycle ∧
    ((ringed 3 { windowAt := some 1024 }).stop 3).windowAt = some (ringed 3 {}).cycle ∧ (s.core 53).refillAt ≠ some s.cycle ∧
    ((ringed 3 {} { refillAt := some 1024 }).core 53).refillAt = some 1024 ∧
    (i 80).heldBack 3 false = false ∧ (i 496).heldBack 3 true = false ∧ 128 ≤ ((i 80).stop 3).waited ∧ (s.stop 3).waited < 128 ∧
    s.cycle % 1024 = 0 ∧ ¬ ({ s with cycle := 1025 } : State).cycle % 1024 = 0 ∧ s.hub.sharesAt ≠ some s.cycle := by
  and_intros <;> first | decide +kernel | rfl

/-- The post of core 6 in flits, with its thread, and core 53 as given. -/
def posting (m : Msg) (k : Core := {}) : State :=
  { net := [{ m with dst := 53, stage := .flits }], threads := [(97, { thread 1 2 3 with uid := 8 })], cores := [(53, { k with landed := [9], rtable := [9] })], cycle := 2 ^ 20 }
/-- A flit in a buffer, as given. -/
def buffered (q : Nat) (f : Flit) (b : Buf := {}) (s : State := posting { mail (.post 0 1 0x7C 0) with left := 1 }) : State :=
  { s with bufs := [(q, { b with q := [f] })] }

theorem test_witness_MessagesAndLinks :
    let post := mail (.post 0 1 0x7C 0)
    let ld := { mail (.access 0x3FFFF8 8 0 .load) with poisoned := true, left := 1 }
    let s := posting { post with left := 2 }
    let a := asker
    let asks := { posting ld with threads := [(97, a)] }
    let w : State := { threads := [(80, { thread 1 2 3 with st := .waiting .reply false, acc := some { id := 9, addr := 0, since := 0, ans := .none } })], cycle := 2 ^ 20 }
    let c := { mat (.mma (vf 16 17 18 0)) with started := true, begun := true }
    let e := { engines [c] with cycle := 2 ^ 20, net := [{ mail (.bulk 30 1 false []) with stage := .flits }] }
    let st := { mail (.access 0x3FFFF8 8 0 (.store 7)) with poisoned := true, left := 1 }
    let far := { flit with dmod := 5 }
    (s.core 53).landed = 9 :: [] ∧ s.msg 9 = some { post with left := 2, dst := 53, stage := .flits } ∧ 1 < 2 ∧ ld.left ≤ 1 ∧ ld.poisoned = true ∧ (posting st).msg 9 = some { st with dst := 53, stage := .flits } ∧ st.poisoned = true ∧ st.left ≤ 1 ∧ post.poisoned = false ∧
    asks.bound ld.org = some a ∧ a.acc = some { id := 9, addr := 0, since := 0, ans := .none } ∧ (({} : State).core 53).landed = [] ∧
    post.born + 2 ^ 20 ≤ s.cycle ∧ (posting { post with born := 1 }).cycle < 1 + 2 ^ 20 ∧ s.bound post.org = some { thread 1 2 3 with uid := 8 } ∧
    s.launchOf post.org.bind = none ∧
    (w.thr 5 0).isSome = true ∧ 0 + 2 ^ 20 ≤ w.cycle ∧ ({ w with cycle := 5 } : State).cycle < 0 + 2 ^ 20 ∧
    e.cmdAnywhere 30 = some (5, c) ∧ c.instr = .mma (vf 16 17 18 0) ∧ c.done = false ∧ c.halted = none ∧ c.lanes = [] ∧ c.back = none ∧ c.begun = true ∧
    c.started = true ∧ e.coreFrozen 5 = false ∧ e.recordsFull 5 = false ∧ s.recordsFull 6 = false ∧ c.from_ = none ∧
    e.bulkLate 30 = true ∧ e.cmd 5 c.id = some c ∧ ({ e with cycle := 5 } : State).bulkLate 30 = false ∧
    0 < ((buffered 0 flit { owed := 1 }).buf_ 0).owed ∧ ((buffered 0 flit).buf_ 0).owed = 0 ∧ ((buffered 0 flit).buf_ 1).q = [] ∧
    ((buffered 15 flit).buf_ 15).q = flit :: [] ∧ flit.dmod = s.modid ∧ 16384 ≤ { flit with dst := 16385 }.dst ∧ flit.dst < 16384 ∧
    0 < ((buffered 48 flit).buf_ 16).credits ∧ ((buffered 48 flit).buf_ 16).last ≠ some (buffered 48 flit).cycle ∧
    (({ buffered 48 flit with bufs := [(48, { q := [flit] }), (16, { credits := 0 })] } : State).buf_ 16).credits = 0 ∧
    far.dmod ≠ s.modid ∧ s.linksTo far.dmod = [] ∧ ((buffered 47 far).buf_ 47).pause ≤ 2 ^ 20 ∧
    (buffered 47 far).cycle < ((buffered 47 far { pause := 2 ^ 20 + 1 }).buf_ 47).pause ∧
    (BitVec.ofNat 64 65 : Word).getLsbD 6 = true ∧ 63 ≠ ({ hub := { modid := 65 } } : State).modid ∧ s.hub.modid.getLsbD 6 = false ∧
    1 = ({ hub := { modid := 65 } } : State).modid ∧ post.org.away = none ∧
    (let n : State := { s with net := [{ post with stage := .away }], agenda := [.peerRefuses 9 2] }
     n.agenda = .peerRefuses 9 2 :: [] ∧ n.offered 9 = some { post with stage := .away } ∧ n.bound post.org = some { thread 1 2 3 with uid := 8 }) := by
  and_intros <;> first | decide +kernel | rfl

theorem test_witness_HostAccesses :
    let f := framed {}
    let n := 4 * Config.dieBytes
    let x : Stream := { e := 65535 }
    let s := fun (x : Stream) => { f with hub := { streams := [(16 * 63 + 15, x)] }, cycle := 2 ^ 20 }
    f.windowMapped 0x3FFFF8 8 = true ∧ f.windowMapped 0x400000 8 = false ∧ f.windowMapped (n - 4) 8 = false ∧ n < 2 ^ 48 ∧ f.poisoned 0x3FFFF8 8 = false ∧
    ((s x).stream 63 15).broken = false ∧ ((s x).stream 64 15).broken = false ∧ ((s x).stream 64 15).held = [] ∧ (65535 + 2 ^ 16 - 65535) % 2 ^ 16 = 0 ∧ ((s x).stream 63 15).held = [] ∧
    (254 + 2 ^ 16 - 65535) % 2 ^ 16 = 255 ∧ (255 + 2 ^ 16 - 65535) % 2 ^ 16 = 256 ∧ (s x).heldWrites < 1024 ∧
    ((s { x with broken := true }).stream 63 15).broken = true ∧ ((s { x with held := [(0, 0, [1])] }).stream 63 15).held ≠ [] ∧
    0 + 2 ^ 20 ≤ (s x).cycle ∧ (s x).cycle < 1 + 2 ^ 20 ∧ (f.hub.staged.map (·.1)).Nodup ∧ 4 ≠ 8 := by
  and_intros <;> first | decide +kernel | rfl

theorem test_witness_BootEvents :
    let s := fun (h : Hub) => ({ hub := h, cycle := 2 ^ 34 } : State)
    ((s {}).hub.stage = 0 ∧ (s {}).hub.failed = false) ∧ ((s { stage := 1 }).hub.stage = 1 ∧ (s { stage := 1 }).hub.failed = false) ∧
    (s { failed := true, stage := 1, fails := 3 }).hub.failed = true ∧ ¬ ((s {}).hub.lc < 2 ∧ 2 ≤ 3) ∧ ((s { lc := 1 }).hub.lc < 2 ∧ 2 ≤ 3 ∧ 2 ≠ 3) ∧
    ((s {}).hub.lc < 3 ∧ 3 ≤ 3) ∧ ((s { stage := 2 }).hub.stage = 2 ∧ (s { stage := 2 }).hub.released = false) ∧
    (s { stage := 2, released := true }).hub.stageSince + 2 ^ 34 ≤ (s {}).cycle ∧ (s {}).cycle < (s { stageSince := 1 }).hub.stageSince + 2 ^ 34 ∧
    (s { stage := 3 }).hub.stage = 3 ∧ (s { stage := 3 }).hub.min = false ∧ (s { min := true }).hub.min = true ∧ (s {}).hub.stageSince + 2 ^ 24 ≤ (s {}).cycle ∧
    (s {}).cycle < (s { stageSince := 2 ^ 34 }).hub.stageSince + 2 ^ 24 ∧ (s { stage := 3 }).hub.stage < 4 ∧ 4 ≤ (s { stage := 4 }).hub.stage ∧
    (s { stage := 4 }).hub.stage ≠ 0 := by
  and_intros <;> first | decide +kernel | rfl

theorem test_witness_BackgroundEvents :
    let x := vaultLine 1023 (384 * 32768 - 1) / 32 + 1
    let w : State := { clusters := [(1023, { scrubbed := some 0 })], cores := [(16383, { scrubbed := some 0 })] }
    let g : State := buffered 48 flit
    let v : State := { clusters := [(1023, { scrubAt := 384 * 32768 - 1 })], upsets := [x] }
    let b := mail (.scrub 0x40 [1, 2])
    let k : State := { cores := [(16383, { scrubAt := 6143 })], upsets := [accAddr 16383 (64 * (6143 - 4096)) / 32] }
    let a := accAddr 16383 (64 * (6143 - 4096)) / 32
    let d := mail (.durable Config.durBase [1, 2] 2)
    let s : State := { issue (thread 1 2 3) with net := [d] }
    v.saving 1023 = false ∧ (v.cluster 1023).scrubbed ≠ some (v.cycle / 1024) ∧ (w.cluster 1023).scrubbed = some (w.cycle / 1024) ∧
    (w.core 16383).scrubbed = some (w.cycle / 1024) ∧ (k.core 16383).scrubbed ≠ some (k.cycle / 1024) ∧ (g.msg 9).isSome = true ∧
    g.onFabric 9 0 = true ∧ g.onFabric 9 1 = false ∧ v.upsets = [x] ∧ (∃ j < 16, x = vaultLine 1023 ((v.cluster 1023).scrubAt + j) / 32 ∨ x = vaultLine 1023 ((v.cluster 1023).scrubAt + j) / 32 + 1) ∧
    (mailed b).arrived 9 = some b ∧ (k.core 16383).scrubAt % 6144 = 6143 ∧ a ∈ k.upsets ∧ a + 1 ∉ k.upsets ∧ s.thr 5 0 = some (thread 1 2 3) ∧
    s.msg 9 = some d ∧ d.stage = .arrived ∧ s.launchOf d.org.bind = none ∧ Config.hostBase ≤ Config.durBase ∧ d.id ∈ [9] ∧
    (∀ i < 16, ({} : State).coreEmpty (16 * 3 + i) = true ∧ (({} : State).core (16 * 3 + i)).cmds = []) ∧ s.coreEmpty (16 * 0 + 5) = false := by
  and_intros <;> first | decide +kernel | rfl | exact ⟨0, by decide, .inr (by decide +kernel)⟩

/-! ### The spec's own worked examples -/

/-- R166: the bundle of the worked example, ?p2 addi g5, g5, 16 with vadd.f32 v3, v1, -v2, in its sixteen bytes. -/
theorem test_spec_bundle_bytes :
    let s : State := { mem := Mem.writeN [] 0x1000 [0x00, 0x80, 0x00, 0x00, 0x00, 0x50, 0x25, 0x20, 0x00, 0x80, 0x00, 0x14, 0x20, 0x80, 0x01, 0x01] }
    decodeA (s.mem64 0x1000) = .ok (.addi { ai 16 with pg := 2, rd := 5, ra := 5 }) ∧
    decodeV (s.mem64 0x1008) = .ok (.vadd { vf 3 1 2 8 with nb := true }) := by and_intros <;> rfl

/-- Words of slot A that the chapters and the worked programs write out: barinit 5, 16; spec g6, g2, g3; callh g4; reth; hinfo g5, g4, 2;
route g8, g2, g3; rhome g8, g3; rcommit g6, g9, g10; afetch.rel g4; ldfk g6, [g7+0]; bcmp.eq g6, g0, six bundles on; shset.add h5, g9, 0;
loop g6, two bundles back; ldp g6, [g7+0x20]; ori g4, g4, 0x400000; exit under p1 inverted; hrel g10. -/
theorem test_spec_words_a :
    decodeA 0x9000000000202800 = .ok (.barinit { ai 0x405 with rd := 0, ra := 0 }) ∧
    decodeA 0xB006218000000000 = .ok (.spec { ar with rd := 6, ra := 2, rb := 3 }) ∧
    decodeA 0xB100400000000000 = .ok (.callh { ar with rd := 0, ra := 4, rb := 0 }) ∧
    decodeA 0xB200000000000000 = .ok (.reth { ar with rd := 0, ra := 0, rb := 0 }) ∧
    decodeA 0xB405400200000000 = .ok (.hinfo { ar with rd := 5, ra := 4, rb := 0, fn := 2 }) ∧
    decodeA 0xA108218000000000 = .ok (.route { ar with rd := 8, ra := 2, rb := 3 }) ∧
    decodeA 0xA200818000000000 = .ok (.rhome { ar with rd := 0, ra := 8, rb := 3 }) ∧
    decodeA 0xA306950000000000 = .ok (.rcommit { ar with rd := 6, ra := 9, rb := 10 }) ∧
    decodeA 0xA600400100000000 = .ok (.afetchRel { ar with rd := 0, ra := 4, rb := 0, fn := 1 }) ∧
    decodeA 0x5D06700180000000 = .ok (.ldfk { am 3 with rd := 6, ra := 7, sc := 0 }) ∧
    decodeA 0x4100600000000006 = .ok (.bcmp { ab 0 6 with rd := 0, ra := 6, rb := 0 }) ∧
    decodeA 0x5905900000000001 = .ok (.shset { ai 0 1 with rd := 5, ra := 9 }) ∧
    decodeA 0x47060000FFFFFFFE = .ok (.loop { ab 0 0xFFFFFFFE with rd := 6, ra := 0, rb := 0 }) ∧
    decodeA 0x5506700E00000020 = .ok (.ldp { am 4 with rd := 6, ra := 7, sc := 3, off := 0x20 }) ∧
    decodeA 0x2304400200000000 = .ok (.ori { ai 0x400000 with rd := 4, ra := 4 }) ∧
    decodeA 0x8A90000000000000 = .ok (.exit { ar with pn := true, pg := 1, rd := 0, ra := 0, rb := 0 }) ∧
    decodeA 0xB300A00000000000 = .ok (.hrel { ar with rd := 0, ra := 10, rb := 0 }) := by and_intros <;> rfl

/-- Words of slot V that the chapters and the worked programs write out: vfma.bf16.rtz v4.relu, -v1, g6; vcompact.f32 h2, h0, h1, t1;
mclr h7, t3; vnz.f16 h1, h0, t1; mma h7, h5, h6, t3; macc.b.f16 h9, h7, h8, t4. -/
theorem test_spec_words_v :
    decodeV 0x0402403000006261 = .ok (.vfma { vf 4 1 0 6 with dcl := 2, na := true, rm := 1, gs := 6, fn := 1 }) ∧
    decodeV 0x4509020088018000 = .ok (.vcompact { vf 18 16 17 8 with tag := 1 }) ∧
    decodeV 0x640B800000030000 = .ok (.mclr { vf 23 0 0 0 with tag := 3 }) ∧
    decodeV 0x4408820000017000 = .ok (.vnz { vf 17 16 0 7 with tag := 1 }) ∧
    decodeV 0x600B82A0B0030000 = .ok (.mma { vf 23 21 22 0 with tag := 3 }) ∧
    decodeV 0x630C82E0C0047001 = .ok (.macc { vf 25 23 24 7 with tag := 4, fn := 1 }) := by and_intros <;> rfl

/-! ### Ill-formed halves: one for each check -/

/-- R49, R61, R158, R161, R162, R165, R167, R168, R173, R182, R184, R187, R211, R222, R234, R246, R258 to R260, R267, R268, R273, R274, R285,
R287: a half that breaks a check is not well-formed. -/
theorem test_wf_refuses_a :
    Instr.wf (.clz { ar with rb := 2 }) = false ∧ Instr.wf (.add { ar with fn := 1 }) = false ∧ Instr.wf (.rdsys { ai 0 with ra := 1 }) = false ∧
    Instr.wf (.rdsys { ai 9 with ra := 0 }) = false ∧ Instr.wf (.sext (ai 65)) = false ∧ Instr.wf (.zext (ai 0)) = false ∧
    Instr.wf (.bfx (ai (2 * 64 + 63))) = false ∧ Instr.wf (.bfi (ai 8192)) = false ∧ Instr.wf (.bfx (ai 64 2)) = false ∧ Instr.wf (.shli (ai 64)) = false ∧
    Instr.wf (.lih { pn := false, pg := 0, rd := 1, imm := 65536 }) = false ∧ Instr.wf (.cmp { ar with rd := 9 }) = false ∧
    Instr.wf (.cmpi (ai 0 10)) = false ∧ Instr.wf (.pand { ar with rb := 8 }) = false ∧ Instr.wf (.csel { ar with fn := 16 }) = false ∧
    Instr.wf (.pfmt (ai (4 * 16 + 12))) = false ∧ Instr.wf (.pfmt (ai 15)) = false ∧ Instr.wf (.br { ab 1 0 with rd := 0, ra := 0, rb := 0 }) = false ∧
    Instr.wf (.bcmp { ab 10 0 with rd := 0 }) = false ∧ Instr.wf (.loop { ab 0 0 with rd := 0, ra := 0, rb := 0 }) = false ∧
    Instr.wf (.trap { ai 0 with rd := 0, ra := 0, ea := true }) = false ∧ Instr.wf (.ld (am 4)) = false ∧ Instr.wf (.ld { am 3 with ord := 2 }) = false ∧
    Instr.wf (.st { am 3 with ord := 1 }) = false ∧ Instr.wf (.ld { am 3 with sc := 12 }) = false ∧ Instr.wf (.ld { am 3 with eb := true }) = false ∧
    Instr.wf (.ldp { am 4 with rd := 5 }) = false ∧ Instr.wf (.ldv (am 3)) = false ∧ Instr.wf (.ldf { am 3 with sc := 1 }) = false ∧
    Instr.wf (.amoadd { am 1 with rb := 2 }) = false ∧ Instr.wf (.amoadd { am 3 with ord := 4 }) = false ∧ Instr.wf (.fence { am 0 with rd := 0, ra := 0, sc := 12 }) = false ∧
    Instr.wf (.chunk { ai (15 * 32) with rd := 0, ra := 0 }) = false ∧ Instr.wf (.chunk { ai 24 with rd := 0, ra := 0 }) = false ∧
    Instr.wf (.pref { am 0 with rd := 0, sc := 0, hint := 1 }) = false ∧ Instr.wf (.take { ar with ra := 0, rb := 0, fn := 32 }) = false ∧
    Instr.wf (.fork { ar with ra := 0, rb := 2 }) = false ∧ Instr.wf (.barinit { ai (48 + 64) with rd := 0, ra := 0 }) = false ∧
    Instr.wf (.barinit { ai 5 with rd := 0, ra := 0 }) = false ∧ Instr.wf (.gang { ai 2 with rd := 0, ra := 0 }) = false ∧
    Instr.wf (.route { ar with rd := 3 }) = false ∧ Instr.wf (.spec { ar with rd := 0 }) = false ∧ Instr.wf (.hinfo { ar with rb := 0, fn := 4 }) = false := by
  and_intros <;> rfl

theorem test_wf_refuses_v :
    Instr.wf (.vadd { vf 1 2 3 8 with tag := 1 }) = false ∧ Instr.wf (.vadd { vf 1 2 3 8 with rm := 6 }) = false ∧ Instr.wf (.vadd (vf 1 2 3 9)) = false ∧
    Instr.wf (.vadd (vf 1 2 3 4)) = false ∧ Instr.wf (.vadd { vf 1 2 3 8 with u := true }) = false ∧ Instr.wf (.vadd { vf 1 2 3 1 with dcl := 3 }) = false ∧
    Instr.wf (.vadd { vf 1 2 3 8 with gs := 1 }) = false ∧ Instr.wf (.vadd { vf 1 2 3 8 with fn := 1 }) = false ∧ Instr.wf (.vadd { vf 1 2 3 8 with fn := 2 }) = false ∧
    Instr.wf (.vadd { vf 17 2 3 8 with ga := 1 }) = false ∧ Instr.wf (.vand { vf 1 2 3 1 with na := true }) = false ∧ Instr.wf (.vand { vf 1 2 3 1 with dsc := 1 }) = false ∧
    Instr.wf (.vshl { vf 1 2 3 1 with dcl := 2 }) = false ∧ Instr.wf (.vshl (vf 1 2 3 8)) = false ∧ Instr.wf (.vcmp { vf 1 2 3 1 with fn := 6 }) = false ∧
    Instr.wf (.vsplat (vf 1 2 0 8)) = false ∧ Instr.wf (.vmov (vf 1 2 3 8)) = false ∧ Instr.wf (.vext (vf 0 2 16 3)) = false ∧ Instr.wf (.vperm (vf 1 2 19 3)) = false ∧
    Instr.wf (.vrcp (vf 1 2 0 3)) = false ∧ Instr.wf (.vcvt { vf 1 2 0 9 with gs := 8 }) = false ∧ Instr.wf (.vcvt { vf 17 18 0 15 with gs := 8, tag := 1 }) = false ∧
    Instr.wf (.vscale { vf 1 2 0 9 with gs := 1 }) = false ∧ Instr.wf (.vgath (vf 1 2 3 8)) = false ∧ Instr.wf (.vfill (vf 1 0 0 8)) = false ∧
    Instr.wf (.vfill { vf 17 0 0 8 with fn := 3 }) = false ∧ Instr.wf (.vnz (vf 1 2 0 8)) = false ∧ Instr.wf (.mma (vf 18 16 3 0)) = false ∧
    Instr.wf (.mma { vf 18 16 2 0 with fn := 2 }) = false ∧ Instr.wf (.mma (vf 18 16 17 8)) = false ∧ Instr.wf (.mma { vf 18 16 17 0 with rm := 1 }) = false ∧
    Instr.wf (.macc { vf 18 16 17 8 with fn := 0 }) = false ∧ Instr.wf (.mld (vf 2 16 0 0)) = false ∧ Instr.wf (.mrot (vf 0 2 0 0)) = false ∧
    Instr.wf (.mseg { vf 18 16 17 0 with fn := 2 }) = false ∧ Instr.wf (.cp (vf 16 3 0 0)) = false ∧ Instr.wf (.cpg { vf 16 17 4 0 with eg := true }) = false := by
  and_intros <;> rfl

/-! ### The spec's worked values, each by one step or one operation -/

/-- The state after. -/
def after (o : Host.Outcome State Fault Refusal) : State :=
  match o with
  | .next u => u
  | _ => {}

/-- R11: core 2.1.0.17.9 is core 0x2519, of cluster 0x251 and gang 0x946. -/
theorem test_coordinate : clusterOf 0x2519 = 0x251 ∧ gangOf 0x2519 = 0x946 := by decide

/-- R26, R27: of the worked example, cycle 51: slots 1 and 12 hold key 41, and slot 1 issues; at cycle 52 slot 12 does, before slot 2. -/
theorem test_rotation :
    let t := fun (q : Nat) => { thread 1 2 3 with key := q, ready := q + 8 }
    let s : State := { threads := [(81, t 41), (82, t 42), (92, { thread 1 2 3 with key := 41, ready := 41 })], cycle := 51 }
    s.pick 5 = some 1 ∧ ({ s with threads := [(81, t 51), (82, t 42), (92, { thread 1 2 3 with key := 41, ready := 41 })], cycle := 52 } : State).pick 5 = some 12 := by
  decide +kernel

/-- R73: the K4 block of the worked example under RNE, with NX alone. -/
theorem test_k4_block :
    encodeK 9 0 false ([.num false 3 0, .num true 3 (-1), .num false 1 (-1), .num false 1 0, .num true 5 (-1), .num false 1 0] ++
      List.replicate 10 (.num false 0 0)) = ([0x80, 0xFA, 0x73, 0xE4, 0, 0, 0, 0], flNX) := by decide +kernel

/-- R105: the home of the worked example's address: core 6 of cluster 0x12, by a mask of clusters 0x10 to 0x13. -/
theorem test_hashed_home :
    ({ mem := [(maskAddr 0 2 + 2, 0x0F)] } : State).homeOf 0x429400000 0x145680 = some (16 * 0x12 + 6) := by decide +kernel

/-- R195: pidx by 48 elements of a K4 pointer with 16 elements a block. -/
theorem test_pidx :
    ((after (Sys2Proof.Machine.exec (.pidx { ar with rd := 4, ra := 2, rb := 3 }) (issue (thread 0 0x9801000000001000 48)))).thr 5 0).map (fun t => t.reg 4) =
      some 0x9801000000001018 := by decide +kernel

/-- R195: of a pointer with 32 elements a block the same count raises the alignment fault. -/
theorem test_pidx_alignment :
    (match (after (exec (.pidx { ar with rd := 4, ra := 2, rb := 3 }) (issue (thread 0 0x9A01000000001000 48)))).ctx.res with
    | .fault f => f.code
    | _ => 0) = 2 := by decide +kernel

/-- R259: vsub.i16 with .sat.x2 on the lanes (20000, -3) and (-7, 2). -/
theorem test_vsub_saturates :
    let t := { thread 1 2 3 with v := ((Vector.replicate 16 0).set 1 0xFFF94E20).set 2 0x0002FFFD }
    (((after (exec (.vsub { vf 5 1 2 2 with dcl := 1, dsc := 1 }) (issue t))).thr 5 0).map fun t => (t.v[5].toNat / 2 ^ 16 % 2 ^ 16, t.v[5].toNat % 2 ^ 16)) =
      some (65536 - 18, 32767) := by decide +kernel

/-- R259: without .sat the first lane wraps to -25530. -/
theorem test_vsub_wraps :
    let t := { thread 1 2 3 with v := ((Vector.replicate 16 0).set 1 0x4E20).set 2 0xFFFD }
    (((after (exec (.vsub { vf 5 1 2 2 with dsc := 1 }) (issue t))).thr 5 0).map fun t => t.v[5].toNat % 2 ^ 16) = some (65536 - 25530) := by decide +kernel

/-- R216: of the worked example, step 4: stf serves the ldfk and the ldf with 9, and the third entry stays parked on an empty word. -/
theorem test_stf_serves :
    let p := fun (n opc : Nat) => ({ org := { core := 5, slot := n, uid := 7 }, acc := n, opc := opc, word := localPa 5 0, data := 0 } : Park)
    let w := fun (n : Nat) => { thread 1 2 3 with st := .waiting (.park (localPa 5 0)) false, acc := some { id := n, addr := 0, since := 0, ans := .none } }
    let s := issue (thread (loc 0) 2 9) { parks := [p 1 0x5D, p 2 0x5C, p 3 0x5D] }
    let u := after (exec (.stf { am 3 with sc := 0 }) { s with threads := s.threads ++ [(81, w 1), (82, w 2), (83, w 3)] })
    let ans := fun (k : Nat) => ((u.thr 5 k).bind fun t => t.acc).map fun a => a.ans
    (u.core 5).parks.map (fun q => q.acc) = [3] ∧ u.isFull (localPa 5 0) = false ∧ u.memNat (localPa 5 0) 8 = 9 ∧ ans 1 = some (.data 9) ∧
    ans 2 = some (.data 9) ∧ ans 3 = some .none := by decide +kernel

/-- R375: word 3 of the worked launch: CSCOPE 7, TEN 4, CLS 2, SD 3, RAD 0, HINT 0; word 5: LMEM 4096. -/
theorem test_launch_record :
    let l : Launch := { num := 0, ptr := 0, words := [0, 0, 13, 0x0000000709180000, 0, 0x0000010000001000] }
    l.cscope = 7 ∧ l.ten = 4 ∧ l.cls = 2 ∧ l.sd = 3 ∧ l.rad = 0 ∧ fld (l.w 3) 0 14 = 0 ∧ l.lmem = 4096 ∧ l.roots = 13 := by decide

/-- R410, of the worked example, cycle 7: the younger flit loses its ejection to the older one and is deflected one hop on, aged 8. -/
theorem test_deflection :
    let p : Flit := { msg := 9, idx := 0, age := 7, src := 48, dst := 165, exit := 10, at_ := 7 }
    let s : State := { stops := [(10, { cw := [p], ccw := [{ p with msg := 8, age := 47, src := 0, ccw := true }] })], cycle := 7
                       net := [{ mail (.post 0 1 0x7C 0) with id := 8 }, { mail (.post 0 1 0x7C 0) with id := 9 }] }
    let u := after (exec (.ringStopCycle 10) s)
    (u.core 165).landed = [8] ∧ (u.stop 11).cw = [{ p with age := 8, at_ := 8 }] := by decide +kernel

/-- R425, of the worked example, the refill before window 2: tenant 1 holds 968 coins and tenant 2 holds 256. -/
theorem test_purse_refill :
    let shares : Tab Word := (List.range 64).map fun t => (16 * t + 13, if t = 1 then 768 else if t = 2 then 256 else 0)
    let now : Tab Nat := (List.range 64).map fun t => (t, if t = 1 then 768 else if t = 2 then 256 else 0)
    let s : State := { hub := { tenants := shares, shares := now }, cycle := 2048, cores := [(5, { purses := [(1, (0, true)), (2, (200, false))] })] }
    let u := after (exec (.purseRefill 5) s)
    u.purse 5 1 = (968, false) ∧ u.purse 5 2 = (256, false) := by decide +kernel

/-- A hart in machine mode whose next bytes, in the local memory of core 5, are those of a word. -/
def hartAt (w n : Nat) (h : Hart := {}) : State :=
  { mem := Mem.writeN [] (localPa 5 0) (bytesOfNat n w), porters := [(5, { hart := { h with pc := BitVec.ofNat 64 (localPa 5 0) } })] }

/-- R361, RISC-V: addi x5, x5, -1 is 0xFFF28293, and c.li x10, -1 is 0x557D; the next instruction is 4 or 2 bytes on. -/
theorem test_hart_runs :
    let a := ((hartAt 0xFFF28293 4 { x := [(5, 7)] }).hartStep 5).hart 5
    let b := ((hartAt 0x557D 2).hartStep 5).hart 5
    a.r 5 = 6 ∧ a.pc = BitVec.ofNat 64 (localPa 5 4) ∧ b.r 10 = BitVec.allOnes 64 ∧ b.pc = BitVec.ofNat 64 (localPa 5 2) := by decide +kernel

/-- R363, RISC-V: csrrwi x0, 0x5C0, 5 (0x5C02D073) writes dvsel; in user mode it is an illegal instruction, cause 2, and mtvec is next. -/
theorem test_hart_dvsel :
    let a := (hartAt 0x5C02D073 4).hartStep 5
    let b := (hartAt 0x5C02D073 4 { priv := 0, csr := [(0x305, 0x1000)] }).hartStep 5
    (a.porter 5).dvsel = 5 ∧ (b.porter 5).dvsel = 0 ∧ (b.hart 5).priv = 3 ∧ (b.hart 5).held 0x342 = 2 ∧ (b.hart 5).pc = 0x1000 ∧
    (b.hart 5).held 0x341 = BitVec.ofNat 64 (localPa 5 0) := by decide +kernel

end Sys2Proof.Tests
end

section
/-! PROOFS. Floating lanes (R54, R72, R264, R265, R267, R273): what the values of the formats say of their patterns, what a NaN operand
gives, which flags a delivery can set, and the conversions of vcvt that are exact or modulo a width. -/

namespace Sys2Proof.Machine

/-! ### Kinds of types -/

theorem isFloat_eq_true {ty : Nat} (h6 : 6 ≤ ty) (h8 : ty ≤ 8) : isFloat ty = true := by
  simp only [isFloat, Bool.and_eq_true, decide_eq_true_eq]; omega

theorem isFloat_eq_false {ty : Nat} (h3 : ty ≤ 3) : isFloat ty = false := by
  simp only [isFloat, Bool.and_eq_false_iff, decide_eq_false_iff_not]; omega

/-! ### Kinds of values under the source modifiers -/

@[simp] theorem Val.isNan_neg (v : Val) : v.neg.isNan = v.isNan := by cases v <;> rfl
@[simp] theorem Val.isNan_abs (v : Val) : v.abs.isNan = v.isNan := by cases v <;> rfl
@[simp] theorem Val.isSig_neg (v : Val) : v.neg.isSig = v.isSig := by cases v <;> rfl
@[simp] theorem Val.isSig_abs (v : Val) : v.abs.isSig = v.isSig := by cases v <;> rfl
@[simp] theorem Val.isZero_neg (v : Val) : v.neg.isZero = v.isZero := by cases v <;> rfl
@[simp] theorem Val.isZero_abs (v : Val) : v.abs.isZero = v.isZero := by cases v <;> rfl

@[simp] theorem Val.scale_zero (v : Val) : v.scale 0 = v := by cases v <;> simp [Val.scale]

/-- A NaN is known by whether it signals. -/
theorem Val.eq_nan_of_isNan {v : Val} (h : v.isNan = true) : v = .nan v.isSig := by
  cases v with
  | nan q => rfl
  | inf n => cases h
  | num n m e => cases h

theorem Val.isSig_of_not_isNan {v : Val} (h : ¬ v.isNan = true) : v.isSig = false := by
  cases v with
  | nan q => exact absurd rfl h
  | inf n => rfl
  | num n m e => rfl

/-! R259: the source modifiers change the sign of a value at most. -/

@[simp] theorem isNan_withMods (int neg ab : Bool) (v : Val) : (withMods int neg ab v).isNan = v.isNan := by
  simp [withMods, apply_ite Val.isNan]

@[simp] theorem isSig_withMods (int neg ab : Bool) (v : Val) : (withMods int neg ab v).isSig = v.isSig := by
  simp [withMods, apply_ite Val.isSig]

@[simp] theorem isZero_withMods (int neg ab : Bool) (v : Val) : (withMods int neg ab v).isZero = v.isZero := by
  simp [withMods, apply_ite Val.isZero]

@[simp] theorem withMods_none (int : Bool) (v : Val) : withMods int false false v = v := rfl

/-! ### Flags -/

theorem testBit_orFl (x y : Nat) {i : Nat} (h : i < 7) : (orFl x y).testBit i = (x.testBit i || y.testBit i) := by
  have hm : ∀ z, (z % 2 ^ 7).testBit i = z.testBit i := fun z => by simp only [Nat.testBit_mod_two_pow, h, decide_true, Bool.true_and]
  simp only [orFl, BitVec.toNat_or, BitVec.toNat_ofNat, Nat.testBit_or, hm]

@[simp] theorem testBit_sigNV (l : List Val) : (sigNV l).testBit 4 = l.any Val.isSig := by
  unfold sigNV
  cases l.any Val.isSig <;> decide

/-! R66: of the flags only NV is bit 4. -/

@[simp] theorem testBit_flNV : flNV.testBit 4 = true := by decide
@[simp] theorem testBit_flNX : flNX.testBit 4 = false := by decide
@[simp] theorem testBit_flUF : flUF.testBit 4 = false := by decide
@[simp] theorem testBit_flOF : flOF.testBit 4 = false := by decide

/-! ### Patterns of an IEEE format -/

/-- A format with the interchange rules of IEEE 754-2019 (R52): it has infinities, an exponent and a fraction. -/
structure FFmt.Ieee (t : FFmt) : Prop where
  infs : t.infs = true
  eb_pos : 0 < t.eb
  fb_pos : 0 < t.fb

/-- The floating types of the vector lanes are such formats (R49). -/
theorem ieee_ffmt {ty : Nat} (h6 : 6 ≤ ty) (h8 : ty ≤ 8) : (ffmt ty).Ieee := by
  obtain rfl | rfl | rfl : ty = 6 ∨ ty = 7 ∨ ty = 8 := by omega
  all_goals exact ⟨rfl, by decide, by decide⟩

theorem ieee_fBF16 : fBF16.Ieee := ieee_ffmt (ty := 6) (by decide) (by decide)

theorem two_pow_double {n : Nat} (hn : 0 < n) : 2 ^ n = 2 * 2 ^ (n - 1) := by
  rw [← Nat.pow_succ', Nat.succ_eq_add_one, Nat.sub_add_cancel hn]

/-- The low n bits lie in their lower half where the top one of them is 0. -/
theorem mod_lt_half_iff (x : Nat) {n : Nat} (hn : 0 < n) : x % 2 ^ n < 2 ^ (n - 1) ↔ x.testBit (n - 1) = false := by
  have hbit : (x % 2 ^ n).testBit (n - 1) = x.testBit (n - 1) := by
    rw [Nat.testBit_mod_two_pow, decide_eq_true (by omega), Bool.true_and]
  rw [← hbit]
  constructor
  · exact Nat.testBit_lt_two_pow
  · intro h
    refine Nat.lt_pow_two_of_testBit _ fun i hi => ?_
    obtain heq | hlt := Nat.eq_or_lt_of_le hi
    · rw [← heq]; exact h
    · rw [Nat.testBit_mod_two_pow, decide_eq_false (by omega), Bool.false_and]

namespace FFmt.Ieee
variable {t : FFmt}

theorem top_eq (h : t.Ieee) : t.top = 2 ^ t.width - 2 ^ t.fb := by
  rw [FFmt.top, if_pos h.infs, Nat.sub_mul, Nat.one_mul, ← Nat.pow_add]
  rfl

theorem fb_le_width (t : FFmt) : 2 ^ t.fb ≤ 2 ^ t.width := Nat.pow_le_pow_right (by decide) (Nat.le_add_left _ _)

theorem qnan_eq (h : t.Ieee) : t.qnan = 2 ^ t.width - 2 ^ (t.fb - 1) := by
  have hq : t.qnan = t.top + 2 ^ (t.fb - 1) := by rw [FFmt.qnan, FFmt.top, if_pos h.infs, if_pos h.infs]
  have hf := two_pow_double h.fb_pos
  have hle := fb_le_width t
  rw [hq, h.top_eq]; omega

/-! The value of a pattern of an IEEE format that is no NaN, by its exponent field (R52, R53). -/

theorem value_subnormal (h : t.Ieee) {x : Nat} (he : x % t.sign / 2 ^ t.fb = 0) :
    t.value x = .num (decide (x / t.sign % 2 = 1)) (x % t.sign % 2 ^ t.fb) (1 - (t.bias : Int) - (t.fb : Int)) := by
  have hne : (0 : Nat) ≠ 2 ^ t.eb - 1 := by have := Nat.one_lt_two_pow (Nat.ne_of_gt h.eb_pos); omega
  simp only [FFmt.value, he, hne, h.infs, and_false, if_false, Bool.not_true, Bool.false_eq_true, false_and, if_true]

theorem value_normal (h : t.Ieee) {x : Nat} (h0 : x % t.sign / 2 ^ t.fb ≠ 0) (he : x % t.sign / 2 ^ t.fb ≠ 2 ^ t.eb - 1) :
    t.value x = .num (decide (x / t.sign % 2 = 1)) (x % t.sign % 2 ^ t.fb + 2 ^ t.fb)
      (((x % t.sign / 2 ^ t.fb : Nat) : Int) - (t.bias : Int) - (t.fb : Int)) := by
  simp only [FFmt.value, h0, he, h.infs, and_false, if_false, Bool.not_true, Bool.false_eq_true, false_and]

theorem value_top (h : t.Ieee) {x : Nat} (hx : x % t.sign = t.top) : t.value x = .inf (decide (x / t.sign % 2 = 1)) := by
  have htop : t.top = (2 ^ t.eb - 1) * 2 ^ t.fb := by rw [FFmt.top, if_pos h.infs]
  have he : t.top / 2 ^ t.fb = 2 ^ t.eb - 1 := by rw [htop, Nat.mul_div_cancel _ (Nat.two_pow_pos _)]
  have hm : t.top % 2 ^ t.fb = 0 := by rw [htop, Nat.mul_mod_left]
  simp only [FFmt.value, hx, he, hm, h.infs, and_self, if_true]

/-- The patterns above that of +Inf are those of the all-ones exponent with a fraction (R53). -/
theorem top_lt_iff (h : t.Ieee) {b : Nat} (hb : b < t.sign) :
    t.top < b ↔ b / 2 ^ t.fb = 2 ^ t.eb - 1 ∧ b % 2 ^ t.fb ≠ 0 := by
  have htop : t.top = 2 ^ t.fb * (2 ^ t.eb - 1) := by rw [FFmt.top, if_pos h.infs, Nat.mul_comm]
  have hq : b / 2 ^ t.fb < 2 ^ t.eb := by
    rw [Nat.div_lt_iff_lt_mul (Nat.two_pow_pos _), ← Nat.pow_add]; exact hb
  have hdiv := Nat.div_add_mod b (2 ^ t.fb)
  have hmod := Nat.mod_lt b (Nat.two_pow_pos t.fb)
  rw [htop]
  constructor
  · intro hlt
    have hle : 2 ^ t.eb - 1 ≤ b / 2 ^ t.fb := (Nat.le_div_iff_mul_le (Nat.two_pow_pos _)).2 (by rw [Nat.mul_comm]; omega)
    have heq : b / 2 ^ t.fb = 2 ^ t.eb - 1 := by omega
    rw [heq] at hdiv
    exact ⟨heq, by omega⟩
  · rintro ⟨heq, hr⟩
    rw [heq] at hdiv
    omega

theorem sign_pos (t : FFmt) : 0 < t.sign := Nat.two_pow_pos _

/-- The value of a pattern above that of +Inf: a NaN, which signals where the top bit of its fraction is 0. -/
theorem value_of_top_lt (h : t.Ieee) {x : Nat} (hx : t.top < x % t.sign) :
    t.value x = .nan (decide (x % t.sign % 2 ^ t.fb < 2 ^ (t.fb - 1))) := by
  obtain ⟨he, hm⟩ := (h.top_lt_iff (Nat.mod_lt _ (sign_pos t))).1 hx
  simp only [FFmt.value, h.infs, he, hm, and_self, if_true, if_false]

/-- R53: a pattern up to that of +Inf is no NaN. -/
theorem isNan_value_of_le_top (h : t.Ieee) {x : Nat} (hx : x % t.sign ≤ t.top) : (t.value x).isNan = false := by
  by_cases h0 : x % t.sign / 2 ^ t.fb = 0
  · rw [h.value_subnormal h0]; rfl
  · by_cases he : x % t.sign / 2 ^ t.fb = 2 ^ t.eb - 1
    · have hm : x % t.sign % 2 ^ t.fb = 0 :=
        Decidable.byContradiction fun hm => Nat.not_lt.2 hx ((h.top_lt_iff (Nat.mod_lt _ (sign_pos t))).2 ⟨he, hm⟩)
      simp only [FFmt.value, h.infs, he, hm, and_self, if_true, Val.isNan]
    · rw [h.value_normal h0 he]; rfl

/-- R53: the NaNs are the patterns above that of +Inf. -/
theorem isNan_value (h : t.Ieee) (x : Nat) : (t.value x).isNan = decide (t.top < x % t.sign) := by
  by_cases hx : t.top < x % t.sign
  · rw [h.value_of_top_lt hx, decide_eq_true hx]; rfl
  · rw [h.isNan_value_of_le_top (Nat.not_lt.1 hx), decide_eq_false hx]

/-- R53: a NaN signals where the top bit of its fraction is 0. -/
theorem isSig_value (h : t.Ieee) (x : Nat) :
    (t.value x).isSig = ((t.value x).isNan && !x.testBit (t.fb - 1)) := by
  by_cases hx : t.top < x % t.sign
  · have hbit : x % t.sign % 2 ^ t.fb < 2 ^ (t.fb - 1) ↔ x.testBit (t.fb - 1) = false := by
      rw [Nat.mod_mod_of_dvd x (show 2 ^ t.fb ∣ t.sign from Nat.pow_dvd_pow 2 (Nat.le_add_left _ _)), mod_lt_half_iff x h.fb_pos]
    rw [h.value_of_top_lt hx]
    simp only [Val.isSig, Val.isNan, hbit, Bool.true_and]
    cases x.testBit (t.fb - 1) <;> rfl
  · have hn : (t.value x).isNan = false := h.isNan_value_of_le_top (Nat.not_lt.1 hx)
    rw [hn, Bool.false_and, Val.isSig_of_not_isNan (by rw [hn]; decide)]

/-- R52: a pattern of zero exponent and zero fraction is a zero. -/
theorem isZero_value (h : t.Ieee) {x : Nat} (hx : x % t.sign = 0) : (t.value x).isZero = true := by
  rw [h.value_subnormal (by rw [hx, Nat.zero_div]), hx, Nat.zero_mod]
  rfl

/-- The canonical quiet NaN is one (R53). -/
theorem isNan_value_qnan (h : t.Ieee) : (t.value t.qnan).isNan = true := by
  have hf := two_pow_double h.fb_pos
  have hle := fb_le_width t
  have hpos := Nat.two_pow_pos (t.fb - 1)
  rw [h.isNan_value, h.qnan_eq, h.top_eq, FFmt.sign, Nat.mod_eq_of_lt (by omega)]
  exact decide_eq_true (by omega)

/-- No clamp touches the canonical quiet NaN (R260). -/
theorem clamp_qnan (h : t.Ieee) (dcl : Nat) : t.clamp dcl t.qnan = t.qnan := by
  rw [FFmt.clamp, Val.eq_nan_of_isNan h.isNan_value_qnan]

/-- Only a NaN sets NV when it is delivered: rounding sets OF, UF and NX (R65, R66). -/
theorem deliver_nv (h : t.Ieee) (rm : Nat) (sat : Bool) (v : Val) : (t.deliver rm sat v).2.testBit 4 = v.isSig := by
  cases v with
  | nan q => cases q <;> simp [FFmt.deliver, Val.isSig]
  | inf n => cases sat <;> simp [FFmt.deliver, h.infs, Val.isSig]
  | num n m e =>
    simp only [FFmt.deliver, h.infs, Val.isSig, if_true, apply_ite Prod.snd, apply_ite (Nat.testBit · 4)]
    simp [testBit_orFl, apply_ite (Nat.testBit · 4)]

/-- The canonical quiet NaN is no subnormal pattern. -/
theorem qnan_normal (h : t.Ieee) : 2 ^ t.fb ≤ t.qnan % t.sign := by
  have hf := two_pow_double h.fb_pos
  have hpos := Nat.two_pow_pos (t.fb - 1)
  have hle : 2 ^ (t.fb + 1) ≤ 2 ^ t.width :=
    Nat.pow_le_pow_right (by decide) (by have := h.eb_pos; simp only [FFmt.width]; omega)
  rw [h.qnan_eq, FFmt.sign, Nat.mod_eq_of_lt (by omega)]
  rw [Nat.pow_succ] at hle
  omega

end FFmt.Ieee

/-! ### Operations on NaNs and zeros (R54) -/

theorem addVal_nan (rm : Nat) {a b : Val} (h : a.isNan = true ∨ b.isNan = true) : (addVal rm a b).1 = .nan false := by
  simp [addVal, h]

theorem mulVal_nan {a b : Val} (h : a.isNan = true ∨ b.isNan = true) : (mulVal a b).1 = .nan false := by
  simp [mulVal, h]

theorem fmaVal_nan (rm : Nat) {a b : Val} (c : Val) (h : a.isNan = true ∨ b.isNan = true) : (fmaVal rm a b c).1 = .nan false := by
  have hp : (mulVal a b).1.isNan = true := by rw [mulVal_nan h]; rfl
  exact addVal_nan rm (.inl hp)

theorem pickVal_nan (mx : Bool) {a b : Val} (ha : a.isNan = true) (hb : b.isNan = true) : (pickVal mx a b).1 = .nan false := by
  simp [pickVal, ha, hb]

theorem pickVal_flags (mx : Bool) (a b : Val) : (pickVal mx a b).2 = sigNV [a, b] := by
  simp only [pickVal, apply_ite Prod.snd, ite_self]

/-- minimumNumber and maximumNumber give a number or a quiet NaN. -/
theorem isSig_pickVal (mx : Bool) (a b : Val) : (pickVal mx a b).1.isSig = false := by
  by_cases ha : a.isNan = true
  · by_cases hb : b.isNan = true
    · rw [pickVal_nan mx ha hb]; rfl
    · simp only [pickVal, ha, Bool.eq_false_iff.2 hb, Bool.and_false, Bool.false_eq_true, if_false, if_true]
      exact Val.isSig_of_not_isNan hb
  · simp only [pickVal, Bool.eq_false_iff.2 ha, Bool.false_and, Bool.false_eq_true, if_false]
    by_cases hb : b.isNan = true
    · rw [if_pos hb]; exact Val.isSig_of_not_isNan ha
    · rw [if_neg hb]
      simp only [apply_ite Val.isSig, Val.isSig_of_not_isNan ha, Val.isSig_of_not_isNan hb, ite_self]

theorem ltVal_nan {a b : Val} (h : a.isNan = true ∨ b.isNan = true) : ltVal a b = false := by
  rcases h with h | h
  · rw [Val.eq_nan_of_isNan h]; rfl
  · rw [Val.eq_nan_of_isNan h]; cases a <;> rfl

/-- Zeros of either sign lie neither below nor above each other. -/
theorem ltVal_zero {a b : Val} (ha : a.isZero = true) (hb : b.isZero = true) : ltVal a b = false := by
  cases a with
  | num n m e =>
    cases b with
    | num n' m' e' =>
      obtain ⟨rfl, rfl⟩ : m = 0 ∧ m' = 0 := by simpa [Val.isZero] using And.intro ha hb
      simp [ltVal, Val.over]
    | nan q => cases hb
    | inf q => cases hb
  | nan q => cases ha
  | inf q => cases ha

theorem Val.isNan_of_isZero {v : Val} (h : v.isZero = true) : v.isNan = false := by
  cases v with
  | num n m e => rfl
  | nan q => cases h
  | inf q => cases h

/-- R265: of the conditions only ne and unord hold with a NaN. -/
theorem vcmpHolds_nan (cc : BitVec 3) {a b : Val} (h : a.isNan = true ∨ b.isNan = true) :
    vcmpHolds cc.toNat a b = decide (cc = 1 ∨ cc = 7) := by
  have hun : (a.isNan || b.isNan) = true := by simpa using h
  have heq : eqVal a b = false := by rcases h with h | h <;> simp [eqVal, h]
  simp only [vcmpHolds, hun, heq, ltVal_nan h, ltVal_nan h.symm]
  revert cc; decide

/-- R265: −0 equals +0. -/
theorem vcmpHolds_zero (cc : BitVec 3) {a b : Val} (ha : a.isZero = true) (hb : b.isZero = true) :
    vcmpHolds cc.toNat a b = decide (cc = 0 ∨ cc = 3 ∨ cc = 5 ∨ cc = 6) := by
  have hun : (a.isNan || b.isNan) = false := by simp [Val.isNan_of_isZero, ha, hb]
  have heq : eqVal a b = true := by simp [eqVal, Val.isNan_of_isZero, ltVal_zero, ha, hb]
  simp only [vcmpHolds, hun, heq, ltVal_zero ha hb, ltVal_zero hb ha]
  revert cc; decide

/-- R54, R270: each special function of a NaN is a quiet NaN, with NV where it signals. -/
theorem unitOf_nan (opc ty rm : Nat) (q : Bool) : unitOf opc ty rm (.nan q) = (.nan false, if q then flNV else 0) := by
  unfold unitOf
  split <;> rfl

/-! ### Floating lanes: the result of an operation, and the lane of an instruction -/

section Lane
variable {f : VF} (h6 : 6 ≤ f.ty.toNat) (h8 : f.ty.toNat ≤ 8)
include h6 h8

/-- R259: a floating result is delivered in the format and clamped, with the flags of the operation and of its delivery. -/
theorem formed_float (rm : Nat) (r : Val × Nat) :
    formed f rm r =
      let t := ffmt f.ty.toNat
      let d := t.deliver rm (f.dcl.toNat == 1) (r.1.scale (dscOf f))
      (t.clamp f.dcl.toNat d.1, orFl r.2 d.2) := by
  simp [formed, formResult, isFloat_eq_true h6 h8]

theorem formed_nan (rm : Nat) {r : Val × Nat} (hr : r.1 = .nan false) : (formed f rm r).1 = (ffmt f.ty.toNat).qnan := by
  rw [formed_float h6 h8, hr]
  exact (ieee_ffmt h6 h8).clamp_qnan _

theorem formed_nv (rm : Nat) (r : Val × Nat) : (formed f rm r).2.testBit 4 = (r.2.testBit 4 || r.1.isSig) := by
  have hs : (r.1.scale (dscOf f)).isSig = r.1.isSig := by cases r.1 <;> rfl
  rw [formed_float h6 h8, testBit_orFl _ _ (by decide), (ieee_ffmt h6 h8).deliver_nv, hs]

/-- R54, R270: a special function of a NaN gives the canonical quiet NaN, with NV where it signals. -/
theorem unitElem_nan (opc rm : Nat) {v : Val} (hv : v.isNan = true) :
    (unitElem opc f rm v).1 = (ffmt f.ty.toNat).qnan ∧ (unitElem opc f rm v).2.testBit 4 = v.isSig := by
  have hres : (formed f rm (unitOf opc f.ty.toNat rm v)).1 = (ffmt f.ty.toNat).qnan :=
    formed_nan h6 h8 rm (by rw [Val.eq_nan_of_isNan hv, unitOf_nan])
  have hnv : (formed f rm (unitOf opc f.ty.toNat rm v)).2.testBit 4 = v.isSig := by
    rw [formed_nv h6 h8, Val.eq_nan_of_isNan hv, unitOf_nan]
    cases v.isSig <;> rfl
  have hkeep : unitElem opc f rm v = formed f rm (unitOf opc f.ty.toNat rm v) := by
    apply Prod.ext <;> simp [unitElem, hres, Nat.not_lt.2 (ieee_ffmt h6 h8).qnan_normal]
  rw [hkeep]
  exact ⟨hres, hnv⟩

theorem srcVal_float (u neg ab : Bool) (x : Nat) :
    srcVal f.ty.toNat u neg ab x = withMods (isInt f.ty.toNat) neg ab ((ffmt f.ty.toNat).value x) := by
  simp [srcVal, elemVal, isFloat_eq_true h6 h8]

theorem isNan_srcVal (u neg ab : Bool) (x : Nat) :
    (srcVal f.ty.toNat u neg ab x).isNan = decide ((ffmt f.ty.toNat).top < x % (ffmt f.ty.toNat).sign) := by
  rw [srcVal_float h6 h8, isNan_withMods, (ieee_ffmt h6 h8).isNan_value]

theorem isSig_srcVal (u neg ab : Bool) (x : Nat) :
    (srcVal f.ty.toNat u neg ab x).isSig =
      ((srcVal f.ty.toNat u neg ab x).isNan && !x.testBit ((ffmt f.ty.toNat).fb - 1)) := by
  rw [srcVal_float h6 h8, isSig_withMods, isNan_withMods, (ieee_ffmt h6 h8).isSig_value]

theorem isZero_srcVal (u neg ab : Bool) {x : Nat} (hx : x % (ffmt f.ty.toNat).sign = 0) :
    (srcVal f.ty.toNat u neg ab x).isZero = true := by
  rw [srcVal_float h6 h8, isZero_withMods, (ieee_ffmt h6 h8).isZero_value hx]

variable (rm k : Nat) (gs : Word) {a b : Nat} (c : Nat)

/-- R54, R264: sums, products and the fused multiply-add of a NaN are the canonical quiet NaN. -/
theorem elemOp_arith_nan
    (h : (srcVal f.ty.toNat f.u f.na f.xa a).isNan = true ∨ (srcVal f.ty.toNat f.u f.nb f.xb b).isNan = true) :
    ∀ opc ∈ [0x01, 0x02, 0x03, 0x04], (elemOp opc f rm gs k a b c).1 = (ffmt f.ty.toNat).qnan := by
  simp only [List.forall_mem_cons, List.not_mem_nil, false_implies, implies_true, and_true]
  exact ⟨formed_nan h6 h8 rm (addVal_nan rm h),
    formed_nan h6 h8 rm (addVal_nan rm (by rwa [Val.isNan_neg])),
    formed_nan h6 h8 rm (mulVal_nan h),
    formed_nan h6 h8 rm (fmaVal_nan rm _ h)⟩

/-- R54, R270: the special functions of a NaN. -/
theorem elemOp_unit_nan (h : (srcVal f.ty.toNat f.u f.na f.xa a).isNan = true) :
    ∀ opc ∈ [0x20, 0x21, 0x22, 0x23, 0x24, 0x25, 0x26], (elemOp opc f rm gs k a b c).1 = (ffmt f.ty.toNat).qnan ∧
      (elemOp opc f rm gs k a b c).2.testBit 4 = (srcVal f.ty.toNat f.u f.na f.xa a).isSig := by
  have hunit := fun opc => unitElem_nan h6 h8 opc rm h
  simp only [List.forall_mem_cons, List.not_mem_nil, false_implies, implies_true, and_true]
  exact ⟨hunit 0x20, hunit 0x21, hunit 0x22, hunit 0x23, hunit 0x24, hunit 0x25, hunit 0x26⟩

/-- Minimum and maximum pick no signalling NaN, so NV is that of the operands. -/
theorem formed_pickVal_nv (mx : Bool) (x y : Val) : (formed f rm (pickVal mx x y)).2.testBit 4 = (x.isSig || y.isSig) := by
  rw [formed_nv h6 h8, pickVal_flags, isSig_pickVal]
  simp

/-- R54: minimum, maximum and the comparisons set NV where an operand is a signalling NaN. -/
theorem elemOp_pick_cmp_nv :
    ∀ opc ∈ [0x05, 0x06, 0x0E], (elemOp opc f rm gs k a b c).2.testBit 4 =
      ((srcVal f.ty.toNat f.u f.na f.xa a).isSig || (srcVal f.ty.toNat f.u f.nb f.xb b).isSig) := by
  simp only [List.forall_mem_cons, List.not_mem_nil, false_implies, implies_true, and_true]
  refine ⟨formed_pickVal_nv h6 h8 rm false _ _, formed_pickVal_nv h6 h8 rm true _ _, ?_⟩
  simp [elemOp, isFloat_eq_true h6 h8]

end Lane

/-! ### Integer lanes and their patterns (R51, R72) -/

theorem elemBits_int {ty : Nat} (h1 : 1 ≤ ty) (h3 : ty ≤ 3) : 8 * elemBytes ty = 4 * 2 ^ ty := by
  obtain rfl | rfl | rfl : ty = 1 ∨ ty = 2 ∨ ty = 3 := by omega
  all_goals rfl

theorem elemBits_int_pos {ty : Nat} (h1 : 1 ≤ ty) (h3 : ty ≤ 3) : 0 < 8 * elemBytes ty := by
  rw [elemBits_int h1 h3]
  exact Nat.mul_pos (by decide) (Nat.two_pow_pos ty)

/-- R51: the integer of a pattern: itself with U, or where its top bit is 0; else less by 2^w. -/
theorem intLane_plain (w : Nat) (u : Bool) {x : Nat} (hw : 0 < w) (hx : x < 2 ^ w) :
    intLane w u false false x = if u ∨ x < 2 ^ (w - 1) then (x : Int) else (x : Int) - (2 ^ w : Nat) := by
  have hhalf := two_pow_double hw
  have hmod : (x : Int) % ((2 ^ w : Nat) : Int) = x := Int.emod_eq_of_lt (by omega) (by omega)
  cases u with
  | true => rw [if_pos (.inl rfl)]; rfl
  | false =>
    simp only [intLane, Int.bmod, hmod, Bool.false_eq_true, if_false, false_or]
    by_cases h : x < 2 ^ (w - 1)
    · rw [if_pos h, if_pos (by omega)]
    · rw [if_neg h, if_neg (by omega)]

/-- A lane is its pattern modulo 2^w. -/
theorem intLane_emod (w : Nat) (u : Bool) {x : Nat} (hw : 0 < w) (hx : x < 2 ^ w) :
    intLane w u false false x % ((2 ^ w : Nat) : Int) = x := by
  rw [intLane_plain w u hw hx]
  split
  · exact Int.emod_eq_of_lt (by omega) (by omega)
  · rw [Int.sub_emod_right, Int.emod_eq_of_lt (by omega) (by omega)]

/-- An integer within the type is the lane of its pattern. -/
theorem intLane_of_range (w : Nat) (u : Bool) {i : Int} (hw : 0 < w)
    (hlo : (if u then 0 else -((2 ^ (w - 1) : Nat) : Int)) ≤ i)
    (hhi : i ≤ (if u then ((2 ^ w : Nat) : Int) else ((2 ^ (w - 1) : Nat) : Int)) - 1) :
    intLane w u false false (i % ((2 ^ w : Nat) : Int)).toNat = i := by
  have hhalf := two_pow_double hw
  cases u with
  | true =>
    simp only [if_true] at hlo hhi
    rw [Int.emod_eq_of_lt hlo (by omega), intLane_plain w true hw (by omega), if_pos (.inl rfl)]
    omega
  | false =>
    simp only [Bool.false_eq_true, if_false] at hlo hhi
    by_cases h : 0 ≤ i
    · rw [Int.emod_eq_of_lt h (by omega), intLane_plain w false hw (by omega), if_pos (.inr (by omega))]
      omega
    · have hmod : i % ((2 ^ w : Nat) : Int) = i + (2 ^ w : Nat) := by
        rw [← Int.add_emod_right, Int.emod_eq_of_lt (by omega) (by omega)]
      rw [hmod, intLane_plain w false hw (by omega), if_neg (by simp only [Bool.false_eq_true, false_or]; omega)]
      omega

/-- An element of an integer type as a value (R51). -/
theorem elemVal_int {ty : Nat} (h1 : 1 ≤ ty) (h3 : ty ≤ 3) (u : Bool) {x : Nat} (hx : x < 2 ^ (8 * elemBytes ty)) :
    elemVal ty u x = Val.ofInt (intLane (8 * elemBytes ty) u false false x) := by
  have hfl := isFloat_eq_false h3
  have hw := elemBits_int_pos h1 h3
  rw [intLane_plain _ u hw hx]
  simp only [elemVal, hfl, Bool.false_eq_true, if_false, Nat.mod_eq_of_lt hx, apply_ite Val.ofInt]

theorem roundMag_of_nonneg (rm : Nat) (n : Bool) (m : Nat) {sh : Int} (h : 0 ≤ sh) : roundMag rm n m sh = (m * 2 ^ sh.toNat, false) :=
  if_pos h

/-- A sign and a magnitude are the integer. -/
theorem signed_natAbs (i : Int) : (if decide (i < 0) = true then -(i.natAbs : Int) else (i.natAbs : Int)) = i := by
  by_cases h : i < 0
  · rw [if_pos (decide_eq_true h)]; omega
  · rw [if_neg (by rw [decide_eq_false h]; decide)]; omega

@[simp] theorem toInt_ofInt (rm : Nat) (i : Int) : (Val.ofInt i).toInt rm = (i, false) := by
  have hmag : roundMag rm (decide (i < 0)) i.natAbs 0 = (i.natAbs, false) := by
    rw [roundMag_of_nonneg rm _ _ (Int.le_refl 0), Int.toNat_zero, Nat.pow_zero, Nat.mul_one]
  simp only [Val.ofInt, Val.toInt, hmag, signed_natAbs]

theorem natCast_intBits (ty : Nat) (i : Int) : (intBits ty i : Int) = i % ((2 ^ (8 * elemBytes ty) : Nat) : Int) :=
  Int.toNat_of_nonneg (Int.emod_nonneg i (Int.ne_of_gt (Int.natCast_pos.2 (Nat.two_pow_pos _))))

theorem intBits_lt (ty : Nat) (i : Int) : intBits ty i < 2 ^ (8 * elemBytes ty) := by
  have hlt := Int.emod_lt_of_pos i (Int.natCast_pos.2 (Nat.two_pow_pos (8 * elemBytes ty)))
  rw [← natCast_intBits] at hlt
  exact Int.ofNat_lt.1 hlt

theorem intOf_eq {ty : Nat} (h1 : 1 ≤ ty) (h3 : ty ≤ 3) (u : Bool) {x : Nat} (hx : x < 2 ^ (8 * elemBytes ty)) :
    intOf ty u x = intLane (8 * elemBytes ty) u false false x := by
  rw [intOf, elemVal_int h1 h3 u hx]
  exact signed_natAbs _

/-- Reading a pattern back as an integer and writing it again changes nothing. -/
theorem intBits_intOf {ty : Nat} (h1 : 1 ≤ ty) (h3 : ty ≤ 3) (u : Bool) {x : Nat} (hx : x < 2 ^ (8 * elemBytes ty)) :
    intBits ty (intOf ty u x) = x := by
  have hw := elemBits_int_pos h1 h3
  rw [intOf_eq h1 h3 u hx, intBits, intLane_emod _ u hw hx, Int.toNat_natCast]

/-- R72, R260: an integer converted to an integer type: clamped to it by the saturating clamp, else reduced into its range. -/
theorem convElem_int {ty : Nat} (h1 : 1 ≤ ty) (h3 : ty ≤ 3) (u : Bool) (rm dcl : Nat) (i : Int) (hd : dcl ≠ 2) :
    convElem ty u true rm dcl (Val.ofInt i) = (intBits ty (if dcl = 1 then clampInt ty u i else i), 0) := by
  simp only [convElem, isFloat_eq_false h3, toInt_ofInt, hd, false_and, if_false, if_true, Bool.false_eq_true]
  by_cases h : dcl = 1
  · rw [if_pos h, if_pos h]
  · rw [if_neg h, if_neg h, intBits_intOf h1 h3 u (intBits_lt ty i)]

/-! ### BF16 widened to FP32 (R69) -/

/-- A nonzero magnitude that rounds exactly to a pattern below that of +Inf is delivered as that pattern, with no flag. -/
theorem FFmt.deliver_exact {t : FFmt} (heb : t.eb ≠ 4) (rm : Nat) (n : Bool) {m : Nat} {e : Int} {b : Nat} (hm : m ≠ 0)
    (hr : t.round rm n m e = (b, false)) (hb : b < t.top) :
    t.deliver rm false (.num n m e) = (if n then b + t.sign else b, 0) := by
  have hhalf : t.halfTop rm m e = false := by simp [FFmt.halfTop, heb]
  simp [FFmt.deliver, hm, hr, hhalf, Nat.not_le.2 hb, orFl]

/-- A magnitude of at most 8 significant bits at a BF16 exponent q is exact in FP32, 16 bits further up. -/
theorem round_fp32_of_bf16 (rm : Nat) (n : Bool) {m q : Nat} (hm : m ≠ 0) (hlt : m < 2 ^ 8) (hq : q = 0 ∨ 2 ^ 7 ≤ m) :
    fFP32.round rm n m ((q : Int) - 133) = (q * 2 ^ 23 + m * 2 ^ 16, false) := by
  have hlog : log2N m < 8 := (Nat.log2_lt hm).2 hlt
  have hlead : q = 0 ∨ log2N m = 7 := by
    rcases hq with h | h
    · exact .inl h
    · have := (Nat.le_log2 hm).2 h
      exact .inr (by unfold log2N at *; omega)
  have hmax : max (leadOf m ((q : Int) - 133) - ((23 : Nat) : Int)) (1 - ((127 : Nat) : Int) - ((23 : Nat) : Int)) = q - 149 := by
    unfold leadOf
    omega
  have hsh : (q : Int) - 133 - (q - 149) = 16 := by omega
  simp only [FFmt.round, fFP32, hmax, hsh]
  rw [roundMag_of_nonneg rm n m (by decide)]
  simp

/-- A BF16 pattern below that of +Inf: m × 2^(q − 133), with the hidden bit in m. -/
theorem value_bf16 {p : Nat} (hlt : p % 2 ^ 15 < 0x7F80) :
    ∃ m q : Nat, fBF16.value p = .num (decide (p / 2 ^ 15 % 2 = 1)) m ((q : Int) - 133) ∧ m < 2 ^ 8 ∧ (q = 0 ∨ 2 ^ 7 ≤ m) ∧
      q * 2 ^ 7 + m = p % 2 ^ 15 := by
  by_cases h0 : p % 2 ^ 15 / 2 ^ 7 = 0
  · exact ⟨p % 2 ^ 15 % 2 ^ 7, 0, ieee_fBF16.value_subnormal h0, by omega, .inl rfl, by omega⟩
  · have hexp : ((p % 2 ^ 15 / 2 ^ 7 : Nat) : Int) - 127 - 7 = ((p % 2 ^ 15 / 2 ^ 7 - 1 : Nat) : Int) - 133 := by omega
    exact ⟨p % 2 ^ 15 % 2 ^ 7 + 2 ^ 7, p % 2 ^ 15 / 2 ^ 7 - 1,
      (ieee_fBF16.value_normal h0 (show p % 2 ^ 15 / 2 ^ 7 ≠ 255 by omega)).trans (congrArg (Val.num _ _) hexp),
      by omega, .inr (by omega), by omega⟩

/-- R69: a BF16 value that is no NaN is delivered in FP32 as its pattern 16 bits further up. -/
theorem deliver_fp32_of_bf16 (rm : Nat) {p : Nat} (hp : p < 2 ^ 16) (hn : p % 2 ^ 15 ≤ 0x7F80) :
    fFP32.deliver rm false (fBF16.value p) = (p * 2 ^ 16, 0) := by
  have hsign : (if p / 2 ^ 15 % 2 = 1 then p % 2 ^ 15 * 2 ^ 16 + 2 ^ 31 else p % 2 ^ 15 * 2 ^ 16) = p * 2 ^ 16 := by
    split <;> omega
  obtain hlt | hinf := Nat.lt_or_eq_of_le hn
  · obtain ⟨m, q, hv, hm, hq, hval⟩ := value_bf16 hlt
    rw [hv, ← hsign, ← hval]
    by_cases h0 : m = 0
    · have hq0 : q = 0 := by omega
      simp [h0, hq0, FFmt.deliver, FFmt.sign, FFmt.width, fFP32]
    · have hbits : q * 2 ^ 23 + m * 2 ^ 16 = (q * 2 ^ 7 + m) * 2 ^ 16 := by omega
      rw [FFmt.deliver_exact (by decide) rm _ h0 (round_fp32_of_bf16 rm _ h0 hm hq)
        (show _ < 0x7F800000 by omega), hbits]
      simp [FFmt.sign, FFmt.width, fFP32]
  · rw [← hsign, hinf, ieee_fBF16.value_top hinf]
    simp only [FFmt.deliver, Bool.false_eq_true, if_false, decide_eq_true_eq]
    rfl

/-! ### Elements of vcvt -/

/-- R260: without a clamp the pattern stays. -/
theorem FFmt.clamp_zero (t : FFmt) (x : Nat) : t.clamp 0 x = x := by
  unfold FFmt.clamp
  split
  · rfl
  · exact if_neg (by decide)

/-- An integer clamped to a type is the lane of its pattern. -/
theorem intLane_intBits_clampInt {ty : Nat} (h1 : 1 ≤ ty) (h3 : ty ≤ 3) (u : Bool) (i : Int) :
    intLane (8 * elemBytes ty) u false false (intBits ty (clampInt ty u i)) = clampInt ty u i := by
  have hw := elemBits_int_pos h1 h3
  have hle : intMin ty u ≤ intMax ty u := by
    have := Nat.one_le_two_pow (n := 8 * elemBytes ty)
    have := Nat.one_le_two_pow (n := 8 * elemBytes ty - 1)
    cases u <;> simp only [intMin, intMax, Bool.false_eq_true, if_true, if_false] <;> omega
  refine intLane_of_range _ u hw (Int.le_max_left _ _) ?_
  have hhi : clampInt ty u i ≤ intMax ty u := Int.max_le.2 ⟨hle, Int.min_le_left _ _⟩
  cases u <;> exact hhi

section Cvt
variable {f : VF} (hdsc : f.dsc = 0) (hna : f.na = false) (hxa : f.xa = false)
include hdsc hna hxa

/-- R273: with no modifier and no scale, an element of vcvt is the conversion of the source value. -/
theorem cvtElem_plain (rm : Nat) (v : Val) :
    cvtElem f rm (cvtSrc f v) = convElem f.ty.toNat f.u (isInt f.gs.toNat) rm f.dcl.toNat v := by
  have hd : dscOf f = 0 := by simp [dscOf, hdsc]
  simp [cvtElem, cvtSrc, srcType, hd, hna, hxa]

theorem cvtElem_int (rm : Nat) {p : Nat} (hs1 : 1 ≤ f.gs.toNat) (hs3 : f.gs.toNat ≤ 3) (hp : p < 2 ^ (4 * 2 ^ f.gs.toNat)) :
    cvtElem f rm (cvtSrc f (elemVal f.gs.toNat f.u p)) =
      convElem f.ty.toNat f.u true rm f.dcl.toNat (Val.ofInt (intLane (4 * 2 ^ f.gs.toNat) f.u false false p)) := by
  have hint : isInt f.gs.toNat = true := by simp [isInt, hs1, hs3]
  rw [cvtElem_plain hdsc hna hxa, hint, ← elemBits_int hs1 hs3, elemVal_int hs1 hs3 f.u (by rw [elemBits_int hs1 hs3]; exact hp)]

/-- R54, R69: a NaN of FP32 converted to BF16 is the canonical quiet NaN, under every clamp. -/
theorem cvtElem_bf16_nan (rm : Nat) {p : Nat} (hst : f.gs.toNat = 8) (hty : f.ty.toNat = 6) (hp : 0x7F800000 < p % 2 ^ 31) :
    (cvtElem f rm (cvtSrc f (elemVal f.gs.toNat f.u p))).1 = 0x7FC0 := by
  have hv : elemVal 8 f.u p = .nan (elemVal 8 f.u p).isSig :=
    Val.eq_nan_of_isNan (((ieee_ffmt (ty := 8) (by decide) (by decide)).isNan_value p).trans (decide_eq_true hp))
  rw [cvtElem_plain hdsc hna hxa, hst, hty, hv]
  exact ieee_fBF16.clamp_qnan f.dcl.toNat

/-- R69: BF16 widened to FP32 is exact. -/
theorem cvtElem_fp32_of_bf16 (rm : Nat) {p : Nat} (hst : f.gs.toNat = 6) (hty : f.ty.toNat = 8) (hd : f.dcl = 0)
    (hp : p < 2 ^ 16) (hn : p % 2 ^ 15 ≤ 0x7F80) :
    cvtElem f rm (cvtSrc f (elemVal f.gs.toNat f.u p)) = (p * 2 ^ 16, 0) := by
  have hdel : (ffmt 8).deliver rm false (elemVal 6 f.u p) = (p * 2 ^ 16, 0) := deliver_fp32_of_bf16 rm hp hn
  rw [cvtElem_plain hdsc hna hxa, hst, hty, hd]
  change ((ffmt 8).clamp 0 ((ffmt 8).deliver rm false (elemVal 6 f.u p)).1, ((ffmt 8).deliver rm false (elemVal 6 f.u p)).2) = _
  rw [hdel, FFmt.clamp_zero]

end Cvt

/-- R72: conversions between integers set no flags. -/
theorem convElem_int_flags {ty : Nat} (h3 : ty ≤ 3) (u : Bool) (rm dcl : Nat) (v : Val) : (convElem ty u true rm dcl v).2 = 0 := by
  have hfl := isFloat_eq_false h3
  simp [convElem, hfl]

/-- R72: narrowing keeps the low bits. -/
theorem convElem_int_reduced {ty : Nat} (h1 : 1 ≤ ty) (h3 : ty ≤ 3) (u : Bool) (rm : Nat) (i : Int) :
    ((convElem ty u true rm 0 (Val.ofInt i)).1 : Int) = i % 2 ^ (4 * 2 ^ ty) := by
  rw [convElem_int h1 h3 u rm 0 i (by decide), ← elemBits_int h1 h3, if_neg (by decide), natCast_intBits, Int.natCast_pow]
  rfl

/-- R72: under the saturating clamp the lane written is the value clamped to the type. -/
theorem intLane_convElem_sat {ty : Nat} (h1 : 1 ≤ ty) (h3 : ty ≤ 3) (u : Bool) (rm : Nat) (i : Int) :
    intLane (4 * 2 ^ ty) u false false (convElem ty u true rm 1 (Val.ofInt i)).1 =
      max (if u then 0 else -2 ^ (4 * 2 ^ ty - 1)) (min (if u then 2 ^ (4 * 2 ^ ty) - 1 else 2 ^ (4 * 2 ^ ty - 1) - 1) i) := by
  rw [convElem_int h1 h3 u rm 1 i (by decide), if_pos rfl, ← elemBits_int h1 h3, intLane_intBits_clampInt h1 h3]
  simp [clampInt, intMin, intMax]

/-! ### The lanes that move bit patterns -/

/-- R264: the logical instructions act bit by bit. -/
theorem elemOp_and_xor_testBit (f : VF) (rm k : Nat) (gs : Word) {a b : Nat} (c : Nat)
    (ha : a < 2 ^ (8 * elemBytes f.ty.toNat)) (hb : b < 2 ^ (8 * elemBytes f.ty.toNat)) (i : Nat) :
    (elemOp 0x08 f rm gs k a b c).1.testBit i = (a.testBit i && b.testBit i) ∧
      (elemOp 0x0A f rm gs k a b c).1.testBit i = (a.testBit i != b.testBit i) := by
  simp only [elemOp, BitVec.toNat_and, BitVec.toNat_xor, BitVec.toNat_ofNat, Nat.mod_eq_of_lt ha, Nat.mod_eq_of_lt hb,
    Nat.testBit_and, Nat.testBit_xor, and_self]

/-- R264: an unmodified vmov moves the pattern. -/
theorem elemOp_mov (f : VF) (rm k : Nat) (gs : Word) {a : Nat} (b c : Nat) (ha : a < 2 ^ (8 * elemBytes f.ty.toNat))
    (hna : f.na = false) (hxa : f.xa = false) (hdsc : f.dsc = 0) (hdcl : f.dcl = 0) : elemOp 0x11 f rm gs k a b c = (a, 0) := by
  simp only [elemOp, hna, hxa, hdsc, hdcl, Bool.not_false, and_self, if_true, Nat.mod_eq_of_lt ha]

/-- R266: vsel selects by the old pattern of the destination. -/
theorem elemOp_sel (f : VF) (rm k : Nat) (gs : Word) {a b c : Nat} (ha : a < 2 ^ (8 * elemBytes f.ty.toNat))
    (hb : b < 2 ^ (8 * elemBytes f.ty.toNat)) (hc : c < 2 ^ (8 * elemBytes f.ty.toNat)) :
    elemOp 0x0F f rm gs k a b c = (if c ≠ 0 then a else b, 0) := by
  simp only [elemOp, Nat.mod_eq_of_lt ha, Nat.mod_eq_of_lt hb, Nat.mod_eq_of_lt hc]

/-- R265: a true lane is all ones, a false one zero. -/
theorem elemOp_cmp (f : VF) (rm k : Nat) (gs : Word) (a b c : Nat) :
    (elemOp 0x0E f rm gs k a b c).1 =
      if vcmpHolds f.fn.toNat (srcVal f.ty.toNat f.u f.na f.xa a) (srcVal f.ty.toNat f.u f.nb f.xb b) then
        2 ^ (8 * elemBytes f.ty.toNat) - 1 else 0 := rfl

/-- The widths that the formats of the vector lanes have (R52). -/
theorem lane_widths {ty : Nat} (h6 : 6 ≤ ty) (h8 : ty ≤ 8) :
    (if ty = 8 then 32 else 16) = (ffmt ty).width + 1 ∧ (if ty = 8 then 23 else if ty = 6 then 7 else 10) = (ffmt ty).fb ∧
      8 * elemBytes ty = (ffmt ty).width + 1 := by
  obtain rfl | rfl | rfl : ty = 6 ∨ ty = 7 ∨ ty = 8 := by omega
  all_goals exact ⟨rfl, rfl, rfl⟩

/-! ### The obligation -/

/-- Settles O34: the values of R53 and R54 fix the lanes with NaNs and zeros, deliveries set no NV of their own, and the conversions
are exact or modulo the width. -/
theorem floatLanes : Obligations.FloatLanes := by
  refine ⟨?_, ?_⟩
  · intro f rm k a b c gs h6 h8 _ w frac ha hb hc nan sig quiet lane nv
    obtain ⟨hw, hfrac, hbits⟩ : w = _ ∧ frac = _ ∧ _ := lane_widths h6 h8
    have ht := ieee_ffmt h6 h8
    have hww : w = 8 * elemBytes f.ty.toNat := hw.trans hbits.symm
    have hw1 : w - 1 = (ffmt f.ty.toNat).width := by omega
    have hnan : ∀ neg ab x, (srcVal f.ty.toNat f.u neg ab x).isNan = nan x := fun neg ab x => by
      rw [isNan_srcVal h6 h8, ht.top_eq, FFmt.sign, ← hw1, ← hfrac]
    have hsig : ∀ neg ab x, (srcVal f.ty.toNat f.u neg ab x).isSig = sig x := fun neg ab x => by
      rw [isSig_srcVal h6 h8, hnan, ← hfrac]
    have hquiet : (ffmt f.ty.toNat).qnan = quiet := by rw [ht.qnan_eq, ← hw1, ← hfrac]
    have hzero : ∀ neg ab x, x % 2 ^ (w - 1) = 0 → (srcVal f.ty.toNat f.u neg ab x).isZero = true := fun neg ab x hx =>
      isZero_srcVal h6 h8 _ _ _ (by rw [FFmt.sign, ← hw1]; exact hx)
    rw [hww] at ha hb hc
    refine ⟨fun h => ⟨?_, ?_⟩, fun h => ?_, fun h1 h2 => ⟨?_, ?_⟩, ?_, fun _ h1 h2 => ?_,
      elemOp_and_xor_testBit f rm k gs c ha hb, elemOp_mov f rm k gs b c ha, elemOp_sel f rm k gs ha hb hc⟩
    · rw [← hquiet]
      exact elemOp_arith_nan h6 h8 rm k gs c (by simpa only [hnan] using h)
    · have hab : (srcVal f.ty.toNat f.u f.na f.xa a).isNan = true ∨ (srcVal f.ty.toNat f.u f.nb f.xb b).isNan = true := by
        simpa only [hnan] using h
      have hcmp := vcmpHolds_nan f.fn hab
      simp only [lane, elemOp_cmp, hww, hcmp, decide_eq_true_eq]
    · rw [← hquiet, ← hsig f.na f.xa]
      exact elemOp_unit_nan h6 h8 rm k gs c (by simpa only [hnan] using h)
    · rw [← hquiet]
      exact formed_nan h6 h8 rm (pickVal_nan false (by rw [hnan, h1]) (by rw [hnan, h2]))
    · rw [← hquiet]
      exact formed_nan h6 h8 rm (pickVal_nan true (by rw [hnan, h1]) (by rw [hnan, h2]))
    · rw [← hsig f.na f.xa, ← hsig f.nb f.xb]
      exact elemOp_pick_cmp_nv h6 h8 rm k gs c
    · have hcmp := vcmpHolds_zero f.fn (hzero f.na f.xa a h1) (hzero f.nb f.xb b h2)
      simp only [lane, elemOp_cmp, hww, hcmp, decide_eq_true_eq]
  · intro f rm p h1 _ hdsc hna hxa st ty w v out
    refine ⟨fun hs1 hs3 h3 hp => ?_, fun hst hty _ hp => cvtElem_bf16_nan hdsc hna hxa rm hst hty hp,
      fun hst hty hp hn hd => cvtElem_fp32_of_bf16 hdsc hna hxa rm hst hty hd hp hn⟩
    have hout : out = convElem ty f.u true rm f.dcl.toNat (Val.ofInt v) := cvtElem_int hdsc hna hxa rm hs1 hs3 hp
    rw [hout]
    refine ⟨?_, fun hd => ?_, fun hd => ?_⟩
    · exact convElem_int_flags h3 f.u rm _ _
    · rw [hd]; exact convElem_int_reduced h1 h3 f.u rm v
    · rw [hd]; exact intLane_convElem_sat h1 h3 f.u rm v

end Sys2Proof.Machine
end

section
/-! PROOFS. The scales (R84, R85, R87): a cycle of a lane releases at most one term and then takes the one that arrives; neither changes
the number that the element, its lean and its pans stand for. -/

namespace Sys2Proof.Machine

/-! ### Leans and released terms -/

@[simp] theorem Lean.bump_lost (up : Bool) : Lean.lost.bump up = .lost := by cases up <;> rfl

/-- A lean that stays known counts the wrap. -/
theorem Lean.num_bump {l : Lean} {up : Bool} (h : l.bump up ≠ .lost) : (l.bump up).num = l.num + if up then 1 else -1 := by
  cases l with
  | lost => exact absurd (Lean.bump_lost up) h
  | zero => cases up <;> rfl
  | plus => cases up with
    | false => rfl
    | true => exact absurd rfl h
  | minus => cases up with
    | false => exact absurd rfl h
    | true => rfl

/-- x lies among the stored values of w bits, from L to H (R82). -/
def InWidth (w : Nat) (x : Int) : Prop := -(2 ^ (w - 1) : Int) ≤ x ∧ x < 2 ^ (w - 1)

section Release
variable {w : Nat} {n x : Int}

/-- A release (R84): the sum as it is where it fits, and otherwise wrapped by 2^w with the lean bumped the same way. -/
theorem releaseTerm_cases (l : Lean) (hw : 1 ≤ w) (hn : InWidth w n) (hx : InWidth w x) :
    InWidth w (releaseTerm w n l x).1 ∧
      (releaseTerm w n l x = (n + x, l) ∨
        ∃ up : Bool, releaseTerm w n l x = (n + x - (if up then 1 else -1) * 2 ^ w, l.bump up)) := by
  obtain ⟨k, rfl⟩ : ∃ k, w = k + 1 := ⟨w - 1, by omega⟩
  have hcast : ∀ j, ((2 ^ j : Nat) : Int) = 2 ^ j := Int.natCast_pow 2
  have hdouble : (2 : Int) ^ (k + 1) = 2 * 2 ^ k := Int.pow_succ' 2 k
  simp only [InWidth, Nat.add_sub_cancel] at hn hx
  simp only [InWidth, releaseTerm, Nat.add_sub_cancel, hcast]
  split
  · exact ⟨by dsimp only; omega, .inr ⟨true, by rw [if_pos rfl, Int.one_mul]⟩⟩
  · split
    · exact ⟨by dsimp only; omega, .inr ⟨false, by rw [if_neg Bool.false_ne_true, Int.neg_mul, Int.one_mul, Int.sub_neg]⟩⟩
    · exact ⟨by dsimp only; omega, .inl rfl⟩

theorem releaseTerm_fits (l : Lean) (hw : 1 ≤ w) (hn : InWidth w n) (hx : InWidth w x) : InWidth w (releaseTerm w n l x).1 :=
  (releaseTerm_cases l hw hn hx).1

/-- LOST stays LOST (R84). -/
theorem releaseTerm_lost (w : Nat) (n x : Int) : (releaseTerm w n .lost x).2 = .lost := by
  simp only [releaseTerm, Lean.bump_lost]
  split
  · rfl
  · split <;> rfl

/-- A release moves its term into the true sum, n + lean · 2^w (R85). -/
theorem releaseTerm_exact {l : Lean} (hw : 1 ≤ w) (hn : InWidth w n) (hx : InWidth w x) (h : (releaseTerm w n l x).2 ≠ .lost) :
    (releaseTerm w n l x).1 + (releaseTerm w n l x).2.num * 2 ^ w = n + l.num * 2 ^ w + x := by
  obtain ⟨-, heq | ⟨up, heq⟩⟩ := releaseTerm_cases l hw hn hx
  · rw [heq]; dsimp only; omega
  · rw [heq] at h ⊢
    rw [Lean.num_bump h, Int.add_mul]
    omega

end Release

/-! ### The two phases of a cycle -/

/-- The oldest positive term of a lane released. -/
def Lane.popPos (w : Nat) (p : Lane) (n : Int) (l : Lean) : Lane × Int × Lean :=
  match p.pos with
  | x :: r => ({ p with pos := r }, releaseTerm w n l x)
  | [] => (p, n, l)

/-- The oldest negative term of a lane released. -/
def Lane.popNeg (w : Nat) (p : Lane) (n : Int) (l : Lean) : Lane × Int × Lean :=
  match p.neg with
  | x :: r => ({ p with neg := r }, releaseTerm w n l x)
  | [] => (p, n, l)

/-- The release of a cycle, which comes before the arrival of its term t (R84). -/
def Lane.release (w : Nat) (ended : Bool) (p : Lane) (n : Int) (l : Lean) (t : Int) : Lane × Int × Lean :=
  if 0 < t ∧ p.pos.length = 4 then p.popPos w n l
  else if t < 0 ∧ p.neg.length = 4 then p.popNeg w n l
  else if p.pos ≠ [] ∧ p.neg ≠ [] then (if sumNonneg n l then p.popNeg w n l else p.popPos w n l)
  else if p.pos ≠ [] ∧ (p.pos.length = 4 ∨ ended) then p.popPos w n l
  else if p.neg ≠ [] ∧ (p.neg.length = 4 ∨ ended) then p.popNeg w n l
  else (p, n, l)

/-- A cycle is the release and then the arrival. -/
theorem laneCycle_eq (w : Nat) (ended : Bool) (p : Lane) (n : Int) (l : Lean) (t : Int) :
    laneCycle w ended p n l t = ((p.release w ended n l t).1.arrive t, (p.release w ended n l t).2) := rfl

/-- What the release of a positive term, the release of a negative one and no release all have, the release phase has. -/
theorem Lane.release_of_each {w : Nat} {p : Lane} {n : Int} {l : Lean} {P : Lane × Int × Lean → Prop} (hpos : P (p.popPos w n l))
    (hneg : P (p.popNeg w n l)) (hnone : P (p, n, l)) (ended : Bool) (t : Int) : P (p.release w ended n l t) := by
  unfold Lane.release
  split
  · exact hpos
  split
  · exact hneg
  split
  · split
    · exact hneg
    · exact hpos
  split
  · exact hpos
  split
  · exact hneg
  · exact hnone

/-! ### Room in the pans -/

theorem Lane.popPos_lengths (w : Nat) (p : Lane) (n : Int) (l : Lean) :
    (p.popPos w n l).1.pos.length = p.pos.length - 1 ∧ (p.popPos w n l).1.neg = p.neg := by
  unfold Lane.popPos
  split
  · next h => rw [h]; exact ⟨rfl, rfl⟩
  · next h => rw [h]; exact ⟨rfl, rfl⟩

theorem Lane.popNeg_lengths (w : Nat) (p : Lane) (n : Int) (l : Lean) :
    (p.popNeg w n l).1.neg.length = p.neg.length - 1 ∧ (p.popNeg w n l).1.pos = p.pos := by
  unfold Lane.popNeg
  split
  · next h => rw [h]; exact ⟨rfl, rfl⟩
  · next h => rw [h]; exact ⟨rfl, rfl⟩

/-- No pan holds more than four terms. -/
def Lane.AtMostFour (p : Lane) : Prop := p.pos.length ≤ 4 ∧ p.neg.length ≤ 4

/-- No pan holds more than four terms, and the one that t goes into holds fewer. -/
def Lane.RoomFor (p : Lane) (t : Int) : Prop := p.AtMostFour ∧ (0 < t → p.pos.length < 4) ∧ (t < 0 → p.neg.length < 4)

/-- After the release there is room for the term that arrives: a full pan of its sign has released its oldest. -/
theorem Lane.release_room (w : Nat) (ended : Bool) {p : Lane} (n : Int) (l : Lean) (t : Int) (h : p.AtMostFour) :
    (p.release w ended n l t).1.RoomFor t := by
  obtain ⟨hp, hn⟩ := h
  obtain ⟨pp, pn⟩ := p.popPos_lengths w n l
  obtain ⟨nn, np⟩ := p.popNeg_lengths w n l
  have afterPos (hm : ¬ (t < 0 ∧ p.neg.length = 4)) : p.pos ≠ [] → (p.popPos w n l).1.RoomFor t := fun h0 => by
    have := List.length_pos_iff.mpr h0
    simp only [Lane.RoomFor, Lane.AtMostFour, pp, pn]; omega
  have afterNeg (hm : ¬ (0 < t ∧ p.pos.length = 4)) : p.neg ≠ [] → (p.popNeg w n l).1.RoomFor t := fun h0 => by
    have := List.length_pos_iff.mpr h0
    simp only [Lane.RoomFor, Lane.AtMostFour, nn, np]; omega
  unfold Lane.release
  split
  · next hfull => exact afterPos (by omega) (List.ne_nil_of_length_pos (by omega))
  split
  · next hfull => exact afterNeg (by omega) (List.ne_nil_of_length_pos (by omega))
  next hpt hnt =>
  split
  · next hboth =>
    split
    · exact afterNeg hpt hboth.2
    · exact afterPos hnt hboth.1
  split
  · next h => exact afterPos hnt h.1
  split
  · next h => exact afterNeg hpt h.1
  · simp only [Lane.RoomFor, Lane.AtMostFour]; omega

theorem Lane.arrive_atMostFour {p : Lane} {t : Int} (h : p.RoomFor t) : (p.arrive t).AtMostFour := by
  obtain ⟨⟨hp, hn⟩, hpt, hnt⟩ := h
  unfold Lane.arrive
  split
  · next h0 => exact ⟨by rw [List.length_append]; exact hpt h0, hn⟩
  split
  · next h1 => exact ⟨hp, by rw [List.length_append]; exact hnt h1⟩
  · exact ⟨hp, hn⟩

/-! ### The number that an element stands for -/

/-- The terms that wait in the pans of a lane, added up. -/
def Lane.sum (p : Lane) : Int := p.pos.sum + p.neg.sum

theorem Lane.sum_arrive (p : Lane) (t : Int) : (p.arrive t).sum = p.sum + t := by
  unfold Lane.arrive Lane.sum
  split
  · simp only [List.sum_append, List.sum_cons, List.sum_nil]; omega
  split
  · simp only [List.sum_append, List.sum_cons, List.sum_nil]; omega
  · omega

/-- What a lane, its stored value and its lean stand for: the true sum and the terms to come (R85). -/
def laneTotal (w : Nat) (a : Lane × Int × Lean) : Int := a.2.1 + a.2.2.num * 2 ^ w + a.1.sum

/-- From a to b the stored value stays in range, LOST stays LOST, and while the lean is not LOST the total is the same. -/
structure KeepsTotal (w : Nat) (a b : Lane × Int × Lean) : Prop where
  fits : InWidth w b.2.1
  lost : a.2.2 = .lost → b.2.2 = .lost
  total : b.2.2 ≠ .lost → laneTotal w b = laneTotal w a

section Cycle
variable {w : Nat} {p : Lane} {n : Int} (l : Lean)

/-- A release keeps the total where its term leaves the pans. -/
theorem KeepsTotal.of_releaseTerm {p' : Lane} {x : Int} (hw : 1 ≤ w) (hn : InWidth w n) (hx : InWidth w x)
    (hsum : p.sum = p'.sum + x) : KeepsTotal w (p, n, l) (p', releaseTerm w n l x) where
  fits := releaseTerm_fits l hw hn hx
  lost h := by dsimp only at h ⊢; rw [h, releaseTerm_lost]
  total h := by
    have := releaseTerm_exact hw hn hx h
    simp only [laneTotal, hsum]; omega

theorem Lane.popPos_keepsTotal (hw : 1 ≤ w) (hn : InWidth w n) (hp : ∀ x ∈ p.pos, InWidth w x) :
    KeepsTotal w (p, n, l) (p.popPos w n l) := by
  unfold Lane.popPos
  split
  · next x r h => exact .of_releaseTerm l hw hn (hp x (h ▸ List.mem_cons_self)) (by simp only [Lane.sum, h, List.sum_cons]; omega)
  · exact ⟨hn, id, fun _ => rfl⟩

theorem Lane.popNeg_keepsTotal (hw : 1 ≤ w) (hn : InWidth w n) (hp : ∀ x ∈ p.neg, InWidth w x) :
    KeepsTotal w (p, n, l) (p.popNeg w n l) := by
  unfold Lane.popNeg
  split
  · next x r h => exact .of_releaseTerm l hw hn (hp x (h ▸ List.mem_cons_self)) (by simp only [Lane.sum, h, List.sum_cons]; omega)
  · exact ⟨hn, id, fun _ => rfl⟩

/-- The release phase keeps the total. -/
theorem Lane.release_keepsTotal (ended : Bool) (t : Int) (hw : 1 ≤ w) (hn : InWidth w n) (hpos : ∀ x ∈ p.pos, InWidth w x)
    (hneg : ∀ x ∈ p.neg, InWidth w x) : KeepsTotal w (p, n, l) (p.release w ended n l t) :=
  Lane.release_of_each (Lane.popPos_keepsTotal l hw hn hpos) (Lane.popNeg_keepsTotal l hw hn hneg) ⟨hn, id, fun _ => rfl⟩ ended t

end Cycle

/-- The sum that the statement writes out. -/
theorem foldl_add_eq_sum (l : List Int) : l.foldl (fun a x => a + x) 0 = l.sum := List.sum_eq_foldl.symm

/-- Settles O41: a cycle is a release, which moves a term of the pans into the true sum, and an arrival, which adds its term to the pans. -/
theorem exactScale : Obligations.ExactScale := by
  intro w n l hw hL hH
  have hw1 : 1 ≤ w := by omega
  have hn : InWidth w n := ⟨hL, hH⟩
  refine ⟨fun x hx => ⟨releaseTerm_fits l hw1 hn hx, fun h => h ▸ releaseTerm_lost w n x, releaseTerm_exact hw1 hn hx⟩, ?_⟩
  intro ended p t _ hpos hneg hpl hnl
  have hkeeps := Lane.release_keepsTotal l ended t hw1 hn (fun x hx => (hpos x hx).2) (fun x hx => (hneg x hx).2)
  obtain ⟨hfp, hfn⟩ := Lane.arrive_atMostFour (Lane.release_room w ended n l t ⟨hpl, hnl⟩)
  simp only [laneCycle_eq, foldl_add_eq_sum]
  refine ⟨hkeeps.fits, hfp, hfn, hkeeps.lost, fun hl => ?_⟩
  have htotal := hkeeps.total hl
  have harrive := Lane.sum_arrive (p.release w ended n l t).1 t
  simp only [laneTotal, Lane.sum] at htotal harrive
  omega

end Sys2Proof.Machine
end

section
/-! PROOFS. The notice of an mmar with SUBST (R62, R94, R297): the flag reaches its thread wherever it is, in a message on its way too. -/

namespace Sys2Proof.Machine

/-! ### What a command that retires leaves of the network -/

@[simp] theorem State.usedUp_net (s : State) (who : Nat) : (s.usedUp who).net = s.net := rfl
@[simp] theorem State.freeTag_net (s : State) (c tag : Nat) : (s.freeTag c tag).net = s.net := rfl
@[simp] theorem State.freeTag_hub (s : State) (c tag : Nat) : (s.freeTag c tag).hub = s.hub := rfl

@[simp] theorem State.orInto_net (s : State) (o : Origin) (fl : Nat) : (s.orInto o fl).net = s.net := by
  unfold State.orInto
  split
  · rfl
  · exact State.modThr_net _ _ _ _

@[simp] theorem State.orInto_hub (s : State) (o : Origin) (fl : Nat) : (s.orInto o fl).hub = s.hub := by
  unfold State.orInto
  split
  · rfl
  · exact State.modThr_hub _ _ _ _

@[simp] theorem State.checkGrant_net (s : State) (c : Nat) : (s.checkGrant c).net = s.net := by
  unfold State.checkGrant
  split
  · rfl
  · simp only [apply_ite State.net, State.modCore_net, ite_self]

/-- A root of no launch in the intake is not finished by anything (R45). -/
theorem State.checkRoot_of_no_launch {s : State} {b : Word} (h : s.launchOf b = none) (root : Nat) : s.checkRoot b root = s := by
  simp only [State.checkRoot, h]

/-- SUBST set in a context of the thread (R62). -/
def Context.substFor (o : Origin) (x : Context) : Context :=
  if x.uid = o.uid then { x with tsw := x.tsw ||| (BitVec.ofNat 64 flSUBST <<< 8) } else x

/-- A command with SUBST among its flags that retires sets it in the contexts of its thread that messages carry, and changes nothing else
of the network. -/
theorem State.retire_net {s : State} {x : Cmd} (c : Nat) (hl : s.hub.launches = []) (hf : x.flags / 32 % 2 = 1) :
    (s.retire c x).net = s.net.map fun m => { m with body := m.body.onContext (Context.substFor x.org) } := by
  have hroot : ∀ u : State, u.hub.launches = [] → u.checkRoot x.org.bind x.org.root = u := fun u h =>
    State.checkRoot_of_no_launch (by simp only [State.launchOf, h, List.find?_nil]) _
  unfold State.retire
  rw [State.checkGrant_net, if_pos hf, hroot]
  · rw [State.freeTag_net, State.orInto_net]; rfl
  · rw [State.freeTag_hub, State.orInto_hub]
    simp only [State.markSubst, State.usedUp, State.modCore_hub, hl, List.map_nil]

/-- The notice of an mmar that ended well (R297): its command retires at the issuer with the flags of both. -/
theorem exec_mmarCompletionNotice {s : State} {m id fl : Nat} {b : Bool} {x : Msg} {y : Cmd} (hx : s.arrived m = some x)
    (hb : x.body = .mmarDone id fl b none) (hy : s.cmd x.dst id = some y) :
    exec (.mmarCompletionNotice m) s = .next ((s.drop m).retire x.dst { y with flags := orFl y.flags fl }) := by
  change execMmarCompletionNotice m s = _
  simp only [execMmarCompletionNotice, hx, hb, hy]

/-! ### The notice that reaches a migrating thread -/

namespace SubstNotice

/-- The operands of the mmar: of no account here. -/
def operands : VF :=
  { pn := false, pg := 0, vd := 16, dcl := 0, dsc := 0, va := 17, na := false, xa := false, ea := false, ga := 0, vb := 18, nb := false,
    xb := false, eb := false, gb := 0, tag := 0, ty := 0, rm := 0, u := false, gs := 0, eg := false, fn := 0 }
/-- The thread that issued the mmar: number 8, on core 5. -/
def issuer : Origin := { core := 5, slot := 0, uid := 8 }
/-- Command 30 of core 5, an mmar of this thread. -/
def command : Cmd := { id := 30, org := issuer, instr := .mmar operands, eng := .matrix, started := true }
/-- Message 9: core 6 tells core 5 that the mmar is done, with SUBST (flag 32) for its K3 operand. -/
def notice : Msg := { id := 9, src := 6, dst := 5, org := issuer, body := .mmarDone 30 flSUBST false none }
/-- Message 10: the thread migrates from core 5 to core 53, with all its flags clear. -/
def migration : Msg := { id := 10, src := 5, dst := 53, org := issuer, body := .context { uid := 8 } }
/-- The state in which both messages are on their way. -/
def state : State := { net := [notice, migration], cores := [(5, { cmds := [command] })], fresh := 40 }

/-- The step sets SUBST in the migrating thread's status word (bit 13). -/
theorem net_after : ((state.drop 9).retire 5 { command with flags := orFl command.flags flSUBST }).net =
    [{ migration with body := .context { uid := 8, tsw := 0x2000 } }] := by
  rw [State.retire_net 5 rfl (by decide)]
  decide

/-- The migrating thread's message is neither the notice nor as it was. -/
theorem not_netTakes : ¬ NetTakes state ((state.drop 9).retire 5 { command with flags := orFl command.flags flSUBST }) 9 := by
  rintro ⟨hkept, -⟩
  have hmem := hkept migration (by decide) (by decide)
  rw [net_after] at hmem
  exact absurd hmem (by decide)

end SubstNotice

/-- Refutes O48: the statement has every message but the notice stay as it was, but a notice with SUBST sets the flag in the context of
its thread (R62), here in the message by which the thread migrates. -/
theorem not_matrixEvents : ¬ Obligations.MatrixEvents := by
  rintro ⟨⟨-, -, -, hnotice⟩, -⟩
  obtain ⟨u, hu, htakes, -⟩ :=
    hnotice SubstNotice.state 9 30 flSUBST false SubstNotice.notice SubstNotice.command rfl rfl rfl rfl
  have hnext := hu.symm.trans
    (exec_mmarCompletionNotice (s := SubstNotice.state) (m := 9) (x := SubstNotice.notice) (y := SubstNotice.command) rfl rfl rfl)
  rw [Host.Outcome.next.inj hnext] at htakes
  exact SubstNotice.not_netTakes htakes

end Sys2Proof.Machine
end

section
/-! PROOFS. Decode and encode (R158, R160, R161, R166, R171 to R173): each half is read back by the row of its opcode, and what decodes has
passed the check that its bits are the encoding of a well-formed half. -/

namespace Sys2Proof

/-! ### The row of a half -/

namespace Laws.Encoding

/-- Every half carries its opcode in bits [63:56], and the row of that opcode reads it back. -/
theorem statement (i : Instr) : Statement i := by
  cases i with
  | nop => exact nop | add f => exact add f | sub f => exact sub f | mul f => exact mul f | mulh f => exact mulh f
  | mulhu f => exact mulhu f | div f => exact div f | divu f => exact divu f | rem f => exact rem f | remu f => exact remu f
  | and f => exact and f | or f => exact or f | xor f => exact xor f | andn f => exact andn f | shl f => exact shl f | shr f => exact shr f
  | sar f => exact sar f | rot f => exact rot f | min f => exact min f | max f => exact max f | minu f => exact minu f
  | maxu f => exact maxu f | clz f => exact clz f | ctz f => exact ctz f | popc f => exact popc f | sext f => exact sext f
  | zext f => exact zext f | bfx f => exact bfx f | bfi f => exact bfi f | addi f => exact addi f | muli f => exact muli f
  | andi f => exact andi f | ori f => exact ori f | xori f => exact xori f | shli f => exact shli f | shri f => exact shri f
  | sari f => exact sari f | li f => exact li f | lih f => exact lih f | lx f => exact lx f | cmp f => exact cmp f | cmpi f => exact cmpi f
  | pand f => exact pand f | por f => exact por f | pxor f => exact pxor f | pandn f => exact pandn f | ptog f => exact ptog f
  | gtop f => exact gtop f | csel f => exact csel f | addp f => exact addp f | pidx f => exact pidx f | pfmt f => exact pfmt f
  | pchk f => exact pchk f | br f => exact br f | bcmp f => exact bcmp f | call f => exact call f | ret f => exact ret f
  | jr f => exact jr f | jalr f => exact jalr f | loop f => exact loop f | rdsys f => exact rdsys f | trap f => exact trap f
  | brk f => exact brk f | wtsw f => exact wtsw f | ld f => exact ld f | ldn f => exact ldn f | st f => exact st f | ldv f => exact ldv f
  | stv f => exact stv f | ldp f => exact ldp f | stp f => exact stp f | lsh f => exact lsh f | ssh f => exact ssh f
  | shset f => exact shset f | shget f => exact shget f | ldf f => exact ldf f | ldfk f => exact ldfk f | ste f => exact ste f
  | stf f => exact stf f | fest f => exact fest f | feset f => exact feset f | amoadd f => exact amoadd f | amoand f => exact amoand f
  | amoor f => exact amoor f | amoxor f => exact amoxor f | amomin f => exact amomin f | amomax f => exact amomax f
  | amominu f => exact amominu f | amomaxu f => exact amomaxu f | amoswap f => exact amoswap f | amocas f => exact amocas f
  | fence f => exact fence f | chunk f => exact chunk f | pref f => exact pref f | tagwait f => exact tagwait f | tagany f => exact tagany f
  | tagff f => exact tagff f | tagclr f => exact tagclr f | post f => exact post f | take f => exact take f | peek f => exact peek f
  | peekM f => exact peekM f | fork f => exact fork f | join f => exact join f | callat f => exact callat f | reply f => exact reply f
  | send f => exact send f | chblk f => exact chblk f | chunblk f => exact chunblk f | mig f => exact mig f | migc f => exact migc f
  | exit f => exact exit f | yield f => exact yield f | launch f => exact launch f | barinit f => exact barinit f
  | bararr f => exact bararr f | barwait f => exact barwait f | barlink f => exact barlink f | barrd f => exact barrd f
  | gang f => exact gang f | hsift f => exact hsift f | route f => exact route f | rhome f => exact rhome f | rcommit f => exact rcommit f
  | rabort f => exact rabort f | rstat f => exact rstat f | afetch f => exact afetch f | afetchRel f => exact afetchRel f
  | spec f => exact spec f | callh f => exact callh f | reth f => exact reth f | hrel f => exact hrel f | hinfo f => exact hinfo f
  | hkeep f => exact hkeep f | nopV => exact nopV | vadd f => exact vadd f | vsub f => exact vsub f | vmul f => exact vmul f
  | vfma f => exact vfma f | vmin f => exact vmin f | vmax f => exact vmax f | vand f => exact vand f | vor f => exact vor f
  | vxor f => exact vxor f | vshl f => exact vshl f | vshr f => exact vshr f | vsar f => exact vsar f | vcmp f => exact vcmp f
  | vsel f => exact vsel f | vsplat f => exact vsplat f | vmov f => exact vmov f | vext f => exact vext f | vins f => exact vins f
  | viota f => exact viota f | vperm f => exact vperm f | vrcp f => exact vrcp f | vrsqrt f => exact vrsqrt f | vexp2 f => exact vexp2 f
  | vlog2 f => exact vlog2 f | vtanh f => exact vtanh f | vsigm f => exact vsigm f | vsqrt f => exact vsqrt f | vcvt f => exact vcvt f
  | vscale f => exact vscale f | vgath f => exact vgath f | vscat f => exact vscat f | vfill f => exact vfill f
  | vredadd f => exact vredadd f | vredmax f => exact vredmax f | vredmin f => exact vredmin f | vscan f => exact vscan f
  | vnz f => exact vnz f | vcompact f => exact vcompact f | vargmax f => exact vargmax f | vsoftmax f => exact vsoftmax f
  | mma f => exact mma f | mmar f => exact mmar f | manchor f => exact manchor f | macc f => exact macc f | mclr f => exact mclr f
  | mld f => exact mld f | mrot f => exact mrot f | mrotDrop f => exact mrotDrop f | mseg f => exact mseg f | cp f => exact cp f
  | cpg f => exact cpg f | cps f => exact cps f | cpfill f => exact cpfill f | cpr f => exact cpr f | cprPull f => exact cprPull f
  | cpdur f => exact cpdur f
  | _ => exact event rfl

end Laws.Encoding

/-- Opcodes are numbers of eight bits (R160, R166). -/
theorem Instr.opcode_lt (i : Instr) : i.opcode < 256 := by
  unfold Instr.opcode
  split <;> decide

/-- Bits [63:56] of a half, as decode reads them, are its opcode. -/
theorem fld_encodeHalf_opcode {i : Instr} (h : i.side ≠ .event) : fld (encodeHalf i) 56 8 = i.opcode := by
  rw [fld, (Laws.Encoding.statement i).1 h, BitVec.toNat_ofNat, Nat.mod_eq_of_lt i.opcode_lt]

/-! ### What the check of a half answers -/

/-- A half passes the check exactly if its bits are the encoding of a well-formed instruction. -/
theorem checkHalf_eq_ok {w : Word} {i j : Instr} : checkHalf w i = .ok j ↔ i = j ∧ encodeHalf i = w ∧ i.WellFormed := by
  unfold checkHalf
  split
  case isTrue he =>
    split
    case isTrue hw => exact ⟨fun h => ⟨Except.ok.inj h, he, hw⟩, fun h => congrArg _ h.1⟩
    case isFalse hw => simp [hw]
  case isFalse he => split <;> simp [he]

/-- Slot A decodes to the instruction that the row of its opcode reads, if that is well-formed and encodes to the same bits. -/
theorem decodeA_eq_ok {w : Word} {i : Instr} :
    decodeA w = .ok i ↔ rowA (fld w 56 8) w = some i ∧ encodeHalf i = w ∧ i.WellFormed := by
  unfold decodeA
  split <;> simp_all [checkHalf_eq_ok]

/-- Slot V decodes to the instruction that the row of its opcode reads, if that is well-formed and encodes to the same bits. -/
theorem decodeV_eq_ok {w : Word} {i : Instr} :
    decodeV w = .ok i ↔ rowV (fld w 56 8) w = some i ∧ encodeHalf i = w ∧ i.WellFormed := by
  unfold decodeV
  split <;> simp_all [checkHalf_eq_ok]

/-! ### Opcode 0 -/

/-- What reads as a nop is one where every bit is 0, and is refused otherwise (R158). -/
theorem checkHalf_nop {w : Word} {i : Instr} (hi : i = .nop ∨ i = .nopV) :
    checkHalf w i = if w = 0 then .ok i else .error .nopBits := by
  have hbits : encodeHalf i = 0 := by rcases hi with rfl | rfl <;> rfl
  have hwf : i.wf = true := by rcases hi with rfl | rfl <;> rfl
  rw [checkHalf, hbits, if_pos hwf, if_pos hi]
  simp only [eq_comm]

/-- Opcode 0 of slot A. -/
theorem decodeA_of_opcode_zero {w : Word} (h : w.extractLsb' 56 8 = 0) : decodeA w = if w = 0 then .ok .nop else .error .nopBits := by
  have hrow : rowA (fld w 56 8) w = some .nop := by rw [fld, h]; rfl
  rw [decodeA, hrow]
  exact checkHalf_nop (.inl rfl)

/-- Opcode 0 of slot V. -/
theorem decodeV_of_opcode_zero {w : Word} (h : w.extractLsb' 56 8 = 0) : decodeV w = if w = 0 then .ok .nopV else .error .nopBits := by
  have hrow : rowV (fld w 56 8) w = some .nopV := by rw [fld, h]; rfl
  rw [decodeV, hrow]
  exact checkHalf_nop (.inr rfl)

/-- A bundle in which a half of opcode 0 has another bit set is refused by the decoder. -/
theorem decode_error_of_nop_bits {a v : Word} (h : (a ≠ 0 ∧ a.extractLsb' 56 8 = 0) ∨ (v ≠ 0 ∧ v.extractLsb' 56 8 = 0)) :
    decodeA a = .error .nopBits ∨ decodeV v = .error .nopBits := by
  obtain ⟨hne, hop⟩ | ⟨hne, hop⟩ := h
  · exact .inl (by rw [decodeA_of_opcode_zero hop, if_neg hne])
  · exact .inr (by rw [decodeV_of_opcode_zero hop, if_neg hne])

/-! ### Decode after encode -/

/-- The bits of a well-formed slot A half decode to it. -/
theorem decodeA_encodeHalf {i : Instr} (hw : i.WellFormed) (hs : i.side = .slotA) : decodeA (encodeHalf i) = .ok i := by
  rw [decodeA_eq_ok, fld_encodeHalf_opcode (by simp [hs])]
  exact ⟨((Laws.Encoding.statement i).2 hw).1 hs, rfl, hw⟩

/-- The bits of a well-formed slot V half decode to it. -/
theorem decodeV_encodeHalf {i : Instr} (hw : i.WellFormed) (hs : i.side = .slotV) : decodeV (encodeHalf i) = .ok i := by
  rw [decodeV_eq_ok, fld_encodeHalf_opcode (by simp [hs])]
  exact ⟨((Laws.Encoding.statement i).2 hw).2 hs, rfl, hw⟩

/-- An empty slot A half is a nop (R158). -/
theorem decodeA_zero : decodeA 0 = .ok .nop := decodeA_encodeHalf (i := .nop) rfl rfl

/-- An empty slot V half is a nop (R158). -/
theorem decodeV_zero : decodeV 0 = .ok .nopV := decodeV_encodeHalf (i := .nopV) rfl rfl

/-! ### Half of a bundle read back -/

/-- The low half of a bundle. -/
theorem ofNat_toNat_append (v a : Word) : BitVec.ofNat 64 (v ++ a).toNat = a := by
  rw [BitVec.ofNat_toNat, BitVec.setWidth_append_eq_right]

/-- The high half of a bundle. -/
theorem ofNat_toNat_append_div (v a : Word) : BitVec.ofNat 64 ((v ++ a).toNat / 2 ^ 64) = v := by
  rw [← Nat.shiftRight_eq_div_pow]
  exact BitVec.extractLsb'_append_eq_left

/-- A slot A half beside an empty slot V half is read back. -/
theorem decodeTableWord_of_decodeA {a : Word} {i : Instr} (h : decodeA a = .ok i) :
    decodeTableWord 128 ((0 : Word) ++ a).toNat = some i := by
  unfold decodeTableWord
  rw [if_neg (by decide)]
  simp only [ofNat_toNat_append, ofNat_toNat_append_div, decodeV_zero, h]
  split <;> simp_all

/-- A slot V half beside an empty slot A half is read back, unless it is a nop too. -/
theorem decodeTableWord_of_decodeV {v : Word} {i : Instr} (h : decodeV v = .ok i) (hn : i ≠ .nopV) :
    decodeTableWord 128 (v ++ (0 : Word)).toNat = some i := by
  unfold decodeTableWord
  rw [if_neg (by decide)]
  simp only [ofNat_toNat_append, ofNat_toNat_append_div, decodeA_zero, h]

/-- The bundle of a well-formed half and an empty other half is read back as the half. -/
theorem decodeTableWord_encode {i : Instr} (hw : i.WellFormed) (hs : i.side ≠ .event) (hn : i ≠ .nopV) :
    decodeTableWord 128 (encode i).toNat = some i := by
  unfold encode
  cases h : i.side with
  | slotA => exact decodeTableWord_of_decodeA (decodeA_encodeHalf hw h)
  | slotV => exact decodeTableWord_of_decodeV (decodeV_encodeHalf hw h) hn
  | event => exact absurd h hs

/-- Settles O2: decode after encode by the row of each opcode, encode after decode by the check that follows it. -/
theorem decodeEncode : Obligations.DecodeEncode := by
  refine ⟨fun i hw => ⟨decodeA_encodeHalf hw, decodeV_encodeHalf hw, decodeTableWord_encode hw⟩, fun w i h => ?_⟩
  cases h with
  | inl h => exact (decodeA_eq_ok.1 h).2
  | inr h => exact (decodeV_eq_ok.1 h).2

/-- Settles O1: each word of the statement, decoded. -/
theorem decodeSamples : Obligations.DecodeSamples :=
  ⟨rfl, rfl, rfl, rfl, rfl, rfl, rfl, rfl, rfl, rfl, rfl, rfl, rfl⟩

end Sys2Proof
end

section
/-! PROOFS. The guard of a half (R157): every meaning of a half is guarded by PN and PG of its encoding. -/

namespace Sys2Proof

/-! ### PN and PG in a half's bits (R160, R166) -/

theorem AR.guard_bits (f : AR) (op : Nat) : (f.bits op).getLsbD 55 = f.pn ∧ (f.bits op).extractLsb' 52 3 = f.pg :=
  ⟨congrArg AR.pn (Laws.AR.of_bits f op), congrArg AR.pg (Laws.AR.of_bits f op)⟩
theorem AI.guard_bits (f : AI) (op : Nat) : (f.bits op).getLsbD 55 = f.pn ∧ (f.bits op).extractLsb' 52 3 = f.pg :=
  ⟨congrArg AI.pn (Laws.AI.of_bits f op), congrArg AI.pg (Laws.AI.of_bits f op)⟩
theorem AM.guard_bits (f : AM) (op : Nat) : (f.bits op).getLsbD 55 = f.pn ∧ (f.bits op).extractLsb' 52 3 = f.pg :=
  ⟨congrArg AM.pn (Laws.AM.of_bits f op), congrArg AM.pg (Laws.AM.of_bits f op)⟩
theorem AB.guard_bits (f : AB) (op : Nat) : (f.bits op).getLsbD 55 = f.pn ∧ (f.bits op).extractLsb' 52 3 = f.pg :=
  ⟨congrArg AB.pn (Laws.AB.of_bits f op), congrArg AB.pg (Laws.AB.of_bits f op)⟩
theorem AX.guard_bits (f : AX) (op : Nat) : (f.bits op).getLsbD 55 = f.pn ∧ (f.bits op).extractLsb' 52 3 = f.pg :=
  ⟨congrArg AX.pn (Laws.AX.of_bits f op), congrArg AX.pg (Laws.AX.of_bits f op)⟩
theorem VF.guard_bits (f : VF) (op : Nat) : (f.bits op).getLsbD 55 = f.pn ∧ (f.bits op).extractLsb' 52 3 = f.pg :=
  ⟨congrArg VF.pn (Laws.VF.of_bits f op), congrArg VF.pg (Laws.VF.of_bits f op)⟩

namespace Machine

/-- In state s the instruction leads to some state u if its guard is true, and to s otherwise; the guard is PN and PG of its encoding,
bits 55 and 54 to 52 (R157). -/
def GuardedBy (i : Instr) (s : State) : Prop :=
  ∃ u, exec i s = .next (if s.guard ((encodeHalf i).getLsbD 55) ((encodeHalf i).extractLsb' 52 3) then u else s)

/-- A meaning that is guarded by two fields, which are PN and PG of the encoding. -/
theorem guardedBy_of {i : Instr} {s u : State} {pn : Bool} {pg : BitVec 3}
    (hb : (encodeHalf i).getLsbD 55 = pn ∧ (encodeHalf i).extractLsb' 52 3 = pg)
    (hx : exec i s = .next (if s.guard pn pg then u else s)) : GuardedBy i s := by
  obtain ⟨rfl, rfl⟩ := hb
  exact ⟨u, hx⟩

/-- Every half is guarded by PN and PG of its encoding; a nop has no effect in either case. -/
theorem guardedBy (i : Instr) (s : State) (he : i.side ≠ .event) : GuardedBy i s := by
  cases i with
  | nop | nopV => exact ⟨s, by rw [ite_self]; rfl⟩
  | add f | sub f | mul f | mulh f | mulhu f | div f | divu f | rem f | remu f | and f | or f | xor f | andn f | shl f | shr f | sar f
  | rot f | min f | max f | minu f | maxu f | clz f | ctz f | popc f | cmp f | pand f | por f | pxor f | pandn f | ptog f | gtop f | csel f
  | addp f | pidx f | pchk f | ret f | jr f | jalr f | wtsw f | tagwait f | tagany f | tagff f | tagclr f | post f | take f | peek f
  | peekM f | fork f | join f | callat f | reply f | send f | chblk f | chunblk f | mig f | migc f | exit f | yield f | launch f | bararr f
  | barwait f | barlink f | barrd f | hsift f | route f | rhome f | rcommit f | rabort f | rstat f | afetch f | afetchRel f | spec f
  | callh f | reth f | hrel f | hinfo f | hkeep f => exact guardedBy_of (AR.guard_bits f _) rfl
  | sext f | zext f | bfx f | bfi f | addi f | muli f | andi f | ori f | xori f | shli f | shri f | sari f | cmpi f | pfmt f | rdsys f
  | trap f | brk f | shset f | shget f | chunk f | barinit f | gang f => exact guardedBy_of (AI.guard_bits f _) rfl
  | ld f | ldn f | st f | ldv f | stv f | ldp f | stp f | lsh f | ssh f | ldf f | ldfk f | ste f | stf f | fest f | feset f | amoadd f
  | amoand f | amoor f | amoxor f | amomin f | amomax f | amominu f | amomaxu f | amoswap f | amocas f | fence f
  | pref f => exact guardedBy_of (AM.guard_bits f _) rfl
  | br f | bcmp f | call f | loop f => exact guardedBy_of (AB.guard_bits f _) rfl
  | li f | lih f | lx f => exact guardedBy_of (AX.guard_bits f _) rfl
  | vadd f | vsub f | vmul f | vfma f | vmin f | vmax f | vand f | vor f | vxor f | vshl f | vshr f | vsar f | vcmp f | vsel f | vsplat f
  | vmov f | vext f | vins f | viota f | vperm f | vrcp f | vrsqrt f | vexp2 f | vlog2 f | vtanh f | vsigm f | vsqrt f | vcvt f | vscale f
  | vgath f | vscat f | vfill f | vredadd f | vredmax f | vredmin f | vscan f | vnz f | vcompact f | vargmax f | vsoftmax f | mma f
  | mmar f | manchor f | macc f | mclr f | mld f | mrot f | mrotDrop f | mseg f | cp f | cpg f | cps f | cpfill f | cpr f | cprPull f
  | cpdur f => exact guardedBy_of (VF.guard_bits f _) rfl
  | _ => exact absurd rfl he

/-- A guard is false exactly if the predicate that PG names, before the bundle, is PN; p0 reads 1 (R157). -/
theorem guard_eq_false_iff (s : State) (pn : Bool) (pg : BitVec 3) : s.guard pn pg = false ↔ s.ctx.pre.pred pg.toNat = pn := by
  simp [State.guard, State.rp, Thread.pred]

/-- Settles O6: the guard of the encoding is false, and every half is guarded by it. -/
theorem guardFalse : Obligations.GuardFalse := by
  intro i s he _ hp
  obtain ⟨u, hu⟩ := guardedBy i s he
  rw [hu, (guard_eq_false_iff s _ _).2 hp, if_neg Bool.false_ne_true]

end Machine
end Sys2Proof
end

section
/-! PROOFS. Conditions, compares, predicate instructions and csel (R163, R191 to R193). -/

namespace Sys2Proof.Machine

/-! ### The result of a half whose guard is true -/

section
variable {i : Instr} {s : State} {pn : Bool} {pg : BitVec 3} (hg : s.guard pn pg = true)
include hg

/-- A half that writes g[rd]. -/
theorem gives_of_guard {rd : BitVec 4} {x : Word} (hx : exec i s = .next (if s.guard pn pg then s.wg rd x else s)) : Gives i s rd x :=
  ⟨s.wg rd x, by rw [hx, hg, if_pos rfl], writesReg_wg s rd x⟩

/-- A half that writes the predicate of a register field. -/
theorem givesPred_of_guard {rd : BitVec 4} {b : Bool} (hx : exec i s = .next (if s.guard pn pg then s.wp rd.toNat b else s)) :
    GivesPred i s rd.toNat b :=
  ⟨s.wp rd.toNat b, by rw [hx, hg, if_pos rfl], writesPred_wp s _ b (by omega)⟩

end

/-! ### Conditions and csel -/

/-- The ten conditions as comparisons of numbers (R163). -/
theorem condHolds_codes (a b : Word) :
    [condHolds 0 a b, condHolds 1 a b, condHolds 2 a b, condHolds 3 a b, condHolds 4 a b, condHolds 5 a b, condHolds 6 a b,
      condHolds 7 a b, condHolds 8 a b, condHolds 9 a b] =
    [decide (a = b), decide (a ≠ b), decide (a.toInt < b.toInt), decide (b.toInt ≤ a.toInt), decide (a.toNat < b.toNat),
      decide (b.toNat ≤ a.toNat), decide (a.toInt ≤ b.toInt), decide (b.toInt < a.toInt), decide (a.toNat ≤ b.toNat),
      decide (b.toNat < a.toNat)] := by
  simp [condHolds, BitVec.slt, BitVec.sle, BitVec.ult, BitVec.ule, bne, Bool.beq_eq_decide_eq]

/-- csel takes the second source if the predicate of FN's low three bits is FN's bit 3, and the first one otherwise (R193). -/
theorem csel_choice (s : State) (fn : BitVec 6) (x y : Word) :
    (if s.rp (fld fn 0 3) != fn.getLsbD 3 then x else y) = if s.rp (fn.toNat % 8) = fn.getLsbD 3 then y else x := by
  have hfld : fld fn 0 3 = fn.toNat % 8 := by simp [fld]
  simp only [hfld, bne_iff_ne, ne_eq, ite_not]

/-- Settles O14: each compare and predicate instruction is a half that writes one predicate, csel one that writes a general register. -/
theorem predicateResults : Obligations.PredicateResults := by
  refine ⟨condHolds_codes, fun f s hg => ?_, fun f s hg => ?_⟩
  · have hgtop : GivesPred (.gtop f) s f.rd.toNat (s.rg f.ra != 0) := givesPred_of_guard hg rfl
    have hcsel := gives_of_guard (i := .csel f) hg rfl
    rw [csel_choice] at hcsel
    rw [bne, Bool.beq_eq_decide_eq, ← decide_not] at hgtop
    exact ⟨givesPred_of_guard hg rfl, givesPred_of_guard hg rfl, givesPred_of_guard hg rfl, givesPred_of_guard hg rfl,
      givesPred_of_guard hg rfl, givesPred_of_guard hg rfl, hgtop, hcsel⟩
  · exact ⟨f.imm.signExtend 64, BitVec.toInt_signExtend_of_le (by decide), givesPred_of_guard hg rfl⟩

end Sys2Proof.Machine
end

section
/-! PROOFS. The issue of a bundle that is refused at decode (R26, R154, R156, R158, R173). -/

namespace Sys2Proof.Machine

/-! ### The caches that a fetch passes -/

/-- What the caches leave as it was: threads, the record of the issue, memory, the hub, and the records that wait on every core. -/
structure CachesOnly (s u : State) : Prop where
  threads : u.threads = s.threads
  ctx : u.ctx = s.ctx
  mem : u.mem = s.mem
  hub : u.hub = s.hub
  waiting : ∀ c, (u.core c).waiting = (s.core c).waiting

namespace CachesOnly

theorem refl (s : State) : CachesOnly s s := ⟨rfl, rfl, rfl, rfl, fun _ => rfl⟩

theorem trans {s u w : State} (h : CachesOnly s u) (k : CachesOnly u w) : CachesOnly s w :=
  ⟨k.threads.trans h.threads, k.ctx.trans h.ctx, k.mem.trans h.mem, k.hub.trans h.hub, fun c => (k.waiting c).trans (h.waiting c)⟩

/-- A core is replaced by one with the same waiting records. -/
theorem setCore (s : State) {c : Nat} {k : Core} (h : k.waiting = (s.core c).waiting) : CachesOnly s (s.setCore c k) := by
  refine ⟨rfl, rfl, rfl, rfl, fun d => ?_⟩
  rw [State.core_setCore]
  split
  · next e => rw [h, e]
  · rfl

theorem bump (s : State) : CachesOnly s s.bump := ⟨rfl, rfl, rfl, rfl, fun _ => rfl⟩

theorem modDie (s : State) (d : Nat) (f : Die → Die) : CachesOnly s (s.modDie d f) := ⟨rfl, rfl, rfl, rfl, fun _ => rfl⟩

theorem send (s : State) (m : Msg) : CachesOnly s (s.send m) :=
  ⟨by simp, by simp, by simp, by simp, fun c => by rw [State.core_of_cores (State.send_cores s m)]⟩

/-- A dirty line leaves a slice (R110). -/
theorem writeBack (s : State) (c line : Nat) (l : L2Line) : CachesOnly s (s.writeBack c line l) := by
  unfold State.writeBack
  split
  · exact refl s
  · exact send s _

/-- An access at its home slice (R109, R110). -/
theorem l2Touch (s : State) (c ten pa n hint : Nat) (wr : Bool) : CachesOnly s (s.l2Touch c ten pa n hint wr) := by
  have hset : ∀ l2, CachesOnly s (s.bump.setCore c { s.core c with l2 := l2 }) := fun _ => (bump s).trans (setCore s.bump rfl)
  unfold State.l2Touch
  dsimp only
  split
  · exact hset _
  · split
    · exact refl s
    · split
      · exact (hset _).trans (writeBack _ _ _ _)
      · exact hset _

/-- A hit in a bank (R109). -/
theorem bankUse (s : State) (c line hint : Nat) : CachesOnly s (s.bankUse c line hint) := by
  unfold State.bankUse
  split
  · exact refl s
  · exact (bump s).trans (modDie _ _ _)

/-- A bank is filled, and the line's directory lists its die (R108). -/
theorem bankFill (s : State) (c pa n hint : Nat) : CachesOnly s (s.bankFill c pa n hint) :=
  ((bump s).trans (modDie _ _ _)).trans (setCore _ rfl)

/-- An access of device memory at the slices and banks that it passes (R107 to R110). -/
theorem devTouch (s : State) (c pa n hint : Nat) (wr : Bool) : CachesOnly s (s.devTouch c pa n hint wr) := by
  unfold State.devTouch
  dsimp only
  split
  · exact refl s
  · refine iteInduction (motive := CachesOnly s) (fun _ => l2Touch s _ _ _ _ _ _) fun _ => ?_
    refine iteInduction (motive := CachesOnly s) (fun _ => (bankUse s _ _ _).trans (l2Touch _ _ _ _ _ _ _)) fun _ => ?_
    refine iteInduction (motive := CachesOnly s) (fun _ => bankUse s _ _ _) fun _ => ?_
    exact iteInduction (motive := CachesOnly s) (fun _ => l2Touch s _ _ _ _ _ _)
      fun _ => (l2Touch s _ _ _ _ _ _).trans (bankFill _ _ _ _ _)

/-- The line of a fetched bundle. -/
theorem fetchTouch (s : State) (c : Nat) (t : Thread) : CachesOnly s (s.fetchTouch c t) := by
  unfold State.fetchTouch
  split
  · exact devTouch s _ _ _ _ _
  · exact refl s

/-- Whether a fault takes effect at once does not depend on the caches. -/
theorem faultsAtOnce {s u : State} (h : CachesOnly s u) (hs : s.faultsAtOnce) : u.faultsAtOnce := by
  have hcur : u.cur = s.cur := by simp only [State.cur, State.thr, h.threads, h.ctx]
  have hfull : u.recordsFull u.ctx.core = s.recordsFull s.ctx.core := by
    simp only [State.recordsFull, h.threads, h.ctx, h.waiting]
  unfold State.faultsAtOnce
  rw [hcur, hfull]
  exact hs

end CachesOnly

/-! ### The end of reservations -/

/-- The reservations that end are the porters' alone. -/
theorem lapse_eq (s u : State) : ∃ p, s.lapse u = { u with porters := p } := by
  unfold State.lapse
  split
  · exact ⟨u.porters, rfl⟩
  · exact ⟨_, rfl⟩

/-- A thread that has parked on a fault has, whatever reservations end. -/
theorem parks_lapse {s u : State} {f : FaultInfo} (h : Parks s u f) (b : State) : Parks s (b.lapse u) f := by
  obtain ⟨p, hp⟩ := lapse_eq b u
  rw [hp]
  exact h

/-! ### The bundle that a thread fetches -/

/-- The bytes of a bundle that no store hides are those of memory (R159). -/
theorem fetchBytes_of_unhidden {s : State} {pa entered : Nat} (h : ∀ x ∈ s.codeLog, x.addr ≠ pa) :
    s.fetchBytes pa entered = Mem.readN s.mem pa 16 := by
  have hnone : s.codeLog.find? (fun x => x.addr == pa && x.hidden entered) = none := by
    rw [List.find?_eq_none]
    intro x hx
    simp [h x hx]
  rw [State.fetchBytes, hnone]

/-- Sixteen bytes of memory are two words (R4, R154). -/
theorem words_of_readN (s : State) (pa : Nat) :
    BitVec.ofNat 64 (natOfBytes ((Mem.readN s.mem pa 16).take 8)) = s.mem64 pa ∧
      BitVec.ofNat 64 (natOfBytes ((Mem.readN s.mem pa 16).drop 8)) = s.mem64 (pa + 8) := ⟨rfl, rfl⟩

/-- A fetch as the premises of an issue say finds the two words at the bundle's address. -/
theorem fetch_of_fetches {s : State} {r : List Turn} {c k pa : Nat} {t : Thread} (h : s.fetches r c k t pa) :
    s.fetch c t = .words (s.mem64 pa) (s.mem64 (pa + 8)) := by
  obtain ⟨-, -, -, -, -, -, -, -, halign, hlow, htrans, hdev, hpoison, hlog⟩ := h
  have hdevice : isDevice pa = true := by simpa [isDevice] using hdev
  unfold State.fetch
  rw [if_neg (by simp [halign]), if_neg (by omega), htrans]
  dsimp only
  rw [if_neg (by simp [hdevice]), if_neg (by simp [hpoison]), fetchBytes_of_unhidden hlog]
  rfl

/-- A fetch finds the same when its thread has been chosen. -/
theorem fetch_atIssue (s : State) (r : List Turn) (c k : Nat) (t : Thread) (a v : Word) :
    (s.atIssue r c k t a v).fetch c t = s.fetch c t := rfl

/-- What becomes of a bundle's two words once they are fetched, in the state after the caches. -/
def State.issueWords (s : State) (a v : Word) : State :=
  match decodeA a, decodeV v with
  | .ok i, .ok j => if s.gangFault j then s.faultCode 0x01 else s.issueDecoded i j
  | _, _ => s.faultCode 0x01

/-- A bundle with a half that is refused at decode is the reserved-code fault (R173). -/
theorem issueWords_of_error {s : State} {a v : Word} {e : Reject} (h : decodeA a = .error e ∨ decodeV v = .error e) :
    s.issueWords a v = s.faultCode 0x01 := by
  unfold State.issueWords
  cases h with
  | inl h => rw [h]
  | inr h => rw [h]; cases decodeA a <;> rfl

/-- The state in which a core that issues by itself has been taken from the agenda (R26). -/
def State.takenUp (s : State) (r : List Turn) (c : Nat) : State :=
  { s with agenda := r, issued := insertNat s.issued c, gangV := [] }

/-- A core outside gang mode issues its chosen thread alone (R26, R43). -/
theorem issueCore_of_fetches {s : State} {r : List Turn} {c k pa : Nat} {t : Thread} (h : s.fetches r c k t pa) :
    State.issueCore { s with agenda := r } c = (s.takenUp r c).issueAt c k := by
  obtain ⟨-, hgang, hissued, hthr, hpick, helig, -⟩ := h
  have hpick' : State.pick { s with agenda := r } c = some k := hpick
  have hthr' : State.thr { s with agenda := r } c k = some t := hthr
  have hissuers : State.issuers { s with agenda := r } c = [c] := by simp [State.issuers, hgang, hissued]
  have hregs : State.gangRegs { s with agenda := r } c k = [] := by simp [State.gangRegs, hgang]
  simp [State.issueCore, hpick', hthr', hissuers, hregs, helig, State.takenUp]

/-- The issue of a thread that has nothing to take up: the two words that its fetch finds, after the caches. -/
theorem issueAt_of_fetches {s : State} {r : List Turn} {c k pa : Nat} {t : Thread} (h : s.fetches r c k t pa) :
    (s.takenUp r c).issueAt c k =
      ((s.atIssue r c k t (s.mem64 pa) (s.mem64 (pa + 8))).fetchTouch c t).issueWords (s.mem64 pa) (s.mem64 (pa + 8)) := by
  have hfetch := (fetch_atIssue s r c k t 0 0).trans (fetch_of_fetches h)
  obtain ⟨-, -, -, hthr, -, -, hstart, hacc, -⟩ := h
  have hthr' : (s.takenUp r c).thr c k = some t := hthr
  unfold State.issueAt
  rw [hthr']
  dsimp only
  split
  case h_1 f z he => exact absurd (hstart.symm.trans he) (by simp)
  case h_2 =>
    split
    case h_1 f he => exact absurd (hfetch.symm.trans he) (by simp)
    case h_2 he => exact absurd (hfetch.symm.trans he) (by simp)
    case h_3 a v he =>
      obtain ⟨rfl, rfl⟩ := Fetched.words.inj (hfetch.symm.trans he)
      rw [hacc]
      rfl

/-- The step of a core that issues next: its turn leaves the agenda, and the two words at its thread's bundle are issued. -/
theorem step_of_fetches {s : State} {r : List Turn} {c k pa : Nat} {t : Thread} (h : s.fetches r c k t pa) :
    step s = .next (s.lapse
      (((s.atIssue r c k t (s.mem64 pa) (s.mem64 (pa + 8))).fetchTouch c t).issueWords (s.mem64 pa) (s.mem64 (pa + 8)))) := by
  have hagenda : s.agenda = .issue c :: r := h.1
  rw [step, hagenda, ← issueAt_of_fetches h, ← issueCore_of_fetches h]
  rfl

/-! ### The obligation -/

/-- Settles O7: the decoder refuses a nop half with another bit set, and the step that issues its bundle takes the reserved-code fault. -/
theorem noOperations : Obligations.NoOperations := by
  refine ⟨fun s => ⟨rfl, rfl⟩, fun w h => ⟨decodeA_of_opcode_zero h, decodeV_of_opcode_zero h⟩, ?_⟩
  intro s c k pa t r hfetch a v hbits hfault
  refine ⟨_, step_of_fetches hfetch, parks_lapse ?_ s⟩
  rw [issueWords_of_error (decode_error_of_nop_bits hbits)]
  exact parks_takeFault ((CachesOnly.fetchTouch _ c t).faultsAtOnce hfault) _

end Sys2Proof.Machine
end
